-- ==== Sys2Proof/Word.lean ====
section
/-! DEFINITION. The word types of the Claez: bytes, instruction words, the 64-bit values of registers, and the sparse
tables (key and value pairs) in which the state holds its numbered things. Bit 0 is the least significant bit (R8). -/

namespace Sys2Proof

/-- A byte of memory, pad or tile register. -/
abbrev Byte := BitVec 8

/-- An instruction word (R104). -/
abbrev Word := BitVec 32

/-- A scalar register, a CSR, a virtual address before it is checked. -/
abbrev DWord := BitVec 64

/-- A sparse table: the values of the keys it lists; every other key has the default its reader names. -/
abbrev Map (α : Type) := List (Nat × α)

end Sys2Proof
end

