-- ==== Sys2Proof/Config.lean ====
section
/-! DEFINITION. The free values (notes/assumptions): what the spec leaves open and the machine goes on with. None has a
body, so nothing can be proved of a value of one; each is applied to `State.free` or to what it depends on. -/

namespace Sys2Proof

/-- A value that the spec does not state; the step that uses it advances `State.free`. -/
opaque Config.freeNat : Nat → Nat

/-- A choice that the spec does not state. -/
opaque Config.freeBit : Nat → Bool

/-- What the sensor of a level source reads (R484): source, sub-selector, die, cycle. -/
opaque Config.sensor : Nat → Nat → Nat → Nat → Int

/-- Byte i of the Ed25519 signature of the device over some bytes (R430). -/
opaque Config.ed25519 : List Byte → Nat → Byte

/-- Byte i of the ML-DSA-65 signature of the device over some bytes (R430). -/
opaque Config.mldsa : List Byte → Nat → Byte

/-- Byte i of the two public keys of the device (R430). -/
opaque Config.pubKeys : Nat → Byte

/-- The integrity check of a frame under a secure association key and a packet number (R420): GCM-AES-256 or GCM-AES-XPN-256. -/
opaque Config.gcmIcv : List Byte → Nat → List Byte → List Byte

/-- The integrity check of an MKA message under the connectivity association key (R420). -/
opaque Config.mkaIcv : List Byte → List Byte → List Byte

/-- The key that a wrapped key of an MKA message holds, under the connectivity association key (R420). -/
opaque Config.mkaUnwrap : List Byte → List Byte → List Byte

/-- A key that the device wraps when it is key server (R420). -/
opaque Config.mkaWrap : List Byte → List Byte → List Byte

/-- A secure association key that the device makes as key server (R420). -/
opaque Config.newSak : Nat → List Byte

/-- The frequency correction, in ns per second, that the servo chooses at a measured offset, from the one before (R419): the
spec bounds it and gives no law. -/
opaque Config.servo : Int → Int → Int

/-- The lowest address of the reserved adjournment area (R475). -/
opaque Config.adjBase : Nat

/-- The lowest address of the firmware region of a die in reserved HBM (R132). -/
opaque Config.fwBase : Nat → Nat

end Sys2Proof
end

