-- ==== Sys2Proof/Machine/Map.lean ====
section
/-! DEFINITION. Sparse tables: reading, writing and removing a key. Every other file reaches a `Map` through these, and the
memory and the pads are `Map`s of bytes. -/

namespace Sys2Proof.Machine

/-- The value of a key; d for a key that is not listed. -/
def mget {α : Type} (d : α) : Map α → Nat → α
  | [], _ => d
  | (k', v) :: t, k => if k' = k then v else mget d t k

/-- Lists a key with a value, keeping the keys in rising order. -/
def mset {α : Type} : Map α → Nat → α → Map α
  | [], k, v => [(k, v)]
  | (k', v') :: t, k, v =>
    if k = k' then (k, v) :: t
    else if k < k' then (k, v) :: (k', v') :: t
    else (k', v') :: mset t k v

/-- Takes a key out. -/
def mdel {α : Type} : Map α → Nat → Map α
  | [], _ => []
  | (k', v') :: t, k => if k' = k then mdel t k else (k', v') :: mdel t k

/-- Writes a value; the value d, which an unlisted key has, is not listed. -/
def mput {α : Type} [DecidableEq α] (d : α) (m : Map α) (k : Nat) (v : α) : Map α :=
  if v = d then mdel m k else mset m k v

/-- The canonical form: keys strictly rising from above lo, no value equal to d. -/
def mwfFrom {α : Type} [DecidableEq α] (d : α) (lo : Nat) : Map α → Bool
  | [] => true
  | (k, v) :: t => decide (lo ≤ k) && decide (v ≠ d) && mwfFrom d (k + 1) t

/-- The canonical form of a whole table. -/
def mwf {α : Type} [DecidableEq α] (d : α) (m : Map α) : Bool := mwfFrom d 0 m

/-- The listed keys. -/
def mkeys {α : Type} (m : Map α) : List Nat := m.map fun p => p.1

/-- The first listed key whose value passes a test. -/
def mfind {α : Type} (p : Nat → α → Bool) : Map α → Option Nat
  | [] => none
  | (k, v) :: t => if p k v then some k else mfind p t

/-- The first element that no later one betters. -/
def bestOf {α : Type} (better : α → α → Bool) : List α → Option α
  | [] => none
  | a :: t => some (t.foldl (fun x y => if better y x then y else x) a)

/-- n keys from k on, read with default d. -/
def mgetN {α : Type} (d : α) (m : Map α) (k : Nat) : Nat → List α
  | 0 => []
  | n + 1 => mget d m k :: mgetN d m (k + 1) n

/-- Writes consecutive keys from k on. -/
def mputN {α : Type} [DecidableEq α] (d : α) (m : Map α) (k : Nat) : List α → Map α
  | [] => m
  | v :: t => mputN d (mput d m k v) (k + 1) t

/-- An unsigned number from its bytes, the least significant first (R8). -/
def leNat : List Byte → Nat
  | [] => 0
  | b :: t => b.toNat + 256 * leNat t

/-- The n bytes of a number, the least significant first (R8). -/
def leBytes : Nat → Nat → List Byte
  | 0, _ => []
  | n + 1, v => BitVec.ofNat 8 v :: leBytes n (v / 256)

/-- A flag as a bit. -/
def bit (b : Bool) : Nat := if b then 1 else 0

end Sys2Proof.Machine
end

