-- ==== Sys2Proof/Syntax.lean ====
section
/-! DEFINITION. The operations of the Claez as data: one constructor of `Instr` for each row of the opcode table. The
A-ISA and X-ISA instructions carry the fields of their encodings (R110, R117, R121); the device steps and host commands
that have no encoding carry no fields: a device step acts on the first unit, in the order of the units' numbers, at
which the rules let it happen, and what the outside world supplies stands in the state (`State.arg`). -/

namespace Sys2Proof

/-- The RING nibble (R104, R105): the waits of word 1 and the signals of word 2 (of the one word of a one-word
instruction). -/
structure Ring where
  wp : Bool
  wn : Bool
  sp : Bool
  sn : Bool
deriving DecidableEq, Repr

/-- The element types of EX (R41, R116). -/
inductive ElemT where
  | i8 | n8 | i16 | n16 | i32 | n32 | f16 | bf16 | f32 | b8 | i4 | n4
deriving DecidableEq, Repr

/-- The conditions of R113. -/
inductive Cond where
  | eq | ne | lt | ge | ltu | geu | le | gt | leu | gtu | un | ord
deriving DecidableEq, Repr

/-- The order codes of R85; code 0 is relaxed, or sc on FENCE. -/
inductive Ord where
  | rlx | acq | rel | ar
deriving DecidableEq, Repr

/-- The scopes of R85, R86. -/
inductive Scope where
  | core | cl | die | dev | sys
deriving DecidableEq, Repr

/-- The access sizes of the AM format (R110). -/
inductive Size where
  | b | h | w | d
deriving DecidableEq, Repr

/-- The rounding modes of R53. -/
inductive Rm where
  | rne | rtz | rup | rdn | rsr
deriving DecidableEq, Repr

/-- The fill sides of a port (R194). -/
inductive Src where
  | glob | msgq | dcmp | gath | mx | ex | merge | pad
deriving DecidableEq, Repr

/-- The drain sides of a port (R194). -/
inductive Dst where
  | ex | glob | remote | scale | mxb | mxa | index | merge | hdl | pad
deriving DecidableEq, Repr

/-- The special registers of EX that XGET and XSET name (R260). -/
inductive XSel where
  | vshape | fmt8 | fpctl | fpacc
deriving DecidableEq, Repr

/-- The source kinds of MXLDB (R316). -/
inductive MxKind where
  | port | pad | glob
deriving DecidableEq, Repr

/-- The two forms of MXANC (R323): a value, or the default of a pair of formats. -/
inductive MxAnc where
  | val (n : BitVec 9)
  | deflt (af bf : BitVec 6)
deriving DecidableEq, Repr

/-- The mask of an XW instruction (R117, R263): none (KE 0), or a mask register and its KZ. -/
abbrev Mask := Option (BitVec 3 × Bool)

/-- The rounding override of an XW instruction (R117): none (RMO 0), or RM and SM. -/
abbrev RmOv := Option (Rm × Bool)

/-- The wait or signal field of a matrix command (R121): none, or a virtual semaphore. -/
abbrev SemF := Option (BitVec 4)

/-- The operations of the opcode table: 233 instructions and 104 device steps. -/
inductive Instr where
  /-- ADD: Adds two a registers modulo 2^64 (R141) -/
  | add (r : Ring) (rd rs1 rs2 : BitVec 5)
  /-- SUB: Subtracts two a registers modulo 2^64 (R141) -/
  | sub (r : Ring) (rd rs1 rs2 : BitVec 5)
  /-- MUL: Writes the low 64 bits of the product (R141) -/
  | mul (r : Ring) (rd rs1 rs2 : BitVec 5)
  /-- MULH: Writes the high 64 bits of the signed 128-bit product (R141) -/
  | mulh (r : Ring) (rd rs1 rs2 : BitVec 5)
  /-- MULHU: Writes the high 64 bits of the unsigned 128-bit product (R141) -/
  | mulhu (r : Ring) (rd rs1 rs2 : BitVec 5)
  /-- DIV: Signed division rounded toward zero, with the defined borderline results (R141) -/
  | div (r : Ring) (rd rs1 rs2 : BitVec 5)
  /-- DIVU: Unsigned division, with all ones for a zero divisor (R141) -/
  | divu (r : Ring) (rd rs1 rs2 : BitVec 5)
  /-- REM: Signed remainder, with the defined borderline results (R141) -/
  | rem (r : Ring) (rd rs1 rs2 : BitVec 5)
  /-- REMU: Unsigned remainder (R141) -/
  | remu (r : Ring) (rd rs1 rs2 : BitVec 5)
  /-- MIN: Signed minimum (R141) -/
  | min (r : Ring) (rd rs1 rs2 : BitVec 5)
  /-- MINU: Unsigned minimum (R141) -/
  | minu (r : Ring) (rd rs1 rs2 : BitVec 5)
  /-- MAX: Signed maximum (R141) -/
  | max (r : Ring) (rd rs1 rs2 : BitVec 5)
  /-- MAXU: Unsigned maximum (R141) -/
  | maxu (r : Ring) (rd rs1 rs2 : BitVec 5)
  /-- SHL: Shifts left by the low 6 bits of the second source (R141) -/
  | shl (r : Ring) (rd rs1 rs2 : BitVec 5)
  /-- SHR: Shifts right logically (R141) -/
  | shr (r : Ring) (rd rs1 rs2 : BitVec 5)
  /-- SAR: Shifts right arithmetically (R141) -/
  | sar (r : Ring) (rd rs1 rs2 : BitVec 5)
  /-- AND: Bitwise and (R141) -/
  | and (r : Ring) (rd rs1 rs2 : BitVec 5)
  /-- OR: Bitwise or (R141) -/
  | or (r : Ring) (rd rs1 rs2 : BitVec 5)
  /-- XOR: Bitwise exclusive or (R141) -/
  | xor (r : Ring) (rd rs1 rs2 : BitVec 5)
  /-- CLZ: Counts leading zero bits (R141) -/
  | clz (r : Ring) (rd rs1 : BitVec 5)
  /-- POPC: Counts one bits (R141) -/
  | popc (r : Ring) (rd rs1 : BitVec 5)
  /-- ADDI: Adds a sign-extended 12-bit immediate (R142) -/
  | addi (r : Ring) (rd rs1 : BitVec 5) (imm : BitVec 12)
  /-- ANDI: Ands with a sign-extended immediate (R142) -/
  | andi (r : Ring) (rd rs1 : BitVec 5) (imm : BitVec 12)
  /-- ORI: Ors with a sign-extended immediate (R142) -/
  | ori (r : Ring) (rd rs1 : BitVec 5) (imm : BitVec 12)
  /-- XORI: Exclusive-ors with a sign-extended immediate (R142) -/
  | xori (r : Ring) (rd rs1 : BitVec 5) (imm : BitVec 12)
  /-- SHLI: Shifts left by an immediate (R142) -/
  | shli (r : Ring) (rd rs1 : BitVec 5) (sh : BitVec 6)
  /-- SHRI: Shifts right logically by an immediate (R142) -/
  | shri (r : Ring) (rd rs1 : BitVec 5) (sh : BitVec 6)
  /-- SARI: Shifts right arithmetically by an immediate (R142) -/
  | sari (r : Ring) (rd rs1 : BitVec 5) (sh : BitVec 6)
  /-- LI: Loads a sign-extended 17-bit immediate (R143) -/
  | li (r : Ring) (rd : BitVec 5) (imm : BitVec 17)
  /-- LUI: Shifts the destination left by 17 and ors in a 17-bit immediate (R143) -/
  | lui (r : Ring) (rd : BitVec 5) (imm : BitVec 17)
  /-- CMP: Writes a predicate from a 64-bit integer comparison of two registers (R144) -/
  | cmp (r : Ring) (qd : BitVec 7) (rs1 rs2 : BitVec 5) (cond : Cond)
  /-- CMPI: Writes a predicate from a comparison with a 6-bit immediate (R144) -/
  | cmpi (r : Ring) (qd : BitVec 7) (rs1 : BitVec 5) (cond : Cond) (imm : BitVec 6)
  /-- PAND: Ands two predicates of q0-q31 (R145) -/
  | pand (r : Ring) (qd qa qb : BitVec 5)
  /-- POR: Ors two predicates (R145) -/
  | por (r : Ring) (qd qa qb : BitVec 5)
  /-- PXOR: Exclusive-ors two predicates (R145) -/
  | pxor (r : Ring) (qd qa qb : BitVec 5)
  /-- PNOT: Negates a predicate (R145) -/
  | pnot (r : Ring) (qd qa : BitVec 5)
  /-- SEL: Selects one of two registers by a predicate (R146) -/
  | sel (r : Ring) (rd rs1 rs2 : BitVec 5) (q : BitVec 7)
  /-- CSRR: Reads a system register (R147) -/
  | csrr (r : Ring) (rd : BitVec 5) (csr : BitVec 12)
  /-- CSRW: Writes a system register that has no row of its own, with the access checks of R99 and R9 (R147) -/
  | csrw (r : Ring) (rs : BitVec 5) (csr : BitVec 12)
  /-- B: Branches relative when the predicate, possibly negated, is true (R148) -/
  | b (r : Ring) (q : BitVec 7) (n : Bool) (off : BitVec 14)
  /-- J: Jumps to an absolute word address (R149) -/
  | j (r : Ring) (target : BitVec 14)
  /-- JAL: Jumps and links PC + 1 (R149) -/
  | jal (r : Ring) (rd : BitVec 5) (target : BitVec 14)
  /-- JR: Jumps to the word address in a register (R149) -/
  | jr (r : Ring) (rs : BitVec 5)
  /-- GUARD: Opens a guard window that predicates the next 1 to 8 instructions (R122) -/
  | guard (r : Ring) (q : BitVec 7) (n : Bool) (cnt : BitVec 3)
  /-- LOOP: Activates a hardware loop level on a counter (R150) -/
  | loop (r : Ring) (l : BitVec 2) (rs : BitVec 5) (tgt : BitVec 14)
  /-- LOOPSP: Starts a software-pipelined loop from a loop record and takes checkpoint c_0 (R154) -/
  | loopsp (r : Ring) (rec : BitVec 6)
  /-- SAFE: Marks an explicit safe point where a pending pre-emption stops the engine (R156) -/
  | safe (r : Ring)
  /-- RDV: Ends the engine's part of the job (R157) -/
  | rdv (r : Ring)
  /-- SPAWN: Pushes a child nest's tiles onto the core's deque (R158) -/
  | spawn (r : Ring) (rs1 rs2 : BitVec 5)
  /-- TRAP: Raises Software Trap (R159) -/
  | trap (r : Ring) (rs : BitVec 5)
  /-- HRET: Ends a handler run and publishes at device scope (R160) -/
  | hret (r : Ring)
  /-- LD: Loads 1 to 8 bytes from global memory (R161) -/
  | ld (r : Ring) (rd rb : BitVec 5) (sz : Size) (pi sx : Bool) (off : BitVec 8)
  /-- ST: Stores 1 to 8 bytes to global memory as an ordinary store (R161) -/
  | st (r : Ring) (rs rb : BitVec 5) (sz : Size) (pi : Bool) (off : BitVec 8)
  /-- LDP: Loads from the pad in plain form (R163) -/
  | ldp (r : Ring) (rd rb : BitVec 5) (sz : Size) (pi : Bool) (off : BitVec 8)
  /-- LDP_F: Loads from a full pad line and empties it on the line's last bytes (R164) -/
  | ldpF (r : Ring) (rd rb : BitVec 5) (sz : Size) (off : BitVec 8)
  /-- STP: Stores to the pad in plain form (R163) -/
  | stp (r : Ring) (rs rb : BitVec 5) (sz : Size) (pi : Bool) (off : BitVec 8)
  /-- STP_E: Stores to an empty pad line and fills it on the line's last bytes (R164) -/
  | stpE (r : Ring) (rs rb : BitVec 5) (sz : Size) (off : BitVec 8)
  /-- LDA: Strong load with an order and a scope (R166) -/
  | lda (r : Ring) (rd rb : BitVec 5) (ord : Ord) (sc : Scope) (d8 : Bool)
  /-- STL: Strong store with an order and a scope (R166) -/
  | stl (r : Ring) (rb rs : BitVec 5) (ord : Ord) (sc : Scope) (d8 : Bool)
  /-- AMO_ADD: Atomic add returning the old value (R167) -/
  | amoAdd (r : Ring) (rd rb rs : BitVec 5) (ord : Ord) (sc : Scope) (d8 : Bool)
  /-- AMO_AND: Atomic and returning the old value (R167) -/
  | amoAnd (r : Ring) (rd rb rs : BitVec 5) (ord : Ord) (sc : Scope) (d8 : Bool)
  /-- AMO_OR: Atomic or returning the old value (R167) -/
  | amoOr (r : Ring) (rd rb rs : BitVec 5) (ord : Ord) (sc : Scope) (d8 : Bool)
  /-- AMO_XOR: Atomic exclusive or returning the old value (R167) -/
  | amoXor (r : Ring) (rd rb rs : BitVec 5) (ord : Ord) (sc : Scope) (d8 : Bool)
  /-- AMO_MIN: Atomic signed minimum (R167) -/
  | amoMin (r : Ring) (rd rb rs : BitVec 5) (ord : Ord) (sc : Scope) (d8 : Bool)
  /-- AMO_MAX: Atomic signed maximum (R167) -/
  | amoMax (r : Ring) (rd rb rs : BitVec 5) (ord : Ord) (sc : Scope) (d8 : Bool)
  /-- AMO_MINU: Atomic unsigned minimum (R167) -/
  | amoMinU (r : Ring) (rd rb rs : BitVec 5) (ord : Ord) (sc : Scope) (d8 : Bool)
  /-- AMO_MAXU: Atomic unsigned maximum (R167) -/
  | amoMaxU (r : Ring) (rd rb rs : BitVec 5) (ord : Ord) (sc : Scope) (d8 : Bool)
  /-- AMO_SWAP: Atomic swap (R167) -/
  | amoSwap (r : Ring) (rd rb rs : BitVec 5) (ord : Ord) (sc : Scope) (d8 : Bool)
  /-- CAS: Compares and, on a match, writes atomically (R168) -/
  | cas (r : Ring) (rd rb rs : BitVec 5) (ord : Ord) (sc : Scope) (d8 : Bool)
  /-- FENCE: Publish and/or snapshot point at a scope, with sc ordering (R169) -/
  | fence (r : Ring) (ord : Ord) (sc : Scope)
  /-- PHASE: Publishes the member's stores and takes a snapshot at a scope (R169) -/
  | phase (r : Ring) (sc : Scope)
  /-- TKW: Waits for and pops several tokens from a neighbour's queue (R170) -/
  | tkw (r : Ring) (succ : Bool) (cnt : BitVec 5)
  /-- TKS: Pushes several tokens toward a neighbour (R170) -/
  | tks (r : Ring) (succ : Bool) (cnt : BitVec 5)
  /-- STW: Pops a steer entry and transfers to its word address (R171) -/
  | stw (r : Ring) (rd : BitVec 5)
  /-- POPRPL: Pops a reply, tagged or any, waiting while a matching reservation is outstanding (R172) -/
  | poprpl (r : Ring) (rd : BitVec 5) (any : Bool) (tag : BitVec 16)
  /-- SQPUSH: Pushes 1 to 8 scale codes into the scale queue (R173) -/
  | sqpush (r : Ring) (rs cnt : BitVec 5)
  /-- SQBIND: Binds a stream's drain to the scale queue or releases the binding (R174) -/
  | sqbind (r : Ring) (ub : Bool) (port : BitVec 5)
  /-- MSEND: Sends pad lines as a message to a core's message queue (R176) -/
  | msend (r : Ring) (rt ro : BitVec 5) (lines : BitVec 7) (he : Bool) (queue : BitVec 3) (hpc : BitVec 14)
  /-- SOPEN: Opens a stream port with its kinds, formats, base and length (R220) -/
  | sopen (r : Ring) (port rs1 rs2 : BitVec 5) (src : Src) (dst : Dst) (mfmt : BitVec 8) (rm : Rm) (sm : Bool) (qn : BitVec 3)
  /-- SLEV: Sets one level of the affine pattern (R221) -/
  | slev (r : Ring) (port rs1 rs2 : BitVec 5) (level : BitVec 2) (imm : Bool) (ext : BitVec 27)
  /-- SIND: Makes a glob fill indirect through an index port (R222) -/
  | sind (r : Ring) (port iport rs2 : BitVec 5)
  /-- SSRC: Sets the port parameter: codec or pad offset (R223) -/
  | ssrc (r : Ring) (port rs1 : BitVec 5)
  /-- SREMOTE: Gives a remote port its target or multicast mask (R224) -/
  | sremote (r : Ring) (port rs1 rs2 : BitVec 5) (he : Bool) (queue : BitVec 3) (hpc : BitVec 14) (mc : Bool) (ch : BitVec 3)
  /-- SMERGE: Starts the merge unit on two ascending key streams (R234) -/
  | smerge (r : Ring) (ok ka kb oa : BitVec 5) (uni strict : Bool) (ob : BitVec 5) (eoa eob eok : Bool) (tag : BitVec 16)
  /-- SBFMT: Sets the format code of a pad bank (R233) -/
  | sbfmt (r : Ring) (rs : BitVec 5) (code : BitVec 8)
  /-- SGO: Starts a port that is in SET (R225) -/
  | sgo (r : Ring) (port : BitVec 5)
  /-- SFORK: Makes a closed port a fork of an open port (R226) -/
  | sfork (r : Ring) (port fork : BitVec 5) (dst : Dst)
  /-- SMARK: Sets, arms or clears a mark (R227) -/
  | smark (r : Ring) (port : BitVec 5) (clr auto : Bool) (m : BitVec 2)
  /-- SREW: Rewinds the drain position to a mark (R228) -/
  | srew (r : Ring) (port : BitVec 5) (m : BitVec 2)
  /-- SSAVE: Saves a port to a pad record and closes it (R229) -/
  | ssave (r : Ring) (port rs : BitVec 5) (keep : Bool)
  /-- SREST: Restores a port from a pad record (R229) -/
  | srest (r : Ring) (port rs : BitVec 5)
  /-- SCLOSE: Closes a port, draining glob and remote targets (R230) -/
  | sclose (r : Ring) (port : BitVec 5)
  /-- SSTAT: Reads a port's status word (R231) -/
  | sstat (r : Ring) (port rd : BitVec 5)
  /-- SFLUSH: Waits until every element written so far has been drained (R232) -/
  | sflush (r : Ring) (port : BitVec 5)
  /-- GTBIND: Binds or unbinds a table handle from a pad descriptor (R342) -/
  | gtbind (r : Ring) (h rs1 : BitVec 5)
  /-- GTSWAP: Installs a new generation of a bound table (R343) -/
  | gtswap (r : Ring) (h rs1 rs2 : BitVec 5)
  /-- GSYNC: Closes an ordered table's epoch and applies its buffered updates (R349) -/
  | gsync (r : Ring) (h rs2 : BitVec 5)
  /-- GATH: Gathers table rows into a port or the pad (R347) -/
  | gath (r : Ring) (ri rn rf h : BitVec 5) (dk : Bool) (port rp : BitVec 5) (fz : Bool) (tag : BitVec 16)
  /-- GATHP: Gathers and pools table rows into bags (R347) -/
  | gathp (r : Ring) (ri rn rf h : BitVec 5) (mean : Bool) (port rb : BitVec 5) (fz : Bool) (tag : BitVec 16)
  /-- SCAT: Writes source rows into table rows (R348) -/
  | scat (r : Ring) (ri rn rf h rs : BitVec 5) (tag : BitVec 16)
  /-- SCATA: Adds source rows into table rows (R348) -/
  | scata (r : Ring) (ri rn rf h rs : BitVec 5) (tag : BitVec 16)
  /-- BARA: Publishes and arrives at a named barrier (R244) -/
  | bara (r : Ring) (ra num : BitVec 5)
  /-- BARW: Arrives at a barrier and waits for its generation to complete (R244) -/
  | barw (r : Ring) (ra num rb : BitVec 5)
  /-- BARWA: Waits for any of eight barriers to complete (R245) -/
  | barwa (r : Ring) (ra : BitVec 5) (base : BitVec 2) (rb : BitVec 5)
  /-- BARINIT: Sets a barrier's default count (R246) -/
  | barinit (r : Ring) (ra num : BitVec 5)
  /-- BARINIT_FREE: Frees a barrier (R246) -/
  | barinitFree (r : Ring) (num : BitVec 5)
  /-- SEMS: Signals a semaphore by an amount (R248) -/
  | sems (r : Ring) (ra : BitVec 5) (v : BitVec 4)
  /-- SEMW: Joins a semaphore's line and waits for an amount (R248) -/
  | semw (r : Ring) (ra : BitVec 5) (v : BitVec 4)
  /-- SEMWT: Waits for a semaphore with a timeout (R248) -/
  | semwt (r : Ring) (ra : BitVec 5) (v : BitVec 4) (rb : BitVec 5)
  /-- ASIDSET: Sets or invalidates a context from a descriptor (R440) -/
  | asidset (rd rs1 rs2 : BitVec 5)
  /-- PTBASE: Sets a context's page-table root (R441) -/
  | ptbase (rd rs1 rs2 : BitVec 5)
  /-- TLBINV: Removes cached translations of a scope and range (R442) -/
  | tlbinv (rd rs1 rs2 : BitVec 5)
  /-- KILLCTX: Ends everything of a context and advances its generation (R443) -/
  | killctx (rd rs1 : BitVec 5)
  /-- PREEMPT: Marks a core's job for pre-emption (R445) -/
  | preempt (rd rs1 : BitVec 5)
  /-- CTXSAVE: Drains and saves a stopped job into a save area (R448) -/
  | ctxsave (rd rs1 rs2 : BitVec 5)
  /-- CTXLOAD: Loads a save area into an idle core (R452) -/
  | ctxload (rd rs1 rs2 : BitVec 5)
  /-- DRAIN: Waits until a stopped job has no engine command outstanding (R446) -/
  | drain (rd rs1 rs2 : BitVec 5)
  /-- SEMMAP: Replaces one entry of a context's semaphore map (R444) -/
  | semmap (rd rs1 rs2 : BitVec 5)
  /-- LQPUSH: Launches a nest from a descriptor on the Director's die (R454) -/
  | lqpush (rd rs1 : BitVec 5)
  /-- WAKE: Resumes or ends a stopped job or handler, or restarts a faulted port (R453) -/
  | wake (rd rs1 rs2 : BitVec 5)
  /-- TIMERD: Waits for an event in the ring or a deadline (R455) -/
  | timerd (rd rs1 : BitVec 5)
  /-- ADJOURN: Starts adjournment or warm resume from a Director (R456) -/
  | adjourn (rd rs1 : BitVec 5)
  /-- SCORE: Appends or updates a scoresheet entry (R457) -/
  | score (rd rs1 rs2 : BitVec 5)
  /-- MONSNAP: Reads and clears selected monitors into records (R458) -/
  | monsnap (rd rs1 rs2 : BitVec 5)
  /-- VADD: Elementwise add (R267) -/
  | vadd (r : Ring) (d a b : BitVec 6) (t : ElemT)
  /-- VSUB: Elementwise subtract (R267) -/
  | vsub (r : Ring) (d a b : BitVec 6) (t : ElemT)
  /-- VMUL: Elementwise multiply (R267) -/
  | vmul (r : Ring) (d a b : BitVec 6) (t : ElemT)
  /-- VMIN: Elementwise minimum (R267) -/
  | vmin (r : Ring) (d a b : BitVec 6) (t : ElemT)
  /-- VMAX: Elementwise maximum (R267) -/
  | vmax (r : Ring) (d a b : BitVec 6) (t : ElemT)
  /-- VABD: Elementwise absolute difference (R267) -/
  | vabd (r : Ring) (d a b : BitVec 6) (t : ElemT)
  /-- VADDS: Saturating integer add (R267) -/
  | vadds (r : Ring) (d a b : BitVec 6) (t : ElemT)
  /-- VSUBS: Saturating integer subtract (R267) -/
  | vsubs (r : Ring) (d a b : BitVec 6) (t : ElemT)
  /-- VMULH: High half of the integer product (R267) -/
  | vmulh (r : Ring) (d a b : BitVec 6) (t : ElemT)
  /-- VDIV: Elementwise divide (R267) -/
  | vdiv (r : Ring) (d a b : BitVec 6) (t : ElemT)
  /-- VAND: Bitwise and of elements (R267) -/
  | vand (r : Ring) (d a b : BitVec 6) (t : ElemT)
  /-- VOR: Bitwise or of elements (R267) -/
  | vor (r : Ring) (d a b : BitVec 6) (t : ElemT)
  /-- VXOR: Bitwise exclusive or of elements (R267) -/
  | vxor (r : Ring) (d a b : BitVec 6) (t : ElemT)
  /-- VSHL: Elementwise shift left (R267) -/
  | vshl (r : Ring) (d a b : BitVec 6) (t : ElemT)
  /-- VSHR: Elementwise logical shift right (R267) -/
  | vshr (r : Ring) (d a b : BitVec 6) (t : ElemT)
  /-- VSAR: Elementwise arithmetic shift right (R267) -/
  | vsar (r : Ring) (d a b : BitVec 6) (t : ElemT)
  /-- VFMA: Fused multiply-add (R272) -/
  | vfma (r : Ring) (d a b : BitVec 6) (t : ElemT) (c : BitVec 6) (mk : Mask) (rmo : RmOv)
  /-- VFMS: Fused multiply-subtract (R272) -/
  | vfms (r : Ring) (d a b : BitVec 6) (t : ElemT) (c : BitVec 6) (mk : Mask) (rmo : RmOv)
  /-- VABS: Elementwise absolute value (R268) -/
  | vabs (r : Ring) (d a : BitVec 6) (t : ElemT)
  /-- VNEG: Elementwise negation (R268) -/
  | vneg (r : Ring) (d a : BitVec 6) (t : ElemT)
  /-- VNOT: Bitwise not of elements (R268) -/
  | vnot (r : Ring) (d a : BitVec 6) (t : ElemT)
  /-- VSQRT: Square root (R269) -/
  | vsqrt (r : Ring) (d a : BitVec 6) (t : ElemT)
  /-- VRCP: Reciprocal (R269) -/
  | vrcp (r : Ring) (d a : BitVec 6) (t : ElemT)
  /-- VRSQ: Reciprocal square root (R269) -/
  | vrsq (r : Ring) (d a : BitVec 6) (t : ElemT)
  /-- VEXP2: Power of two (R269) -/
  | vexp2 (r : Ring) (d a : BitVec 6) (t : ElemT)
  /-- VLOG2: Base-2 logarithm (R269) -/
  | vlog2 (r : Ring) (d a : BitVec 6) (t : ElemT)
  /-- VTANH: Hyperbolic tangent (R269) -/
  | vtanh (r : Ring) (d a : BitVec 6) (t : ElemT)
  /-- VSIGM: Logistic sigmoid (R269) -/
  | vsigm (r : Ring) (d a : BitVec 6) (t : ElemT)
  /-- VMOV: Copies element codes, converting only at ports (R268) -/
  | vmov (r : Ring) (d a : BitVec 6) (t : ElemT)
  /-- VCMP: Writes a mask from an elementwise comparison (R281) -/
  | vcmp (r : Ring) (a b : BitVec 6) (t : ElemT) (kd : BitVec 3) (cond : Cond)
  /-- KAND: Ands two masks (R282) -/
  | kand (r : Ring) (kd ka kb : BitVec 3)
  /-- KOR: Ors two masks (R282) -/
  | kor (r : Ring) (kd ka kb : BitVec 3)
  /-- KXOR: Exclusive-ors two masks (R282) -/
  | kxor (r : Ring) (kd ka kb : BitVec 3)
  /-- KNOT: Negates a mask (R282) -/
  | knot (r : Ring) (kd ka : BitVec 3)
  /-- KPOP: Counts set mask bits below n (R282) -/
  | kpop (r : Ring) (xd : BitVec 4) (ka : BitVec 3)
  /-- KFIRST: Finds the lowest set mask bit below n (R282) -/
  | kfirst (r : Ring) (xd : BitVec 4) (ka : BitVec 3)
  /-- VSEL: Selects elements by a mask (R283) -/
  | vsel (r : Ring) (d a b : BitVec 6) (t : ElemT) (k : BitVec 3)
  /-- VMOVM: Compresses the masked elements (R283) -/
  | vmovm (r : Ring) (d a : BitVec 6) (t : ElemT) (k : BitVec 3) (kz : Bool)
  /-- VCVT: Converts elements between types (R273) -/
  | vcvt (r : Ring) (d a : BitVec 6) (t : ElemT) (mk : Mask) (t2 : ElemT) (rmo : RmOv)
  /-- VQUANT: Quantises blocks of 32 with power-of-two scales (R274) -/
  | vquant (r : Ring) (d a : BitVec 6) (t : ElemT) (c : BitVec 6) (t2 : ElemT) (rmo : RmOv)
  /-- VDEQ: Dequantises blocks by their scale codes (R275) -/
  | vdeq (r : Ring) (d a : BitVec 6) (t : ElemT) (c : BitVec 6) (mk : Mask) (t2 : ElemT) (rmo : RmOv)
  /-- VRSUMR: Tree sum of each row (R277) -/
  | vrsumr (r : Ring) (d a : BitVec 6) (t : ElemT)
  /-- VRSUMC: Tree sum of each column (R277) -/
  | vrsumc (r : Ring) (d a : BitVec 6) (t : ElemT)
  /-- VRMAX: Maximum of each row (R277) -/
  | vrmax (r : Ring) (d a : BitVec 6) (t : ElemT)
  /-- VRMIN: Minimum of each row (R277) -/
  | vrmin (r : Ring) (d a : BitVec 6) (t : ElemT)
  /-- VSCAN_SUM: Inclusive prefix sum along each row (R278) -/
  | vscanSum (r : Ring) (d a : BitVec 6) (t : ElemT)
  /-- VSCAN_MAX: Inclusive prefix maximum along each row (R278) -/
  | vscanMax (r : Ring) (d a : BitVec 6) (t : ElemT)
  /-- VSCAN_MIN: Inclusive prefix minimum along each row (R278) -/
  | vscanMin (r : Ring) (d a : BitVec 6) (t : ElemT)
  /-- VSEGSUM: Sums mask-delimited segments (R279) -/
  | vsegsum (r : Ring) (d a : BitVec 6) (t : ElemT) (k : BitVec 3) (rmo : RmOv)
  /-- VTRN: Transposes the tile (R280) -/
  | vtrn (r : Ring) (d a : BitVec 6) (t : ElemT)
  /-- VBCR: Broadcasts one row (R280) -/
  | vbcr (r : Ring) (d a : BitVec 6) (xb : BitVec 4) (t : ElemT)
  /-- VBCC: Broadcasts one column (R280) -/
  | vbcc (r : Ring) (d a : BitVec 6) (xb : BitVec 4) (t : ElemT)
  /-- VROT: Rotates columns within each row (R280) -/
  | vrot (r : Ring) (d a imm : BitVec 6) (t : ElemT)
  /-- VSLIDE: Slides elements down, filling with zero (R280) -/
  | vslide (r : Ring) (d a imm : BitVec 6) (t : ElemT)
  /-- VIOTA: Writes each element's index (R280) -/
  | viota (r : Ring) (d : BitVec 6) (t : ElemT)
  /-- VSPLAT: Copies a scalar into every element (R280) -/
  | vsplat (r : Ring) (d : BitVec 6) (xa : BitVec 4) (t : ElemT)
  /-- VEXT: Extracts one element into a scalar (R280) -/
  | vext (r : Ring) (xd : BitVec 4) (a : BitVec 6) (xb : BitVec 4) (t : ElemT)
  /-- VINS: Inserts a scalar into one element (R280) -/
  | vins (r : Ring) (d : BitVec 6) (xa xb : BitVec 4) (t : ElemT)
  /-- VSHAPE: Sets the rows and columns of the vector shape (R256) -/
  | vshape (r : Ring) (rowsM1 colsM1 : BitVec 6)
  /-- XADD: Scalar add on x registers (R284) -/
  | xadd (r : Ring) (xd xa xb : BitVec 4)
  /-- XSUB: Scalar subtract (R284) -/
  | xsub (r : Ring) (xd xa xb : BitVec 4)
  /-- XMUL: Scalar multiply, low bits (R284) -/
  | xmul (r : Ring) (xd xa xb : BitVec 4)
  /-- XMULH: Scalar signed multiply, high bits (R284) -/
  | xmulh (r : Ring) (xd xa xb : BitVec 4)
  /-- XMULHU: Scalar unsigned multiply, high bits (R284) -/
  | xmulhu (r : Ring) (xd xa xb : BitVec 4)
  /-- XDIV: Scalar signed divide (R284) -/
  | xdiv (r : Ring) (xd xa xb : BitVec 4)
  /-- XDIVU: Scalar unsigned divide (R284) -/
  | xdivu (r : Ring) (xd xa xb : BitVec 4)
  /-- XREM: Scalar signed remainder (R284) -/
  | xrem (r : Ring) (xd xa xb : BitVec 4)
  /-- XREMU: Scalar unsigned remainder (R284) -/
  | xremu (r : Ring) (xd xa xb : BitVec 4)
  /-- XMIN: Scalar signed minimum (R284) -/
  | xmin (r : Ring) (xd xa xb : BitVec 4)
  /-- XMINU: Scalar unsigned minimum (R284) -/
  | xminu (r : Ring) (xd xa xb : BitVec 4)
  /-- XMAX: Scalar signed maximum (R284) -/
  | xmax (r : Ring) (xd xa xb : BitVec 4)
  /-- XMAXU: Scalar unsigned maximum (R284) -/
  | xmaxu (r : Ring) (xd xa xb : BitVec 4)
  /-- XSHL: Scalar shift left (R284) -/
  | xshl (r : Ring) (xd xa xb : BitVec 4)
  /-- XSHR: Scalar logical shift right (R284) -/
  | xshr (r : Ring) (xd xa xb : BitVec 4)
  /-- XSAR: Scalar arithmetic shift right (R284) -/
  | xsar (r : Ring) (xd xa xb : BitVec 4)
  /-- XAND: Scalar bitwise and (R284) -/
  | xand (r : Ring) (xd xa xb : BitVec 4)
  /-- XOR_X: Scalar bitwise or (R284) -/
  | xorX (r : Ring) (xd xa xb : BitVec 4)
  /-- XXOR: Scalar bitwise exclusive or (R284) -/
  | xxor (r : Ring) (xd xa xb : BitVec 4)
  /-- XCLZ: Scalar count of leading zeros (R284) -/
  | xclz (r : Ring) (xd xa : BitVec 4)
  /-- XPOPC: Scalar population count (R284) -/
  | xpopc (r : Ring) (xd xa : BitVec 4)
  /-- XADDI: Adds a 14-bit immediate to an x register (R284) -/
  | xaddi (r : Ring) (xd xa : BitVec 4) (imm : BitVec 14)
  /-- XMOVI: Loads an 18-bit immediate into an x register (R284) -/
  | xmovi (r : Ring) (xd : BitVec 4) (imm : BitVec 18)
  /-- XCMP: Writes a predicate from an x-register comparison (R285) -/
  | xcmp (r : Ring) (qd : BitVec 7) (xa xb : BitVec 4) (cond : Cond)
  /-- XB: Conditional relative branch in EX (R286) -/
  | xb (r : Ring) (q : BitVec 7) (n : Bool) (off : BitVec 14)
  /-- GUARD_X: Guard window in EX (R286) -/
  | guardX (r : Ring) (q : BitVec 7) (n : Bool) (cnt : BitVec 3)
  /-- LOOP_X: Hardware loop in EX with the trip count in an x register (R286) -/
  | loopX (r : Ring) (l : BitVec 2) (xs : BitVec 4) (tgt : BitVec 14)
  /-- LOOPSP_X: Software-pipelined loop in EX (R286) -/
  | loopspX (r : Ring) (rec : BitVec 6)
  /-- STEER: Pushes a steer entry toward LA or SA (R287) -/
  | steer (r : Ring) (xa xb : BitVec 4) (stq : Bool)
  /-- XJ: Jumps to the word address in an x register (R286) -/
  | xj (r : Ring) (xa : BitVec 4)
  /-- RDV_X: EX's RDV after its floating-point delivery check (R288) -/
  | rdvX (r : Ring)
  /-- SAFE_X: EX's explicit safe point (R288) -/
  | safeX (r : Ring)
  /-- XGET: Reads VSHAPE, FMT8, FPCTL or FPACC (R260) -/
  | xget (r : Ring) (xd : BitVec 4) (sel : XSel)
  /-- XSET: Writes VSHAPE, FMT8, FPCTL or FPACC (R260) -/
  | xset (r : Ring) (xa : BitVec 4) (sel : XSel)
  /-- MXLDB: Loads a dense tile into B-store blocks (R316) -/
  | mxldb (r : Ring) (sw ss : SemF) (sk : MxKind) (loc : BitVec 14) (nb n0 : BitVec 3) (bf : BitVec 6) (k : BitVec 8) (scl : Bool)
  /-- MXLDBS: Loads a bitmap-sparse tile into B-store blocks (R317) -/
  | mxldbs (r : Ring) (sw ss : SemF) (sg : Bool) (loc : BitVec 14) (nb : BitVec 3) (dc : BitVec 2) (ove : Bool) (kHi : BitVec 1) (bf : BitVec 6) (kLo : BitVec 10)
  /-- MXRUN: Runs M K-steps of A rows into accumulator rows (R318) -/
  | mxrun (r : Ring) (sw ss : SemF) (ps : Bool) (loc : BitVec 11) (af : BitVec 6) (kaHi : BitVec 4) (kaLo : BitVec 7) (acc0 m : BitVec 5)
  /-- MXRUNG: Runs K-steps with A rows gathered from a pad table (R319) -/
  | mxrung (r : Ring) (sw ss : SemF) (tb : BitVec 6) (iport : BitVec 5) (af : BitVec 6) (kaHi : BitVec 5) (kaLo : BitVec 6) (acc0 m : BitVec 5)
  /-- MXST: Writes back accumulator rows to the pad or a port (R320) -/
  | mxst (r : Ring) (sw ss : SemF) (ps : Bool) (loc : BitVec 11) (acc0 : BitVec 5) (n0 : BitVec 3) (m : BitVec 5) (df : BitVec 6) (rm : Rm) (sm : Bool) (nb : BitVec 3)
  /-- MXZ: Initialises accumulator rows (R321) -/
  | mxz (r : Ring) (sw ss : SemF) (acc0 m : BitVec 5) (kind : BitVec 2)
  /-- MXOPS: Sets the op sequence (R322) -/
  | mxops (r : Ring) (sw ss : SemF) (len : BitVec 4) (opsLo opsHi : BitVec 16)
  /-- MXANC: Sets ANCHOR explicitly or by default (R323) -/
  | mxanc (r : Ring) (sw ss : SemF) (anc : MxAnc)
  /-- MXFENCE: Issues when the matrix queue is empty and every command is performed (R324) -/
  | mxfence (r : Ring) (sw ss : SemF)
  /-- MXCLRP: Clears poison of rows and empties blocks (R325) -/
  | mxclrp (r : Ring) (sw ss : SemF) (acc0 m : BitVec 5) (re : Bool) (bm : BitVec 8)
  /-- MXSPILL: Writes accumulator rows as raw records (R326) -/
  | mxspill (r : Ring) (sw ss : SemF) (ps : Bool) (loc : BitVec 11) (acc0 m : BitVec 5)
  /-- MXFILL: Reads raw records back into accumulator rows (R326) -/
  | mxfill (r : Ring) (sw ss : SemF) (ps : Bool) (loc : BitVec 11) (acc0 m : BitVec 5)
  /-- GBLD: Loads Gambit control state from a pad descriptor (R362) -/
  | gbld (r : Ring) (xa : BitVec 4)
  /-- GBTH: Sets Gambit thresholds (R363) -/
  | gbth (r : Ring) (xh xl xe xt : BitVec 4)
  /-- GBPRED: Predicts active and uncertain neurons and pushes their lists (R365) -/
  | gbpred (r : Ring) (inp oa ou : BitVec 6) (xbf : Bool) (tag : BitVec 16) (xn xu : BitVec 4)
  /-- GBCHK: Checks shadow activations and pushes the replay list (R369) -/
  | gbchk (r : Ring) (inp orp : BitVec 6) (ht : ElemT) (xu : BitVec 4) (tag : BitVec 16)
  /-- LOAD_DATA_RETURN: Data of an outstanding global load or atomic returns and is written to its register (R139) -/
  | loadDataReturn
  /-- PAGE_WALK_COMPLETE: A page walk finishes and fills the translation buffers or fails (R75) -/
  | pageWalkComplete
  /-- REMOTE_STRONG_ACCESS: A system-scope strong access to another slot is performed on the owning device (R86) -/
  | remoteStrongAccess
  /-- MESSAGE_REQUEST: A message reservation request arrives at a target queue port (R204) -/
  | messageRequest
  /-- MESSAGE_ACCEPT: A waiting request finds room, reserves lines and replies ACCEPT (R204) -/
  | messageAccept
  /-- MESSAGE_PAYLOAD_COMPLETE: A message's last byte is written, making it visible and queuing its handler start (R204) -/
  | messagePayloadComplete
  /-- HANDLER_START: The oldest start request begins a handler run when the handler is dormant (R178) -/
  | handlerStart
  /-- MERGE_STEP: The merge unit makes one comparison and at most one output (R235) -/
  | mergeStep
  /-- STREAM_COMMAND_EFFECT: A queued stream command takes effect in issue order after the Second's match (R190) -/
  | streamCommandEffect
  /-- STREAM_FILL_ITEM: An item of a fill side arrives and is written into the buffer in order (R198) -/
  | streamFillItem
  /-- STREAM_DRAIN_ITEM: A drain side writes or delivers elements to its target (R207) -/
  | streamDrainItem
  /-- DECOMPRESS_BLOCK: The cluster decompression engine turns one block into one output line (R200) -/
  | decompressBlock
  /-- REMOTE_MESSAGE_SEND: A remote port sends CH lines as a message once reserved (R206) -/
  | remoteMessageSend
  /-- GATHER_ACCEPT: The HOME engine accepts a command, binding it to the current generation and a sequence number (R337) -/
  | gatherAccept
  /-- GATHER_PEER_REQUEST: An owner receives a shipped index and reads or faults the row (R338) -/
  | gatherPeerRequest
  /-- GATHER_ROW_RETURN: A local or peer row read returns and is merged into element order (R338) -/
  | gatherRowReturn
  /-- PEER_UNREACHABLE: A shipped element gets no answer within 2^20 cycles and faults (R338) -/
  | peerUnreachable
  /-- SCATTER_UPDATE: An owner applies or buffers one row update (R348) -/
  | scatterUpdate
  /-- GSYNC_CLOSE: A CLOSE of an epoch arrives from a member (R349) -/
  | gsyncClose
  /-- GATHER_PERFORMED: A gather command completes, writes its fault area and replies (R353) -/
  | gatherPerformed
  /-- GENERATION_DROP: An OLD generation stops being pinned, is dropped and its GTSWAP replies (R339) -/
  | generationDrop
  /-- BARRIER_RELEASE: A waiting BARW or BARWA issues after its generation completed (R254) -/
  | barrierRelease
  /-- SEMAPHORE_GRANT: The first waiter in line finds enough count and takes it (R250) -/
  | semaphoreGrant
  /-- SEMWT_TIMEOUT: A SEMWT's t cycles pass unsatisfied and it leaves the line with result 0 (R248) -/
  | semwtTimeout
  /-- DRAIN_TIMEOUT: A DRAIN's cycle limit passes and it returns TIMEOUT (R446) -/
  | drainTimeout
  /-- TIMERD_DEADLINE: TIME reaches a TIMERD deadline with the ring empty and it returns 0 (R455) -/
  | timerdDeadline
  /-- MATRIX_COMMAND_START: The head command's wait is met and MX starts it (R312) -/
  | matrixCommandStart
  /-- MATRIX_COMMAND_PERFORMED: A matrix command is performed and its signal field takes effect (R313) -/
  | matrixCommandPerformed
  /-- FAULT_RECORD_ENQUEUE: A held matrix fault record enters the cluster fault queue when it has room (R328) -/
  | faultRecordEnqueue
  /-- GAMBIT_PERFORM: Gambit performs its next queued command in issue order (R360) -/
  | gambitPerform
  /-- SECOND_COMPARE: The Second re-forms an outbound item and lets it issue when it agrees (R461) -/
  | secondCompare
  /-- ROLLBACK: After started commands complete, restored engines reload checkpoint c_k and replay (R470) -/
  | rollback
  /-- IMAGE_TEXT_COPY: Copying an image's text into a core's instruction memories completes (R36) -/
  | imageTextCopy
  /-- JOB_START: LA, EX and SA begin a job at their entry points with the tile's indices (R32) -/
  | jobStart
  /-- JOB_COMPLETE: The completion conditions hold; residue is discarded and the completion counted (R34) -/
  | jobComplete
  /-- CLUSTER_REPORT: A closed cluster reports its completions to its die counter (R397) -/
  | clusterReport
  /-- INSTANCE_COMPLETE: An instance completes, records its outcome, releases dependents and reports (R398) -/
  | instanceComplete
  /-- WALKER_DEAL: The walker selects an item and deals one tile or gang (R385) -/
  | walkerDeal
  /-- TILE_DEPOSIT: A dealt tile or gang arrives in a core's deque (R386) -/
  | tileDeposit
  /-- CORE_POP: An idle core pops an eligible deque entry (R388) -/
  | corePop
  /-- STEAL: An idle core with no eligible entry steals from another deque (R389) -/
  | steal
  /-- STARVING: An entry becomes starving and forces a pre-emption mark (R393) -/
  | starving
  /-- JOB_SAVE: The Director saves a walker-marked job into a pool slot and returns it (R447) -/
  | jobSave
  /-- SAFE_POINT_OVERDUE: An engine's count passes BOUND and it records Safe-Point Overdue (R396) -/
  | safePointOverdue
  /-- CLOCK_FIRE: A Clock entry fires an instance at its staging time (R402) -/
  | clockFire
  /-- HELD_TILE_RELEASE: A core's TIME reaches s_i and it releases held tiles (R402) -/
  | heldTileRelease
  /-- CLKCMD_WRITE: Writes Clock entry IDX from CLKREC (R401) -/
  | clkcmdWrite
  /-- CLKCMD_READ: Reads Clock entry IDX into CLKREC (R401) -/
  | clkcmdRead
  /-- CLKCMD_CLEAR_EN: Clears EN of a Clock entry, cancelling unreleased instances (R404) -/
  | clkcmdClearEn
  /-- EVENT_RING_WRITE: An event enters the Director's ring when it has room and EN is set (R437) -/
  | eventRingWrite
  /-- EVHEAD_WRITE: Advances the consumed count, freeing ring entries (R437) -/
  | evheadWrite
  /-- BARSTATE_WRITE: Writes a barrier state word, releasing waiters when GEN changes (R436) -/
  | barstateWrite
  /-- SEMSTATE_WRITE: Writes a physical semaphore's count or clears OVF (R436) -/
  | semstateWrite
  /-- LFSR_WRITE: Writes the generator state, storing 1 for zero (R55) -/
  | lfsrWrite
  /-- MONCFG_WRITE: Configures a monitor and clears its data (R483) -/
  | moncfgWrite
  /-- MONEDGE_WRITE: Sets a monitor's bin edges and clears its data (R483) -/
  | monedgeWrite
  /-- MONITOR_SAMPLE: A sample enters its monitor's counts and bins (R485) -/
  | monitorSample
  /-- MONITOR_LEVEL_TICK: A level source's sampling period expires and yields a sample (R484) -/
  | monitorLevelTick
  /-- BRCTL_PAUSE: Pauses a bridge module, moving its traffic to others (R427) -/
  | brctlPause
  /-- BRCTL_RESUME: Returns a paused module to ACTIVE (R427) -/
  | brctlResume
  /-- BRCTL_RETRAIN: Starts training a module with its repair map and width (R427) -/
  | brctlRetrain
  /-- BRREPAIR_WRITE: Writes a module's spare-lane repair map (R427) -/
  | brrepairWrite
  /-- BRIDGE_PAUSE_DONE: A pausing module reaches PAUSED (R427) -/
  | bridgePauseDone
  /-- BRIDGE_TRAINING_DONE: Training ends PAUSED or DOWN (R427) -/
  | bridgeTrainingDone
  /-- BRIDGE_FLIT_RETRY: A bridge flit with a bad CRC is retried and counted (R425) -/
  | bridgeFlitRetry
  /-- PLRDATA_WRITE: Changes a peer route entry for later flits (R424) -/
  | plrdataWrite
  /-- PEER_FLIT_RECEIVE: A peer flit is consumed, forwarded or dropped (R423) -/
  | peerFlitReceive
  /-- PEER_NAK: A NAK makes the sender resend from its replay buffer (R422) -/
  | peerNak
  /-- PEER_RETRAIN_TIMEOUT: A retrain that does not succeed within 10 ms marks the port down (R422) -/
  | peerRetrainTimeout
  /-- PEER_REQUEST_TIMEOUT: A peer request with no response within 2^20 cycles fails (R423) -/
  | peerRequestTimeout
  /-- OPEN: Opens an ECP session (R411) -/
  | openSession
  /-- CLOSE: Ends an ECP session (R411) -/
  | closeSession
  /-- SESSION_TIMEOUT: A session with no request for 600 s ends (R411) -/
  | sessionTimeout
  /-- SUBSCRIBE: Replaces the session's event mask (R413) -/
  | subscribe
  /-- LOADIMG: Stages an image chunk and, at LAST, checks and registers it (R415) -/
  | loadimg
  /-- WRITEMEM: Writes bytes in a context's memory and publishes at device scope (R413) -/
  | writemem
  /-- READMEM: Reads bytes of a context's memory (R413) -/
  | readmem
  /-- BINDTABLE: Binds a table handle of a context as GTBIND does (R413) -/
  | bindtable
  /-- LAUNCH: Launches a nest instance and returns its NIX (R379) -/
  | launch
  /-- CLOCK: Writes a Clock table entry (R413) -/
  | clock
  /-- KILL: Kills a context as KILLCTX does (R413) -/
  | kill
  /-- READSCORE: Returns scoresheet entries (R480) -/
  | readscore
  /-- READMON: Returns monitor records without clearing them (R487) -/
  | readmon
  /-- READHEALTH: Returns MAPREV and the health record (R481) -/
  | readhealth
  /-- ECP_ADJOURN: Starts adjournment by command (R475) -/
  | ecpAdjourn
  /-- RESUME: Resumes from an adjournment by command (R477) -/
  | resume
  /-- ATTEST: Returns a signed attestation of firmware, configuration and images (R430) -/
  | attest
  /-- OTHER_FRAME: A frame of no supported function is dropped and counted (R409) -/
  | otherFrame
  /-- NEIGHBOUR_DISCOVERY: Answers ICMPv6 neighbour discovery or ARP (R409) -/
  | neighbourDiscovery
  /-- ECHO: Answers an ICMPv6 or ICMP echo (R409) -/
  | echo
  /-- MKA_FRAME: Processes an MKA frame for MACsec key agreement (R420) -/
  | mkaFrame
  /-- PTP_EVENT_MESSAGE: A PTP message is timestamped and processed (R417) -/
  | ptpEventMessage
  /-- PTP_HOLDOVER: Three intervals without a master message put LOCK in holdover (R419) -/
  | ptpHoldover
  /-- PWR_FAIL: PWR_FAIL_N held low for 2 us begins adjournment (R475) -/
  | pwrFail
  /-- RAIL_LOW: The input rail below 44.0 V for 100 us begins adjournment (R475) -/
  | railLow
  /-- ADJOURNMENT_SAVED: All jobs are saved, compute powers down and HBM enters self-refresh (R475) -/
  | adjournmentSaved
  /-- POWER_RESTORED: Input good for 200 ms causes a warm resume (R477) -/
  | powerRestored
  /-- HOLD_EXPIRY: T_hold runs out and the sealed copy is written (R478) -/
  | holdExpiry
  /-- POWER_UP: Power applied runs secure boot, bring-up and any cold resume (R493) -/
  | powerUp
  /-- HOLDUP_STORE_FULL: The hold-up store reaches 96 J and compute may start (R490) -/
  | holdupStoreFull
  /-- THERMAL_TRIP: A sensor at its trip removes power from the module (R491) -/
  | thermalTrip
  /-- WARM_RESET: An unowned uncorrectable error resets the dies and rebuilds from HBM (R473) -/
  | warmReset
  /-- STORE_PERFORMED: An ordinary or strong global write of a member reaches memory at its scope, freeing its store-queue entry and letting stalled publish points, KILLCTX and ECP replies proceed (R79) -/
  | storePerformed
  /-- PEER_TRAINING_DONE: A retraining peer port finishes training within 10 ms and its PLSTAT STATE returns to up (R422) -/
  | peerTrainingDone
deriving DecidableEq, Repr

end Sys2Proof
end

