-- ==== Sys2Proof/WellFormed.lean ====
section
/-! DEFINITION. The checks of R108 that an instruction's fields must pass together, beyond the codes that the decoder
already turns into constructors: each is a field rule that an instruction entry states. -/

namespace Sys2Proof

/-- The two instruction sets (R104). -/
inductive Isa where
  | a | x
deriving DecidableEq, Repr

/-- The integer element types (R267). -/
def ElemT.isInt : ElemT → Bool
  | .i8 | .n8 | .i16 | .n16 | .i32 | .n32 | .i4 | .n4 => true
  | _ => false

/-- The signed integer element types (R41). -/
def ElemT.isSigned : ElemT → Bool
  | .i8 | .i16 | .i32 | .i4 => true
  | _ => false

/-- The floating element types (R267). -/
def ElemT.isFloat (t : ElemT) : Bool := !t.isInt

/-- A condition that compares integers (R113): every code but the NaN tests. -/
def Cond.isInt : Cond → Bool
  | .un | .ord => false
  | _ => true

/-- The codes of the binary8 variants (R48). -/
def isB8Code (c : Nat) : Bool :=
  decide (0x10 ≤ c ∧ c ≤ 0x2E) && decide (c % 8 ≠ 7)

/-- The bank-format codes of R48. -/
def isBankCode (c : Nat) : Bool :=
  decide (c ≤ 0x09) || isB8Code c || decide (c = 0x40 ∨ c = 0x41)

/-- The formats of an A operand of the matrix engine (R297). -/
def isAFmt (c : Nat) : Bool :=
  decide (1 ≤ c ∧ c ≤ 4) || decide (c = 7 ∨ c = 8) || isB8Code c

/-- The formats of a B operand of the matrix engine (R297). -/
def isBFmt (c : Nat) : Bool := decide (1 ≤ c ∧ c ≤ 4) || isB8Code c

/-- The destination formats of MXST (R320). -/
def isDFmt (c : Nat) : Bool := decide (1 ≤ c ∧ c ≤ 9) || isB8Code c

/-- The K bound of a sparse tile: 256 × 64 / D (R317). -/
def sparseKMax (dc : BitVec 2) : Nat := 256 * 64 / (8 * 2 ^ dc.toNat)

/-- Whether a port opened with these kinds uses BASE (R220): a global or decompressed source, a pad transfer, or a
global target. -/
def usesBase (src : Src) (dst : Dst) : Bool :=
  match src with
  | .glob | .dcmp | .pad => true
  | _ => decide (dst = .glob)

/-- The field rules of the instruction entries (R108). A device step has no fields to check. -/
def Instr.wf : Instr → Bool
  | .cmp _ _ _ _ c | .cmpi _ _ _ c _ | .xcmp _ _ _ _ c => c.isInt
  | .ld _ rd rb sz pi sx _ => (!sx || decide (sz ≠ .d)) && (!pi || decide (rd ≠ rb) || decide (rb = 0#5))
  | .lda _ _ _ o _ _ => decide (o = .rlx ∨ o = .acq)
  | .stl _ _ _ o _ _ => decide (o = .rlx ∨ o = .rel)
  | .phase _ sc => decide (sc ≠ .sys)
  | .tkw _ _ n | .tks _ _ n => decide (1 ≤ n.toNat ∧ n.toNat ≤ 16)
  | .poprpl _ _ any tag => !any || decide (tag = 0#16)
  | .sqpush _ _ n => decide (1 ≤ n.toNat ∧ n.toNat ≤ 8)
  | .sqbind _ ub p => !ub || decide (p = 0#5)
  | .msend _ _ _ _ he _ hpc => he || decide (hpc = 0#14)
  | .sopen _ _ rs1 _ src dst _ _ _ qn =>
    (decide (src = .msgq) || decide (qn = 0#3)) && (usesBase src dst || decide (rs1 = 0#5))
  | .slev _ _ _ rs2 _ imm ext => if imm then decide (rs2 = 0#5 ∧ ext ≠ 0#27) else decide (ext = 0#27)
  | .sremote _ _ rs1 rs2 he _ hpc mc _ =>
    (he || decide (hpc = 0#14)) && (if mc then decide (rs1 = 0#5) else decide (rs2 = 0#5))
  | .smark _ _ clr auto _ => !(clr && auto)
  | .smerge _ ok _ _ oa _ _ ob eoa eob eok _ =>
    (eok || decide (ok = 0#5)) && (eoa || decide (oa = 0#5)) && (eob || decide (ob = 0#5))
  | .gath _ _ _ _ _ dk port rp _ _ => if dk then decide (port = 0#5) else decide (rp = 0#5)
  | .vadds _ _ _ _ t | .vsubs _ _ _ _ t | .vmulh _ _ _ _ t | .vshl _ _ _ _ t | .vshr _ _ _ _ t
  | .vsar _ _ _ _ t => t.isInt
  | .vneg _ _ _ t => t.isFloat || t.isSigned
  | .vsqrt _ _ _ t | .vrcp _ _ _ t | .vrsq _ _ _ t | .vexp2 _ _ _ t | .vlog2 _ _ _ t | .vtanh _ _ _ t
  | .vsigm _ _ _ t => t.isFloat
  | .vcmp _ _ _ t _ c => t.isFloat || c.isInt
  | .vquant _ _ _ t _ t2 _ =>
    decide (t = .i4 ∨ t = .n4 ∨ t = .i8 ∨ t = .n8 ∨ t = .b8 ∨ t = .f16 ∨ t = .bf16)
      && decide (t2 = .f16 ∨ t2 = .bf16 ∨ t2 = .f32)
  | .vdeq _ _ _ t _ _ t2 _ => decide (t = .f16 ∨ t = .bf16 ∨ t = .f32) && decide (t2 ≠ .f32)
  | .vins _ d _ _ _ => decide (d.toNat < 32)
  | .mxldb _ _ _ sk loc nb n0 bf _ _ =>
    decide (n0.toNat + nb.toNat + 1 ≤ 8) && isBFmt bf.toNat && (decide (sk ≠ .port) || decide (loc.toNat < 32))
  | .mxldbs _ _ _ _ _ _ dc _ kHi bf kLo =>
    decide (dc ≠ 3#2) && isBFmt bf.toNat && decide (kHi.toNat * 1024 + kLo.toNat + 1 ≤ sparseKMax dc)
  | .mxrun _ _ _ ps loc af _ _ acc0 m =>
    isAFmt af.toNat && decide (acc0.toNat + m.toNat + 1 ≤ 32) && (ps || decide (loc.toNat < 32))
  | .mxrung _ _ _ _ _ af _ _ acc0 m => isAFmt af.toNat && decide (acc0.toNat + m.toNat + 1 ≤ 32)
  | .mxops _ _ _ len lo hi =>
    decide ((hi.toNat * 65536 + lo.toNat) / 4 ^ (len.toNat + 1) = 0)
  | .mxanc _ _ _ a =>
    match a with
    | .val _ => true
    | .deflt af bf => isAFmt af.toNat && isBFmt bf.toNat
  | .mxz _ _ _ acc0 m kind => decide (acc0.toNat + m.toNat + 1 ≤ 32) && decide (kind ≠ 3#2)
  | .mxst _ _ _ ps loc acc0 n0 m df _ _ nb =>
    decide (acc0.toNat + m.toNat + 1 ≤ 32) && decide (n0.toNat + nb.toNat + 1 ≤ 8) && isDFmt df.toNat
      && (ps || decide (loc.toNat < 32))
  | .mxspill _ _ _ ps loc acc0 m | .mxfill _ _ _ ps loc acc0 m =>
    decide (acc0.toNat + m.toNat + 1 ≤ 32) && (ps || decide (loc.toNat < 32))
  | .mxclrp _ _ _ acc0 m re _ =>
    if re then decide (acc0.toNat + m.toNat + 1 ≤ 32) else decide (acc0 = 0#5 ∧ m = 0#5)
  | .gbpred _ inp oa ou _ _ _ _ =>
    decide (32 ≤ oa.toNat ∧ 32 ≤ ou.toNat ∧ oa ≠ ou ∧ inp ≠ oa ∧ inp ≠ ou)
  | .gbchk _ inp orp ht _ _ =>
    decide (ht = .f16 ∨ ht = .bf16 ∨ ht = .f32) && decide (32 ≤ orp.toNat ∧ inp ≠ orp)
  | _ => true

/-- In EX the register fields of the sync class name x0 to x15 (R120, R243). -/
def Instr.regsOk (x : Isa) (i : Instr) : Bool :=
  match x with
  | .a => true
  | .x =>
    match i with
    | .bara _ ra _ | .barinit _ ra _ | .sems _ ra _ | .semw _ ra _ => decide (ra.toNat < 16)
    | .barw _ ra _ rb | .barwa _ ra _ rb | .semwt _ ra _ rb => decide (ra.toNat < 16 ∧ rb.toNat < 16)
    | _ => true

end Sys2Proof
end

