-- ==== Sys2Proof/Decode.lean ====
section
/-! DEFINITION. The decoder, total on any words and bytes, and the encoder, both written from the formats and maps of
R104 to R121 and the layouts of the instruction entries. -/

namespace Sys2Proof

/-- The code of an ElemT. -/
def ElemT.toBits : ElemT → BitVec 4
  | .i8 => 0#4
  | .n8 => 1#4
  | .i16 => 2#4
  | .n16 => 3#4
  | .i32 => 4#4
  | .n32 => 5#4
  | .f16 => 6#4
  | .bf16 => 7#4
  | .f32 => 8#4
  | .b8 => 9#4
  | .i4 => 10#4
  | .n4 => 11#4

/-- The ElemT of a code; a reserved code has none (R41). -/
def ElemT.ofBits (b : BitVec 4) : Option ElemT :=
  match b with
  | 0#4 => some .i8
  | 1#4 => some .n8
  | 2#4 => some .i16
  | 3#4 => some .n16
  | 4#4 => some .i32
  | 5#4 => some .n32
  | 6#4 => some .f16
  | 7#4 => some .bf16
  | 8#4 => some .f32
  | 9#4 => some .b8
  | 10#4 => some .i4
  | 11#4 => some .n4
  | _ => none

/-- The code of a Cond. -/
def Cond.toBits : Cond → BitVec 4
  | .eq => 0#4
  | .ne => 1#4
  | .lt => 2#4
  | .ge => 3#4
  | .ltu => 4#4
  | .geu => 5#4
  | .le => 6#4
  | .gt => 7#4
  | .leu => 8#4
  | .gtu => 9#4
  | .un => 10#4
  | .ord => 11#4

/-- The Cond of a code; a reserved code has none (R113). -/
def Cond.ofBits (b : BitVec 4) : Option Cond :=
  match b with
  | 0#4 => some .eq
  | 1#4 => some .ne
  | 2#4 => some .lt
  | 3#4 => some .ge
  | 4#4 => some .ltu
  | 5#4 => some .geu
  | 6#4 => some .le
  | 7#4 => some .gt
  | 8#4 => some .leu
  | 9#4 => some .gtu
  | 10#4 => some .un
  | 11#4 => some .ord
  | _ => none

/-- The code of an Ord. -/
def Ord.toBits : Ord → BitVec 2
  | .rlx => 0#2
  | .acq => 1#2
  | .rel => 2#2
  | .ar => 3#2

/-- The Ord of a code; a reserved code has none (R85). -/
def Ord.ofBits (b : BitVec 2) : Option Ord :=
  match b with
  | 0#2 => some .rlx
  | 1#2 => some .acq
  | 2#2 => some .rel
  | 3#2 => some .ar

/-- The code of a Scope. -/
def Scope.toBits : Scope → BitVec 3
  | .core => 0#3
  | .cl => 1#3
  | .die => 2#3
  | .dev => 3#3
  | .sys => 4#3

/-- The Scope of a code; a reserved code has none (R85). -/
def Scope.ofBits (b : BitVec 3) : Option Scope :=
  match b with
  | 0#3 => some .core
  | 1#3 => some .cl
  | 2#3 => some .die
  | 3#3 => some .dev
  | 4#3 => some .sys
  | _ => none

/-- The code of a Size. -/
def Size.toBits : Size → BitVec 2
  | .b => 0#2
  | .h => 1#2
  | .w => 2#2
  | .d => 3#2

/-- The Size of a code; a reserved code has none (R110). -/
def Size.ofBits (b : BitVec 2) : Option Size :=
  match b with
  | 0#2 => some .b
  | 1#2 => some .h
  | 2#2 => some .w
  | 3#2 => some .d

/-- The code of a Rm. -/
def Rm.toBits : Rm → BitVec 3
  | .rne => 0#3
  | .rtz => 1#3
  | .rup => 2#3
  | .rdn => 3#3
  | .rsr => 4#3

/-- The Rm of a code; a reserved code has none (R53). -/
def Rm.ofBits (b : BitVec 3) : Option Rm :=
  match b with
  | 0#3 => some .rne
  | 1#3 => some .rtz
  | 2#3 => some .rup
  | 3#3 => some .rdn
  | 4#3 => some .rsr
  | _ => none

/-- The code of a Src. -/
def Src.toBits : Src → BitVec 4
  | .glob => 0#4
  | .msgq => 1#4
  | .dcmp => 2#4
  | .gath => 3#4
  | .mx => 4#4
  | .ex => 5#4
  | .merge => 6#4
  | .pad => 7#4

/-- The Src of a code; a reserved code has none (R194). -/
def Src.ofBits (b : BitVec 4) : Option Src :=
  match b with
  | 0#4 => some .glob
  | 1#4 => some .msgq
  | 2#4 => some .dcmp
  | 3#4 => some .gath
  | 4#4 => some .mx
  | 5#4 => some .ex
  | 6#4 => some .merge
  | 7#4 => some .pad
  | _ => none

/-- The code of a Dst. -/
def Dst.toBits : Dst → BitVec 4
  | .ex => 0#4
  | .glob => 1#4
  | .remote => 2#4
  | .scale => 3#4
  | .mxb => 4#4
  | .mxa => 5#4
  | .index => 6#4
  | .merge => 7#4
  | .hdl => 8#4
  | .pad => 9#4

/-- The Dst of a code; a reserved code has none (R194). -/
def Dst.ofBits (b : BitVec 4) : Option Dst :=
  match b with
  | 0#4 => some .ex
  | 1#4 => some .glob
  | 2#4 => some .remote
  | 3#4 => some .scale
  | 4#4 => some .mxb
  | 5#4 => some .mxa
  | 6#4 => some .index
  | 7#4 => some .merge
  | 8#4 => some .hdl
  | 9#4 => some .pad
  | _ => none

/-- The code of a XSel. -/
def XSel.toBits : XSel → BitVec 4
  | .vshape => 0#4
  | .fmt8 => 1#4
  | .fpctl => 2#4
  | .fpacc => 3#4

/-- The XSel of a code; a reserved code has none (R119). -/
def XSel.ofBits (b : BitVec 4) : Option XSel :=
  match b with
  | 0#4 => some .vshape
  | 1#4 => some .fmt8
  | 2#4 => some .fpctl
  | 3#4 => some .fpacc
  | _ => none

/-- The code of a MxKind. -/
def MxKind.toBits : MxKind → BitVec 2
  | .port => 0#2
  | .pad => 1#2
  | .glob => 2#2

/-- The MxKind of a code; a reserved code has none (R316). -/
def MxKind.ofBits (b : BitVec 2) : Option MxKind :=
  match b with
  | 0#2 => some .port
  | 1#2 => some .pad
  | 2#2 => some .glob
  | _ => none

/-- The mask field [21:17] of word 2: KE, K, KZ (R117). With KE 0 the other two must be zero. -/
def maskBits : Mask → BitVec 5
  | none => 0#5
  | some (k, kz) => 1#1 ++ k ++ BitVec.ofBool kz

/-- The mask of a field; KE 0 with a non-zero K or KZ has none (R117). -/
def maskOf (b : BitVec 5) : Option Mask :=
  if b.getLsbD 4 then some (some (b.extractLsb' 1 3, b.getLsbD 0))
  else if b.extractLsb' 0 4 = 0#4 then some none else none

/-- The rounding field [12:8] of word 2: RM, RMO, SM (R117). -/
def rmOvBits : RmOv → BitVec 5
  | none => 0#5
  | some (rm, sm) => rm.toBits ++ 1#1 ++ BitVec.ofBool sm

/-- The rounding override of a field; with RMO 0, RM and SM must be zero (R117). -/
def rmOvOf (b : BitVec 5) : Option RmOv :=
  if b.getLsbD 1 then (Rm.ofBits (b.extractLsb' 2 3)).map fun rm => some (rm, b.getLsbD 0)
  else if b.extractLsb' 2 3 = 0#3 ∧ b.getLsbD 0 = false then some none else none

/-- A semaphore field of a matrix command: enable and number (R121). -/
def semFBits : SemF → BitVec 5
  | none => 0#5
  | some v => 1#1 ++ v

/-- The semaphore of a field; a number without its enable has none (R121). -/
def semFOf (b : BitVec 5) : Option SemF :=
  if b.getLsbD 4 then some (some (b.extractLsb' 0 4))
  else if b.extractLsb' 0 4 = 0#4 then some none else none

/-- Word 1 [19:0] of MXANC (R323). -/
def MxAnc.toBits : MxAnc → BitVec 20
  | .val n => 0#11 ++ n
  | .deflt af bf => 2#2 ++ af ++ bf ++ 0#6

/-- The form of MXANC (R323); the bits that a form leaves unused must be zero. -/
def MxAnc.ofBits (b : BitVec 20) : Option MxAnc :=
  if b.extractLsb' 9 11 = 0#11 then some (.val (b.extractLsb' 0 9))
  else if b.extractLsb' 18 2 = 2#2 ∧ b.extractLsb' 0 6 = 0#6 then
    some (.deflt (b.extractLsb' 12 6) (b.extractLsb' 6 6))
  else none

/-- No ring effect. -/
def Ring.none : Ring := ⟨false, false, false, false⟩

/-- The RING nibble of a one-word instruction (R104). -/
def Ring.one (w : Word) : Ring := ⟨w.getLsbD 31, w.getLsbD 30, w.getLsbD 29, w.getLsbD 28⟩

/-- The waits of word 1 and the signals of word 2 of a two-word instruction (R105). -/
def Ring.two (w v : Word) : Ring := ⟨w.getLsbD 31, w.getLsbD 30, v.getLsbD 29, v.getLsbD 28⟩

/-- Major 0x00 of the A-ISA, a group. -/
def decA00 (w v : Word) : Option Instr :=
  match w.extractLsb' 0 7 with
  | 0x0#7 => some (.add (Ring.one w) (w.extractLsb' 17 5) (w.extractLsb' 12 5) (w.extractLsb' 7 5))
  | 0x1#7 => some (.sub (Ring.one w) (w.extractLsb' 17 5) (w.extractLsb' 12 5) (w.extractLsb' 7 5))
  | 0x2#7 => some (.mul (Ring.one w) (w.extractLsb' 17 5) (w.extractLsb' 12 5) (w.extractLsb' 7 5))
  | 0x3#7 => some (.mulh (Ring.one w) (w.extractLsb' 17 5) (w.extractLsb' 12 5) (w.extractLsb' 7 5))
  | 0x4#7 => some (.mulhu (Ring.one w) (w.extractLsb' 17 5) (w.extractLsb' 12 5) (w.extractLsb' 7 5))
  | 0x5#7 => some (.div (Ring.one w) (w.extractLsb' 17 5) (w.extractLsb' 12 5) (w.extractLsb' 7 5))
  | 0x6#7 => some (.divu (Ring.one w) (w.extractLsb' 17 5) (w.extractLsb' 12 5) (w.extractLsb' 7 5))
  | 0x7#7 => some (.rem (Ring.one w) (w.extractLsb' 17 5) (w.extractLsb' 12 5) (w.extractLsb' 7 5))
  | 0x8#7 => some (.remu (Ring.one w) (w.extractLsb' 17 5) (w.extractLsb' 12 5) (w.extractLsb' 7 5))
  | 0x9#7 => some (.min (Ring.one w) (w.extractLsb' 17 5) (w.extractLsb' 12 5) (w.extractLsb' 7 5))
  | 0xa#7 => some (.minu (Ring.one w) (w.extractLsb' 17 5) (w.extractLsb' 12 5) (w.extractLsb' 7 5))
  | 0xb#7 => some (.max (Ring.one w) (w.extractLsb' 17 5) (w.extractLsb' 12 5) (w.extractLsb' 7 5))
  | 0xc#7 => some (.maxu (Ring.one w) (w.extractLsb' 17 5) (w.extractLsb' 12 5) (w.extractLsb' 7 5))
  | 0xd#7 => some (.shl (Ring.one w) (w.extractLsb' 17 5) (w.extractLsb' 12 5) (w.extractLsb' 7 5))
  | 0xe#7 => some (.shr (Ring.one w) (w.extractLsb' 17 5) (w.extractLsb' 12 5) (w.extractLsb' 7 5))
  | 0xf#7 => some (.sar (Ring.one w) (w.extractLsb' 17 5) (w.extractLsb' 12 5) (w.extractLsb' 7 5))
  | 0x10#7 => some (.and (Ring.one w) (w.extractLsb' 17 5) (w.extractLsb' 12 5) (w.extractLsb' 7 5))
  | 0x11#7 => some (.or (Ring.one w) (w.extractLsb' 17 5) (w.extractLsb' 12 5) (w.extractLsb' 7 5))
  | 0x12#7 => some (.xor (Ring.one w) (w.extractLsb' 17 5) (w.extractLsb' 12 5) (w.extractLsb' 7 5))
  | 0x13#7 => if w.extractLsb' 7 5 = 0#5 then some (.clz (Ring.one w) (w.extractLsb' 17 5) (w.extractLsb' 12 5)) else none
  | 0x14#7 => if w.extractLsb' 7 5 = 0#5 then some (.popc (Ring.one w) (w.extractLsb' 17 5) (w.extractLsb' 12 5)) else none
  | _ => none

/-- Major 0x01 of the A-ISA. -/
def decA01 (w v : Word) : Option Instr :=
  some (.addi (Ring.one w) (w.extractLsb' 17 5) (w.extractLsb' 12 5) (w.extractLsb' 0 12))

/-- Major 0x02 of the A-ISA. -/
def decA02 (w v : Word) : Option Instr :=
  some (.andi (Ring.one w) (w.extractLsb' 17 5) (w.extractLsb' 12 5) (w.extractLsb' 0 12))

/-- Major 0x03 of the A-ISA. -/
def decA03 (w v : Word) : Option Instr :=
  some (.ori (Ring.one w) (w.extractLsb' 17 5) (w.extractLsb' 12 5) (w.extractLsb' 0 12))

/-- Major 0x04 of the A-ISA. -/
def decA04 (w v : Word) : Option Instr :=
  some (.xori (Ring.one w) (w.extractLsb' 17 5) (w.extractLsb' 12 5) (w.extractLsb' 0 12))

/-- Major 0x05 of the A-ISA. -/
def decA05 (w v : Word) : Option Instr :=
  if w.extractLsb' 6 6 = 0#6 then some (.shli (Ring.one w) (w.extractLsb' 17 5) (w.extractLsb' 12 5) (w.extractLsb' 0 6)) else none

/-- Major 0x06 of the A-ISA. -/
def decA06 (w v : Word) : Option Instr :=
  if w.extractLsb' 6 6 = 0#6 then some (.shri (Ring.one w) (w.extractLsb' 17 5) (w.extractLsb' 12 5) (w.extractLsb' 0 6)) else none

/-- Major 0x07 of the A-ISA. -/
def decA07 (w v : Word) : Option Instr :=
  if w.extractLsb' 6 6 = 0#6 then some (.sari (Ring.one w) (w.extractLsb' 17 5) (w.extractLsb' 12 5) (w.extractLsb' 0 6)) else none

/-- Major 0x08 of the A-ISA. -/
def decA08 (w v : Word) : Option Instr :=
  some (.li (Ring.one w) (w.extractLsb' 17 5) (w.extractLsb' 0 17))

/-- Major 0x09 of the A-ISA. -/
def decA09 (w v : Word) : Option Instr :=
  some (.lui (Ring.one w) (w.extractLsb' 17 5) (w.extractLsb' 0 17))

/-- Major 0x0A of the A-ISA. -/
def decA0A (w v : Word) : Option Instr :=
  if w.extractLsb' 0 1 = 0#1 then (Cond.ofBits (w.extractLsb' 1 4)).map fun cond => .cmp (Ring.one w) (w.extractLsb' 15 7) (w.extractLsb' 10 5) (w.extractLsb' 5 5) cond else none

/-- Major 0x0B of the A-ISA. -/
def decA0B (w v : Word) : Option Instr :=
  (Cond.ofBits (w.extractLsb' 6 4)).map fun cond => .cmpi (Ring.one w) (w.extractLsb' 15 7) (w.extractLsb' 10 5) cond (w.extractLsb' 0 6)

/-- Major 0x0C of the A-ISA, a group. -/
def decA0C (w v : Word) : Option Instr :=
  match w.extractLsb' 0 7 with
  | 0x0#7 => some (.pand (Ring.one w) (w.extractLsb' 17 5) (w.extractLsb' 12 5) (w.extractLsb' 7 5))
  | 0x1#7 => some (.por (Ring.one w) (w.extractLsb' 17 5) (w.extractLsb' 12 5) (w.extractLsb' 7 5))
  | 0x2#7 => some (.pxor (Ring.one w) (w.extractLsb' 17 5) (w.extractLsb' 12 5) (w.extractLsb' 7 5))
  | 0x3#7 => if w.extractLsb' 7 5 = 0#5 then some (.pnot (Ring.one w) (w.extractLsb' 17 5) (w.extractLsb' 12 5)) else none
  | _ => none

/-- Major 0x0D of the A-ISA. -/
def decA0D (w v : Word) : Option Instr :=
  if w.extractLsb' 28 2 = 0#2 ∧ v.extractLsb' 30 2 = 0#2 ∧ v.extractLsb' 0 28 = 0#28 then some (.sel (Ring.two w v) (w.extractLsb' 17 5) (w.extractLsb' 12 5) (w.extractLsb' 7 5) (w.extractLsb' 0 7)) else none

/-- Major 0x0E of the A-ISA. -/
def decA0E (w v : Word) : Option Instr :=
  if w.extractLsb' 12 5 = 0#5 then some (.csrr (Ring.one w) (w.extractLsb' 17 5) (w.extractLsb' 0 12)) else none

/-- Major 0x0F of the A-ISA. -/
def decA0F (w v : Word) : Option Instr :=
  if w.extractLsb' 17 5 = 0#5 then some (.csrw (Ring.one w) (w.extractLsb' 12 5) (w.extractLsb' 0 12)) else none

/-- Major 0x10 of the A-ISA. -/
def decA10 (w v : Word) : Option Instr :=
  some (.b (Ring.one w) (w.extractLsb' 15 7) (w.getLsbD 14) (w.extractLsb' 0 14))

/-- Major 0x11 of the A-ISA. -/
def decA11 (w v : Word) : Option Instr :=
  if w.extractLsb' 14 8 = 0#8 then some (.j (Ring.one w) (w.extractLsb' 0 14)) else none

/-- Major 0x12 of the A-ISA. -/
def decA12 (w v : Word) : Option Instr :=
  if w.extractLsb' 14 3 = 0#3 then some (.jal (Ring.one w) (w.extractLsb' 17 5) (w.extractLsb' 0 14)) else none

/-- Major 0x13 of the A-ISA. -/
def decA13 (w v : Word) : Option Instr :=
  if w.extractLsb' 17 5 = 0#5 ∧ w.extractLsb' 0 12 = 0#12 then some (.jr (Ring.one w) (w.extractLsb' 12 5)) else none

/-- Major 0x14 of the A-ISA. -/
def decA14 (w v : Word) : Option Instr :=
  if w.extractLsb' 0 11 = 0#11 then some (.guard (Ring.one w) (w.extractLsb' 15 7) (w.getLsbD 14) (w.extractLsb' 11 3)) else none

/-- Major 0x15 of the A-ISA. -/
def decA15 (w v : Word) : Option Instr :=
  if w.extractLsb' 14 1 = 0#1 then some (.loop (Ring.one w) (w.extractLsb' 20 2) (w.extractLsb' 15 5) (w.extractLsb' 0 14)) else none

/-- Major 0x16 of the A-ISA. -/
def decA16 (w v : Word) : Option Instr :=
  if w.extractLsb' 6 16 = 0#16 then some (.loopsp (Ring.one w) (w.extractLsb' 0 6)) else none

/-- Major 0x17 of the A-ISA, a group. -/
def decA17 (w v : Word) : Option Instr :=
  match w.extractLsb' 0 7 with
  | 0x0#7 => if w.extractLsb' 7 15 = 0#15 then some (.safe (Ring.one w)) else none
  | 0x1#7 => if w.extractLsb' 7 15 = 0#15 then some (.rdv (Ring.one w)) else none
  | 0x2#7 => if w.extractLsb' 17 5 = 0#5 then some (.spawn (Ring.one w) (w.extractLsb' 12 5) (w.extractLsb' 7 5)) else none
  | 0x3#7 => if w.extractLsb' 17 5 = 0#5 ∧ w.extractLsb' 7 5 = 0#5 then some (.trap (Ring.one w) (w.extractLsb' 12 5)) else none
  | 0x4#7 => if w.extractLsb' 7 15 = 0#15 then some (.hret (Ring.one w)) else none
  | _ => none

/-- Major 0x18 of the A-ISA. -/
def decA18 (w v : Word) : Option Instr :=
  (Size.ofBits (w.extractLsb' 10 2)).map fun sz => .ld (Ring.one w) (w.extractLsb' 17 5) (w.extractLsb' 12 5) sz (w.getLsbD 9) (w.getLsbD 8) (w.extractLsb' 0 8)

/-- Major 0x19 of the A-ISA. -/
def decA19 (w v : Word) : Option Instr :=
  if w.extractLsb' 8 1 = 0#1 then (Size.ofBits (w.extractLsb' 10 2)).map fun sz => .st (Ring.one w) (w.extractLsb' 17 5) (w.extractLsb' 12 5) sz (w.getLsbD 9) (w.extractLsb' 0 8) else none

/-- Major 0x1A of the A-ISA, a group. -/
def decA1A (w v : Word) : Option Instr :=
  match w.extractLsb' 8 1 with
  | 0x0#1 => (Size.ofBits (w.extractLsb' 10 2)).map fun sz => .ldp (Ring.one w) (w.extractLsb' 17 5) (w.extractLsb' 12 5) sz (w.getLsbD 9) (w.extractLsb' 0 8)
  | 0x1#1 => if w.extractLsb' 9 1 = 0#1 then (Size.ofBits (w.extractLsb' 10 2)).map fun sz => .ldpF (Ring.one w) (w.extractLsb' 17 5) (w.extractLsb' 12 5) sz (w.extractLsb' 0 8) else none

/-- Major 0x1B of the A-ISA, a group. -/
def decA1B (w v : Word) : Option Instr :=
  match w.extractLsb' 8 1 with
  | 0x0#1 => (Size.ofBits (w.extractLsb' 10 2)).map fun sz => .stp (Ring.one w) (w.extractLsb' 17 5) (w.extractLsb' 12 5) sz (w.getLsbD 9) (w.extractLsb' 0 8)
  | 0x1#1 => if w.extractLsb' 9 1 = 0#1 then (Size.ofBits (w.extractLsb' 10 2)).map fun sz => .stpE (Ring.one w) (w.extractLsb' 17 5) (w.extractLsb' 12 5) sz (w.extractLsb' 0 8) else none

/-- Major 0x1C of the A-ISA. -/
def decA1C (w v : Word) : Option Instr :=
  if w.extractLsb' 7 5 = 0#5 ∧ w.extractLsb' 0 1 = 0#1 then (Ord.ofBits (w.extractLsb' 5 2)).bind fun ord => (Scope.ofBits (w.extractLsb' 2 3)).map fun sc => .lda (Ring.one w) (w.extractLsb' 17 5) (w.extractLsb' 12 5) ord sc (w.getLsbD 1) else none

/-- Major 0x1D of the A-ISA. -/
def decA1D (w v : Word) : Option Instr :=
  if w.extractLsb' 17 5 = 0#5 ∧ w.extractLsb' 0 1 = 0#1 then (Ord.ofBits (w.extractLsb' 5 2)).bind fun ord => (Scope.ofBits (w.extractLsb' 2 3)).map fun sc => .stl (Ring.one w) (w.extractLsb' 12 5) (w.extractLsb' 7 5) ord sc (w.getLsbD 1) else none

/-- Major 0x1E of the A-ISA, a group. -/
def decA1E (w v : Word) : Option Instr :=
  match v.extractLsb' 24 4 with
  | 0x0#4 => if w.extractLsb' 28 2 = 0#2 ∧ v.extractLsb' 30 2 = 0#2 ∧ w.extractLsb' 0 1 = 0#1 ∧ v.extractLsb' 0 24 = 0#24 then (Ord.ofBits (w.extractLsb' 5 2)).bind fun ord => (Scope.ofBits (w.extractLsb' 2 3)).map fun sc => .amoAdd (Ring.two w v) (w.extractLsb' 17 5) (w.extractLsb' 12 5) (w.extractLsb' 7 5) ord sc (w.getLsbD 1) else none
  | 0x1#4 => if w.extractLsb' 28 2 = 0#2 ∧ v.extractLsb' 30 2 = 0#2 ∧ w.extractLsb' 0 1 = 0#1 ∧ v.extractLsb' 0 24 = 0#24 then (Ord.ofBits (w.extractLsb' 5 2)).bind fun ord => (Scope.ofBits (w.extractLsb' 2 3)).map fun sc => .amoAnd (Ring.two w v) (w.extractLsb' 17 5) (w.extractLsb' 12 5) (w.extractLsb' 7 5) ord sc (w.getLsbD 1) else none
  | 0x2#4 => if w.extractLsb' 28 2 = 0#2 ∧ v.extractLsb' 30 2 = 0#2 ∧ w.extractLsb' 0 1 = 0#1 ∧ v.extractLsb' 0 24 = 0#24 then (Ord.ofBits (w.extractLsb' 5 2)).bind fun ord => (Scope.ofBits (w.extractLsb' 2 3)).map fun sc => .amoOr (Ring.two w v) (w.extractLsb' 17 5) (w.extractLsb' 12 5) (w.extractLsb' 7 5) ord sc (w.getLsbD 1) else none
  | 0x3#4 => if w.extractLsb' 28 2 = 0#2 ∧ v.extractLsb' 30 2 = 0#2 ∧ w.extractLsb' 0 1 = 0#1 ∧ v.extractLsb' 0 24 = 0#24 then (Ord.ofBits (w.extractLsb' 5 2)).bind fun ord => (Scope.ofBits (w.extractLsb' 2 3)).map fun sc => .amoXor (Ring.two w v) (w.extractLsb' 17 5) (w.extractLsb' 12 5) (w.extractLsb' 7 5) ord sc (w.getLsbD 1) else none
  | 0x4#4 => if w.extractLsb' 28 2 = 0#2 ∧ v.extractLsb' 30 2 = 0#2 ∧ w.extractLsb' 0 1 = 0#1 ∧ v.extractLsb' 0 24 = 0#24 then (Ord.ofBits (w.extractLsb' 5 2)).bind fun ord => (Scope.ofBits (w.extractLsb' 2 3)).map fun sc => .amoMin (Ring.two w v) (w.extractLsb' 17 5) (w.extractLsb' 12 5) (w.extractLsb' 7 5) ord sc (w.getLsbD 1) else none
  | 0x5#4 => if w.extractLsb' 28 2 = 0#2 ∧ v.extractLsb' 30 2 = 0#2 ∧ w.extractLsb' 0 1 = 0#1 ∧ v.extractLsb' 0 24 = 0#24 then (Ord.ofBits (w.extractLsb' 5 2)).bind fun ord => (Scope.ofBits (w.extractLsb' 2 3)).map fun sc => .amoMax (Ring.two w v) (w.extractLsb' 17 5) (w.extractLsb' 12 5) (w.extractLsb' 7 5) ord sc (w.getLsbD 1) else none
  | 0x6#4 => if w.extractLsb' 28 2 = 0#2 ∧ v.extractLsb' 30 2 = 0#2 ∧ w.extractLsb' 0 1 = 0#1 ∧ v.extractLsb' 0 24 = 0#24 then (Ord.ofBits (w.extractLsb' 5 2)).bind fun ord => (Scope.ofBits (w.extractLsb' 2 3)).map fun sc => .amoMinU (Ring.two w v) (w.extractLsb' 17 5) (w.extractLsb' 12 5) (w.extractLsb' 7 5) ord sc (w.getLsbD 1) else none
  | 0x7#4 => if w.extractLsb' 28 2 = 0#2 ∧ v.extractLsb' 30 2 = 0#2 ∧ w.extractLsb' 0 1 = 0#1 ∧ v.extractLsb' 0 24 = 0#24 then (Ord.ofBits (w.extractLsb' 5 2)).bind fun ord => (Scope.ofBits (w.extractLsb' 2 3)).map fun sc => .amoMaxU (Ring.two w v) (w.extractLsb' 17 5) (w.extractLsb' 12 5) (w.extractLsb' 7 5) ord sc (w.getLsbD 1) else none
  | 0x8#4 => if w.extractLsb' 28 2 = 0#2 ∧ v.extractLsb' 30 2 = 0#2 ∧ w.extractLsb' 0 1 = 0#1 ∧ v.extractLsb' 0 24 = 0#24 then (Ord.ofBits (w.extractLsb' 5 2)).bind fun ord => (Scope.ofBits (w.extractLsb' 2 3)).map fun sc => .amoSwap (Ring.two w v) (w.extractLsb' 17 5) (w.extractLsb' 12 5) (w.extractLsb' 7 5) ord sc (w.getLsbD 1) else none
  | _ => none

/-- Major 0x1F of the A-ISA. -/
def decA1F (w v : Word) : Option Instr :=
  if w.extractLsb' 0 1 = 0#1 then (Ord.ofBits (w.extractLsb' 5 2)).bind fun ord => (Scope.ofBits (w.extractLsb' 2 3)).map fun sc => .cas (Ring.one w) (w.extractLsb' 17 5) (w.extractLsb' 12 5) (w.extractLsb' 7 5) ord sc (w.getLsbD 1) else none

/-- Major 0x20 of the A-ISA. -/
def decA20 (w v : Word) : Option Instr :=
  if w.extractLsb' 7 15 = 0#15 ∧ w.extractLsb' 0 2 = 0#2 then (Ord.ofBits (w.extractLsb' 5 2)).bind fun ord => (Scope.ofBits (w.extractLsb' 2 3)).map fun sc => .fence (Ring.one w) ord sc else none

/-- Major 0x21 of the A-ISA. -/
def decA21 (w v : Word) : Option Instr :=
  if w.extractLsb' 5 17 = 0#17 ∧ w.extractLsb' 0 2 = 0#2 then (Scope.ofBits (w.extractLsb' 2 3)).map fun sc => .phase (Ring.one w) sc else none

/-- Major 0x24 of the A-ISA. -/
def decA24 (w v : Word) : Option Instr :=
  if w.extractLsb' 28 2 = 0#2 ∧ v.extractLsb' 30 2 = 0#2 ∧ w.extractLsb' 0 7 = 0#7 ∧ v.extractLsb' 0 5 = 0#5 then (Src.ofBits (v.extractLsb' 24 4)).bind fun src => (Dst.ofBits (v.extractLsb' 20 4)).bind fun dst => (Rm.ofBits (v.extractLsb' 9 3)).map fun rm => .sopen (Ring.two w v) (w.extractLsb' 17 5) (w.extractLsb' 12 5) (w.extractLsb' 7 5) src dst (v.extractLsb' 12 8) rm (v.getLsbD 8) (v.extractLsb' 5 3) else none

/-- Major 0x25 of the A-ISA. -/
def decA25 (w v : Word) : Option Instr :=
  if w.extractLsb' 28 2 = 0#2 ∧ v.extractLsb' 30 2 = 0#2 ∧ w.extractLsb' 2 5 = 0#5 then some (.slev (Ring.two w v) (w.extractLsb' 17 5) (w.extractLsb' 12 5) (w.extractLsb' 7 5) (w.extractLsb' 0 2) (v.getLsbD 27) (v.extractLsb' 0 27)) else none

/-- Major 0x26 of the A-ISA. -/
def decA26 (w v : Word) : Option Instr :=
  if w.extractLsb' 0 7 = 0#7 then some (.sind (Ring.one w) (w.extractLsb' 17 5) (w.extractLsb' 12 5) (w.extractLsb' 7 5)) else none

/-- Major 0x27 of the A-ISA. -/
def decA27 (w v : Word) : Option Instr :=
  if w.extractLsb' 0 12 = 0#12 then some (.ssrc (Ring.one w) (w.extractLsb' 17 5) (w.extractLsb' 12 5)) else none

/-- Major 0x28 of the A-ISA. -/
def decA28 (w v : Word) : Option Instr :=
  if w.extractLsb' 28 2 = 0#2 ∧ v.extractLsb' 30 2 = 0#2 ∧ w.extractLsb' 0 7 = 0#7 ∧ v.extractLsb' 0 6 = 0#6 then some (.sremote (Ring.two w v) (w.extractLsb' 17 5) (w.extractLsb' 12 5) (w.extractLsb' 7 5) (v.getLsbD 27) (v.extractLsb' 24 3) (v.extractLsb' 10 14) (v.getLsbD 9) (v.extractLsb' 6 3)) else none

/-- Major 0x29 of the A-ISA. -/
def decA29 (w v : Word) : Option Instr :=
  if w.extractLsb' 28 2 = 0#2 ∧ v.extractLsb' 30 2 = 0#2 ∧ v.extractLsb' 0 4 = 0#4 then some (.smerge (Ring.two w v) (w.extractLsb' 17 5) (w.extractLsb' 12 5) (w.extractLsb' 7 5) (w.extractLsb' 2 5) (w.getLsbD 1) (w.getLsbD 0) (v.extractLsb' 23 5) (v.getLsbD 22) (v.getLsbD 21) (v.getLsbD 20) (v.extractLsb' 4 16)) else none

/-- Major 0x2A of the A-ISA. -/
def decA2A (w v : Word) : Option Instr :=
  if w.extractLsb' 17 5 = 0#5 ∧ w.extractLsb' 8 4 = 0#4 then some (.sbfmt (Ring.one w) (w.extractLsb' 12 5) (w.extractLsb' 0 8)) else none

/-- Major 0x2B of the A-ISA, a group. -/
def decA2B (w v : Word) : Option Instr :=
  match w.extractLsb' 0 7 with
  | 0x0#7 => if w.extractLsb' 7 10 = 0#10 then some (.sgo (Ring.one w) (w.extractLsb' 17 5)) else none
  | 0x1#7 => if w.extractLsb' 11 1 = 0#1 then (Dst.ofBits (w.extractLsb' 7 4)).map fun dst => .sfork (Ring.one w) (w.extractLsb' 17 5) (w.extractLsb' 12 5) dst else none
  | 0x2#7 => if w.extractLsb' 11 6 = 0#6 then some (.smark (Ring.one w) (w.extractLsb' 17 5) (w.getLsbD 10) (w.getLsbD 9) (w.extractLsb' 7 2)) else none
  | 0x3#7 => if w.extractLsb' 9 8 = 0#8 then some (.srew (Ring.one w) (w.extractLsb' 17 5) (w.extractLsb' 7 2)) else none
  | 0x4#7 => if w.extractLsb' 8 4 = 0#4 then some (.ssave (Ring.one w) (w.extractLsb' 17 5) (w.extractLsb' 12 5) (w.getLsbD 7)) else none
  | 0x5#7 => if w.extractLsb' 7 5 = 0#5 then some (.srest (Ring.one w) (w.extractLsb' 17 5) (w.extractLsb' 12 5)) else none
  | 0x6#7 => if w.extractLsb' 7 10 = 0#10 then some (.sclose (Ring.one w) (w.extractLsb' 17 5)) else none
  | 0x7#7 => if w.extractLsb' 7 5 = 0#5 then some (.sstat (Ring.one w) (w.extractLsb' 17 5) (w.extractLsb' 12 5)) else none
  | 0x8#7 => if w.extractLsb' 7 10 = 0#10 then some (.sflush (Ring.one w) (w.extractLsb' 17 5)) else none
  | _ => none

/-- Major 0x2C of the A-ISA, a group. -/
def decA2C (w v : Word) : Option Instr :=
  match w.extractLsb' 0 7 with
  | 0x0#7 => if w.extractLsb' 7 5 = 0#5 then some (.gtbind (Ring.one w) (w.extractLsb' 17 5) (w.extractLsb' 12 5)) else none
  | 0x1#7 => some (.gtswap (Ring.one w) (w.extractLsb' 17 5) (w.extractLsb' 12 5) (w.extractLsb' 7 5))
  | 0x2#7 => if w.extractLsb' 12 5 = 0#5 then some (.gsync (Ring.one w) (w.extractLsb' 17 5) (w.extractLsb' 7 5)) else none
  | _ => none

/-- Major 0x2D of the A-ISA. -/
def decA2D (w v : Word) : Option Instr :=
  if w.extractLsb' 28 2 = 0#2 ∧ v.extractLsb' 30 2 = 0#2 ∧ w.extractLsb' 0 2 = 0#2 then some (.gath (Ring.two w v) (w.extractLsb' 17 5) (w.extractLsb' 12 5) (w.extractLsb' 7 5) (w.extractLsb' 2 5) (v.getLsbD 27) (v.extractLsb' 22 5) (v.extractLsb' 17 5) (v.getLsbD 16) (v.extractLsb' 0 16)) else none

/-- Major 0x2E of the A-ISA. -/
def decA2E (w v : Word) : Option Instr :=
  if w.extractLsb' 28 2 = 0#2 ∧ v.extractLsb' 30 2 = 0#2 ∧ w.extractLsb' 0 2 = 0#2 then some (.gathp (Ring.two w v) (w.extractLsb' 17 5) (w.extractLsb' 12 5) (w.extractLsb' 7 5) (w.extractLsb' 2 5) (v.getLsbD 27) (v.extractLsb' 22 5) (v.extractLsb' 17 5) (v.getLsbD 16) (v.extractLsb' 0 16)) else none

/-- Major 0x2F of the A-ISA, a group. -/
def decA2F (w v : Word) : Option Instr :=
  match v.extractLsb' 27 1 with
  | 0x0#1 => if w.extractLsb' 28 2 = 0#2 ∧ v.extractLsb' 30 2 = 0#2 ∧ w.extractLsb' 0 2 = 0#2 ∧ v.extractLsb' 22 5 = 0#5 ∧ v.extractLsb' 16 1 = 0#1 then some (.scat (Ring.two w v) (w.extractLsb' 17 5) (w.extractLsb' 12 5) (w.extractLsb' 7 5) (w.extractLsb' 2 5) (v.extractLsb' 17 5) (v.extractLsb' 0 16)) else none
  | 0x1#1 => if w.extractLsb' 28 2 = 0#2 ∧ v.extractLsb' 30 2 = 0#2 ∧ w.extractLsb' 0 2 = 0#2 ∧ v.extractLsb' 22 5 = 0#5 ∧ v.extractLsb' 16 1 = 0#1 then some (.scata (Ring.two w v) (w.extractLsb' 17 5) (w.extractLsb' 12 5) (w.extractLsb' 7 5) (w.extractLsb' 2 5) (v.extractLsb' 17 5) (v.extractLsb' 0 16)) else none

/-- Major 0x30 of the A-ISA, a group. -/
def decA30 (w v : Word) : Option Instr :=
  match w.extractLsb' 0 7 with
  | 0x0#7 => if w.extractLsb' 7 5 = 0#5 then some (.bara (Ring.one w) (w.extractLsb' 17 5) (w.extractLsb' 12 5)) else none
  | 0x1#7 => some (.barw (Ring.one w) (w.extractLsb' 17 5) (w.extractLsb' 12 5) (w.extractLsb' 7 5))
  | 0x2#7 => if w.extractLsb' 12 3 = 0#3 then some (.barwa (Ring.one w) (w.extractLsb' 17 5) (w.extractLsb' 15 2) (w.extractLsb' 7 5)) else none
  | _ => none

/-- Major 0x31 of the A-ISA, a group. -/
def decA31 (w v : Word) : Option Instr :=
  match w.extractLsb' 7 5 with
  | 0x0#5 => if w.extractLsb' 0 7 = 0x0#7 then some (.barinit (Ring.one w) (w.extractLsb' 17 5) (w.extractLsb' 12 5)) else none
  | 0x1#5 => if w.extractLsb' 17 5 = 0#5 ∧ w.extractLsb' 0 7 = 0x0#7 then some (.barinitFree (Ring.one w) (w.extractLsb' 12 5)) else none
  | _ => none

/-- Major 0x32 of the A-ISA, a group. -/
def decA32 (w v : Word) : Option Instr :=
  match w.extractLsb' 0 7 with
  | 0x0#7 => if w.extractLsb' 16 1 = 0#1 ∧ w.extractLsb' 7 5 = 0#5 then some (.sems (Ring.one w) (w.extractLsb' 17 5) (w.extractLsb' 12 4)) else none
  | 0x1#7 => if w.extractLsb' 16 1 = 0#1 ∧ w.extractLsb' 7 5 = 0#5 then some (.semw (Ring.one w) (w.extractLsb' 17 5) (w.extractLsb' 12 4)) else none
  | _ => none

/-- Major 0x33 of the A-ISA. -/
def decA33 (w v : Word) : Option Instr :=
  if w.extractLsb' 16 1 = 0#1 ∧ w.extractLsb' 0 7 = 0x0#7 then some (.semwt (Ring.one w) (w.extractLsb' 17 5) (w.extractLsb' 12 4) (w.extractLsb' 7 5)) else none

/-- Major 0x34 of the A-ISA, a group. -/
def decA34 (w v : Word) : Option Instr :=
  match w.extractLsb' 0 7 with
  | 0x0#7 => if w.extractLsb' 18 4 = 0#4 ∧ w.extractLsb' 12 5 = 0#5 then some (.tkw (Ring.one w) (w.getLsbD 17) (w.extractLsb' 7 5)) else none
  | 0x1#7 => if w.extractLsb' 18 4 = 0#4 ∧ w.extractLsb' 12 5 = 0#5 then some (.tks (Ring.one w) (w.getLsbD 17) (w.extractLsb' 7 5)) else none
  | 0x2#7 => if w.extractLsb' 7 10 = 0#10 then some (.stw (Ring.one w) (w.extractLsb' 17 5)) else none
  | _ => none

/-- Major 0x35 of the A-ISA. -/
def decA35 (w v : Word) : Option Instr :=
  some (.poprpl (Ring.one w) (w.extractLsb' 17 5) (w.getLsbD 16) (w.extractLsb' 0 16))

/-- Major 0x36 of the A-ISA, a group. -/
def decA36 (w v : Word) : Option Instr :=
  match w.extractLsb' 0 7 with
  | 0x0#7 => if w.extractLsb' 17 5 = 0#5 then some (.sqpush (Ring.one w) (w.extractLsb' 12 5) (w.extractLsb' 7 5)) else none
  | 0x1#7 => if w.extractLsb' 18 4 = 0#4 ∧ w.extractLsb' 7 5 = 0#5 then some (.sqbind (Ring.one w) (w.getLsbD 17) (w.extractLsb' 12 5)) else none
  | _ => none

/-- Major 0x37 of the A-ISA. -/
def decA37 (w v : Word) : Option Instr :=
  if w.extractLsb' 28 2 = 0#2 ∧ v.extractLsb' 30 2 = 0#2 ∧ w.extractLsb' 17 5 = 0#5 ∧ v.extractLsb' 0 10 = 0#10 then some (.msend (Ring.two w v) (w.extractLsb' 12 5) (w.extractLsb' 7 5) (w.extractLsb' 0 7) (v.getLsbD 27) (v.extractLsb' 24 3) (v.extractLsb' 10 14)) else none

/-- Major 0x38 of the A-ISA: system instructions in the layout of R438, RING and the fields that its table marks zero being 0. -/
def decA38 (w v : Word) : Option Instr :=
  match w.extractLsb' 0 7 with
  | 0x0#7 => if w.extractLsb' 28 4 = 0#4 then some (.asidset (w.extractLsb' 17 5) (w.extractLsb' 12 5) (w.extractLsb' 7 5)) else none
  | 0x1#7 => if w.extractLsb' 28 4 = 0#4 then some (.ptbase (w.extractLsb' 17 5) (w.extractLsb' 12 5) (w.extractLsb' 7 5)) else none
  | 0x2#7 => if w.extractLsb' 28 4 = 0#4 then some (.tlbinv (w.extractLsb' 17 5) (w.extractLsb' 12 5) (w.extractLsb' 7 5)) else none
  | 0x3#7 => if w.extractLsb' 28 4 = 0#4 ∧ w.extractLsb' 7 5 = 0#5 then some (.killctx (w.extractLsb' 17 5) (w.extractLsb' 12 5)) else none
  | _ => none

/-- Major 0x39 of the A-ISA: system instructions in the layout of R438, RING and the fields that its table marks zero being 0. -/
def decA39 (w v : Word) : Option Instr :=
  match w.extractLsb' 0 7 with
  | 0x0#7 => if w.extractLsb' 28 4 = 0#4 ∧ w.extractLsb' 7 5 = 0#5 then some (.preempt (w.extractLsb' 17 5) (w.extractLsb' 12 5)) else none
  | 0x1#7 => if w.extractLsb' 28 4 = 0#4 then some (.ctxsave (w.extractLsb' 17 5) (w.extractLsb' 12 5) (w.extractLsb' 7 5)) else none
  | 0x2#7 => if w.extractLsb' 28 4 = 0#4 then some (.ctxload (w.extractLsb' 17 5) (w.extractLsb' 12 5) (w.extractLsb' 7 5)) else none
  | 0x3#7 => if w.extractLsb' 28 4 = 0#4 then some (.drain (w.extractLsb' 17 5) (w.extractLsb' 12 5) (w.extractLsb' 7 5)) else none
  | _ => none

/-- Major 0x3A of the A-ISA: system instructions in the layout of R438, RING and the fields that its table marks zero being 0. -/
def decA3A (w v : Word) : Option Instr :=
  match w.extractLsb' 0 7 with
  | 0x0#7 => if w.extractLsb' 28 4 = 0#4 then some (.semmap (w.extractLsb' 17 5) (w.extractLsb' 12 5) (w.extractLsb' 7 5)) else none
  | 0x1#7 => if w.extractLsb' 28 4 = 0#4 ∧ w.extractLsb' 7 5 = 0#5 then some (.lqpush (w.extractLsb' 17 5) (w.extractLsb' 12 5)) else none
  | 0x2#7 => if w.extractLsb' 28 4 = 0#4 then some (.wake (w.extractLsb' 17 5) (w.extractLsb' 12 5) (w.extractLsb' 7 5)) else none
  | _ => none

/-- Major 0x3B of the A-ISA: system instructions in the layout of R438, RING and the fields that its table marks zero being 0. -/
def decA3B (w v : Word) : Option Instr :=
  match w.extractLsb' 0 7 with
  | 0x0#7 => if w.extractLsb' 28 4 = 0#4 ∧ w.extractLsb' 7 5 = 0#5 then some (.timerd (w.extractLsb' 17 5) (w.extractLsb' 12 5)) else none
  | 0x1#7 => if w.extractLsb' 28 4 = 0#4 ∧ w.extractLsb' 7 5 = 0#5 then some (.adjourn (w.extractLsb' 17 5) (w.extractLsb' 12 5)) else none
  | 0x2#7 => if w.extractLsb' 28 4 = 0#4 then some (.score (w.extractLsb' 17 5) (w.extractLsb' 12 5) (w.extractLsb' 7 5)) else none
  | 0x3#7 => if w.extractLsb' 28 4 = 0#4 then some (.monsnap (w.extractLsb' 17 5) (w.extractLsb' 12 5) (w.extractLsb' 7 5)) else none
  | _ => none

/-- An instruction of the A-ISA from its word 1 and the word after it, before the checks of `Instr.wf`
(R111, R112). A reserved major, function code or element code, or a non-zero bit in a field that must be zero, is none. -/
def rawA (w v : Word) : Option Instr :=
  match w.extractLsb' 22 6 with
  | 0x00#6 => decA00 w v
  | 0x01#6 => decA01 w v
  | 0x02#6 => decA02 w v
  | 0x03#6 => decA03 w v
  | 0x04#6 => decA04 w v
  | 0x05#6 => decA05 w v
  | 0x06#6 => decA06 w v
  | 0x07#6 => decA07 w v
  | 0x08#6 => decA08 w v
  | 0x09#6 => decA09 w v
  | 0x0a#6 => decA0A w v
  | 0x0b#6 => decA0B w v
  | 0x0c#6 => decA0C w v
  | 0x0d#6 => decA0D w v
  | 0x0e#6 => decA0E w v
  | 0x0f#6 => decA0F w v
  | 0x10#6 => decA10 w v
  | 0x11#6 => decA11 w v
  | 0x12#6 => decA12 w v
  | 0x13#6 => decA13 w v
  | 0x14#6 => decA14 w v
  | 0x15#6 => decA15 w v
  | 0x16#6 => decA16 w v
  | 0x17#6 => decA17 w v
  | 0x18#6 => decA18 w v
  | 0x19#6 => decA19 w v
  | 0x1a#6 => decA1A w v
  | 0x1b#6 => decA1B w v
  | 0x1c#6 => decA1C w v
  | 0x1d#6 => decA1D w v
  | 0x1e#6 => decA1E w v
  | 0x1f#6 => decA1F w v
  | 0x20#6 => decA20 w v
  | 0x21#6 => decA21 w v
  | 0x24#6 => decA24 w v
  | 0x25#6 => decA25 w v
  | 0x26#6 => decA26 w v
  | 0x27#6 => decA27 w v
  | 0x28#6 => decA28 w v
  | 0x29#6 => decA29 w v
  | 0x2a#6 => decA2A w v
  | 0x2b#6 => decA2B w v
  | 0x2c#6 => decA2C w v
  | 0x2d#6 => decA2D w v
  | 0x2e#6 => decA2E w v
  | 0x2f#6 => decA2F w v
  | 0x30#6 => decA30 w v
  | 0x31#6 => decA31 w v
  | 0x32#6 => decA32 w v
  | 0x33#6 => decA33 w v
  | 0x34#6 => decA34 w v
  | 0x35#6 => decA35 w v
  | 0x36#6 => decA36 w v
  | 0x37#6 => decA37 w v
  | 0x38#6 => decA38 w v
  | 0x39#6 => decA39 w v
  | 0x3a#6 => decA3A w v
  | 0x3b#6 => decA3B w v
  | _ => none

/-- Major 0x00 of the X-ISA. -/
def decX00 (w v : Word) : Option Instr :=
  (ElemT.ofBits (w.extractLsb' 0 4)).map fun t => .vadd (Ring.one w) (w.extractLsb' 16 6) (w.extractLsb' 10 6) (w.extractLsb' 4 6) t

/-- Major 0x01 of the X-ISA. -/
def decX01 (w v : Word) : Option Instr :=
  (ElemT.ofBits (w.extractLsb' 0 4)).map fun t => .vsub (Ring.one w) (w.extractLsb' 16 6) (w.extractLsb' 10 6) (w.extractLsb' 4 6) t

/-- Major 0x02 of the X-ISA. -/
def decX02 (w v : Word) : Option Instr :=
  (ElemT.ofBits (w.extractLsb' 0 4)).map fun t => .vmul (Ring.one w) (w.extractLsb' 16 6) (w.extractLsb' 10 6) (w.extractLsb' 4 6) t

/-- Major 0x03 of the X-ISA. -/
def decX03 (w v : Word) : Option Instr :=
  (ElemT.ofBits (w.extractLsb' 0 4)).map fun t => .vmin (Ring.one w) (w.extractLsb' 16 6) (w.extractLsb' 10 6) (w.extractLsb' 4 6) t

/-- Major 0x04 of the X-ISA. -/
def decX04 (w v : Word) : Option Instr :=
  (ElemT.ofBits (w.extractLsb' 0 4)).map fun t => .vmax (Ring.one w) (w.extractLsb' 16 6) (w.extractLsb' 10 6) (w.extractLsb' 4 6) t

/-- Major 0x05 of the X-ISA. -/
def decX05 (w v : Word) : Option Instr :=
  (ElemT.ofBits (w.extractLsb' 0 4)).map fun t => .vabd (Ring.one w) (w.extractLsb' 16 6) (w.extractLsb' 10 6) (w.extractLsb' 4 6) t

/-- Major 0x06 of the X-ISA. -/
def decX06 (w v : Word) : Option Instr :=
  (ElemT.ofBits (w.extractLsb' 0 4)).map fun t => .vadds (Ring.one w) (w.extractLsb' 16 6) (w.extractLsb' 10 6) (w.extractLsb' 4 6) t

/-- Major 0x07 of the X-ISA. -/
def decX07 (w v : Word) : Option Instr :=
  (ElemT.ofBits (w.extractLsb' 0 4)).map fun t => .vsubs (Ring.one w) (w.extractLsb' 16 6) (w.extractLsb' 10 6) (w.extractLsb' 4 6) t

/-- Major 0x08 of the X-ISA. -/
def decX08 (w v : Word) : Option Instr :=
  (ElemT.ofBits (w.extractLsb' 0 4)).map fun t => .vmulh (Ring.one w) (w.extractLsb' 16 6) (w.extractLsb' 10 6) (w.extractLsb' 4 6) t

/-- Major 0x09 of the X-ISA. -/
def decX09 (w v : Word) : Option Instr :=
  (ElemT.ofBits (w.extractLsb' 0 4)).map fun t => .vdiv (Ring.one w) (w.extractLsb' 16 6) (w.extractLsb' 10 6) (w.extractLsb' 4 6) t

/-- Major 0x0A of the X-ISA. -/
def decX0A (w v : Word) : Option Instr :=
  (ElemT.ofBits (w.extractLsb' 0 4)).map fun t => .vand (Ring.one w) (w.extractLsb' 16 6) (w.extractLsb' 10 6) (w.extractLsb' 4 6) t

/-- Major 0x0B of the X-ISA. -/
def decX0B (w v : Word) : Option Instr :=
  (ElemT.ofBits (w.extractLsb' 0 4)).map fun t => .vor (Ring.one w) (w.extractLsb' 16 6) (w.extractLsb' 10 6) (w.extractLsb' 4 6) t

/-- Major 0x0C of the X-ISA. -/
def decX0C (w v : Word) : Option Instr :=
  (ElemT.ofBits (w.extractLsb' 0 4)).map fun t => .vxor (Ring.one w) (w.extractLsb' 16 6) (w.extractLsb' 10 6) (w.extractLsb' 4 6) t

/-- Major 0x0D of the X-ISA. -/
def decX0D (w v : Word) : Option Instr :=
  (ElemT.ofBits (w.extractLsb' 0 4)).map fun t => .vshl (Ring.one w) (w.extractLsb' 16 6) (w.extractLsb' 10 6) (w.extractLsb' 4 6) t

/-- Major 0x0E of the X-ISA. -/
def decX0E (w v : Word) : Option Instr :=
  (ElemT.ofBits (w.extractLsb' 0 4)).map fun t => .vshr (Ring.one w) (w.extractLsb' 16 6) (w.extractLsb' 10 6) (w.extractLsb' 4 6) t

/-- Major 0x0F of the X-ISA. -/
def decX0F (w v : Word) : Option Instr :=
  (ElemT.ofBits (w.extractLsb' 0 4)).map fun t => .vsar (Ring.one w) (w.extractLsb' 16 6) (w.extractLsb' 10 6) (w.extractLsb' 4 6) t

/-- Major 0x10 of the X-ISA. -/
def decX10 (w v : Word) : Option Instr :=
  if w.extractLsb' 28 2 = 0#2 ∧ v.extractLsb' 30 2 = 0#2 ∧ v.extractLsb' 13 4 = 0#4 ∧ v.extractLsb' 0 8 = 0#8 then (ElemT.ofBits (w.extractLsb' 0 4)).bind fun t => (maskOf (v.extractLsb' 17 5)).bind fun mk => (rmOvOf (v.extractLsb' 8 5)).map fun rmo => .vfma (Ring.two w v) (w.extractLsb' 16 6) (w.extractLsb' 10 6) (w.extractLsb' 4 6) t (v.extractLsb' 22 6) mk rmo else none

/-- Major 0x11 of the X-ISA. -/
def decX11 (w v : Word) : Option Instr :=
  if w.extractLsb' 28 2 = 0#2 ∧ v.extractLsb' 30 2 = 0#2 ∧ v.extractLsb' 13 4 = 0#4 ∧ v.extractLsb' 0 8 = 0#8 then (ElemT.ofBits (w.extractLsb' 0 4)).bind fun t => (maskOf (v.extractLsb' 17 5)).bind fun mk => (rmOvOf (v.extractLsb' 8 5)).map fun rmo => .vfms (Ring.two w v) (w.extractLsb' 16 6) (w.extractLsb' 10 6) (w.extractLsb' 4 6) t (v.extractLsb' 22 6) mk rmo else none

/-- Major 0x12 of the X-ISA, a group. -/
def decX12 (w v : Word) : Option Instr :=
  match w.extractLsb' 4 6 with
  | 0x0#6 => (ElemT.ofBits (w.extractLsb' 0 4)).map fun t => .vabs (Ring.one w) (w.extractLsb' 16 6) (w.extractLsb' 10 6) t
  | 0x1#6 => (ElemT.ofBits (w.extractLsb' 0 4)).map fun t => .vneg (Ring.one w) (w.extractLsb' 16 6) (w.extractLsb' 10 6) t
  | 0x2#6 => (ElemT.ofBits (w.extractLsb' 0 4)).map fun t => .vnot (Ring.one w) (w.extractLsb' 16 6) (w.extractLsb' 10 6) t
  | 0x3#6 => (ElemT.ofBits (w.extractLsb' 0 4)).map fun t => .vsqrt (Ring.one w) (w.extractLsb' 16 6) (w.extractLsb' 10 6) t
  | 0x4#6 => (ElemT.ofBits (w.extractLsb' 0 4)).map fun t => .vrcp (Ring.one w) (w.extractLsb' 16 6) (w.extractLsb' 10 6) t
  | 0x5#6 => (ElemT.ofBits (w.extractLsb' 0 4)).map fun t => .vrsq (Ring.one w) (w.extractLsb' 16 6) (w.extractLsb' 10 6) t
  | 0x6#6 => (ElemT.ofBits (w.extractLsb' 0 4)).map fun t => .vexp2 (Ring.one w) (w.extractLsb' 16 6) (w.extractLsb' 10 6) t
  | 0x7#6 => (ElemT.ofBits (w.extractLsb' 0 4)).map fun t => .vlog2 (Ring.one w) (w.extractLsb' 16 6) (w.extractLsb' 10 6) t
  | 0x8#6 => (ElemT.ofBits (w.extractLsb' 0 4)).map fun t => .vtanh (Ring.one w) (w.extractLsb' 16 6) (w.extractLsb' 10 6) t
  | 0x9#6 => (ElemT.ofBits (w.extractLsb' 0 4)).map fun t => .vsigm (Ring.one w) (w.extractLsb' 16 6) (w.extractLsb' 10 6) t
  | 0xa#6 => (ElemT.ofBits (w.extractLsb' 0 4)).map fun t => .vmov (Ring.one w) (w.extractLsb' 16 6) (w.extractLsb' 10 6) t
  | _ => none

/-- Major 0x13 of the X-ISA. -/
def decX13 (w v : Word) : Option Instr :=
  if w.extractLsb' 28 2 = 0#2 ∧ v.extractLsb' 30 2 = 0#2 ∧ w.extractLsb' 16 6 = 0#6 ∧ v.extractLsb' 21 7 = 0#7 ∧ v.extractLsb' 6 12 = 0#12 ∧ v.extractLsb' 0 2 = 0#2 then (ElemT.ofBits (w.extractLsb' 0 4)).bind fun t => (Cond.ofBits (v.extractLsb' 2 4)).map fun cond => .vcmp (Ring.two w v) (w.extractLsb' 10 6) (w.extractLsb' 4 6) t (v.extractLsb' 18 3) cond else none

/-- Major 0x14 of the X-ISA, a group. -/
def decX14 (w v : Word) : Option Instr :=
  match w.extractLsb' 0 6 with
  | 0x0#6 => if w.extractLsb' 21 1 = 0#1 ∧ w.extractLsb' 6 6 = 0#6 then some (.kand (Ring.one w) (w.extractLsb' 18 3) (w.extractLsb' 15 3) (w.extractLsb' 12 3)) else none
  | 0x1#6 => if w.extractLsb' 21 1 = 0#1 ∧ w.extractLsb' 6 6 = 0#6 then some (.kor (Ring.one w) (w.extractLsb' 18 3) (w.extractLsb' 15 3) (w.extractLsb' 12 3)) else none
  | 0x2#6 => if w.extractLsb' 21 1 = 0#1 ∧ w.extractLsb' 6 6 = 0#6 then some (.kxor (Ring.one w) (w.extractLsb' 18 3) (w.extractLsb' 15 3) (w.extractLsb' 12 3)) else none
  | 0x3#6 => if w.extractLsb' 21 1 = 0#1 ∧ w.extractLsb' 6 9 = 0#9 then some (.knot (Ring.one w) (w.extractLsb' 18 3) (w.extractLsb' 15 3)) else none
  | 0x4#6 => if w.extractLsb' 6 9 = 0#9 then some (.kpop (Ring.one w) (w.extractLsb' 18 4) (w.extractLsb' 15 3)) else none
  | 0x5#6 => if w.extractLsb' 6 9 = 0#9 then some (.kfirst (Ring.one w) (w.extractLsb' 18 4) (w.extractLsb' 15 3)) else none
  | _ => none

/-- Major 0x15 of the X-ISA. -/
def decX15 (w v : Word) : Option Instr :=
  if w.extractLsb' 28 2 = 0#2 ∧ v.extractLsb' 30 2 = 0#2 ∧ v.extractLsb' 22 6 = 0#6 ∧ v.extractLsb' 21 1 = 0x1#1 ∧ v.extractLsb' 0 18 = 0#18 then (ElemT.ofBits (w.extractLsb' 0 4)).map fun t => .vsel (Ring.two w v) (w.extractLsb' 16 6) (w.extractLsb' 10 6) (w.extractLsb' 4 6) t (v.extractLsb' 18 3) else none

/-- Major 0x16 of the X-ISA. -/
def decX16 (w v : Word) : Option Instr :=
  if w.extractLsb' 28 2 = 0#2 ∧ v.extractLsb' 30 2 = 0#2 ∧ w.extractLsb' 4 6 = 0#6 ∧ v.extractLsb' 22 6 = 0#6 ∧ v.extractLsb' 21 1 = 0x1#1 ∧ v.extractLsb' 0 17 = 0#17 then (ElemT.ofBits (w.extractLsb' 0 4)).map fun t => .vmovm (Ring.two w v) (w.extractLsb' 16 6) (w.extractLsb' 10 6) t (v.extractLsb' 18 3) (v.getLsbD 17) else none

/-- Major 0x17 of the X-ISA. -/
def decX17 (w v : Word) : Option Instr :=
  if w.extractLsb' 28 2 = 0#2 ∧ v.extractLsb' 30 2 = 0#2 ∧ w.extractLsb' 4 6 = 0#6 ∧ v.extractLsb' 22 6 = 0#6 ∧ v.extractLsb' 0 8 = 0#8 then (ElemT.ofBits (w.extractLsb' 0 4)).bind fun t => (maskOf (v.extractLsb' 17 5)).bind fun mk => (ElemT.ofBits (v.extractLsb' 13 4)).bind fun t2 => (rmOvOf (v.extractLsb' 8 5)).map fun rmo => .vcvt (Ring.two w v) (w.extractLsb' 16 6) (w.extractLsb' 10 6) t mk t2 rmo else none

/-- Major 0x18 of the X-ISA. -/
def decX18 (w v : Word) : Option Instr :=
  if w.extractLsb' 28 2 = 0#2 ∧ v.extractLsb' 30 2 = 0#2 ∧ w.extractLsb' 4 6 = 0#6 ∧ v.extractLsb' 17 5 = 0#5 ∧ v.extractLsb' 0 8 = 0#8 then (ElemT.ofBits (w.extractLsb' 0 4)).bind fun t => (ElemT.ofBits (v.extractLsb' 13 4)).bind fun t2 => (rmOvOf (v.extractLsb' 8 5)).map fun rmo => .vquant (Ring.two w v) (w.extractLsb' 16 6) (w.extractLsb' 10 6) t (v.extractLsb' 22 6) t2 rmo else none

/-- Major 0x19 of the X-ISA. -/
def decX19 (w v : Word) : Option Instr :=
  if w.extractLsb' 28 2 = 0#2 ∧ v.extractLsb' 30 2 = 0#2 ∧ w.extractLsb' 4 6 = 0#6 ∧ v.extractLsb' 0 8 = 0#8 then (ElemT.ofBits (w.extractLsb' 0 4)).bind fun t => (maskOf (v.extractLsb' 17 5)).bind fun mk => (ElemT.ofBits (v.extractLsb' 13 4)).bind fun t2 => (rmOvOf (v.extractLsb' 8 5)).map fun rmo => .vdeq (Ring.two w v) (w.extractLsb' 16 6) (w.extractLsb' 10 6) t (v.extractLsb' 22 6) mk t2 rmo else none

/-- Major 0x1A of the X-ISA, a group. -/
def decX1A (w v : Word) : Option Instr :=
  match w.extractLsb' 4 6 with
  | 0x0#6 => (ElemT.ofBits (w.extractLsb' 0 4)).map fun t => .vrsumr (Ring.one w) (w.extractLsb' 16 6) (w.extractLsb' 10 6) t
  | 0x1#6 => (ElemT.ofBits (w.extractLsb' 0 4)).map fun t => .vrsumc (Ring.one w) (w.extractLsb' 16 6) (w.extractLsb' 10 6) t
  | 0x2#6 => (ElemT.ofBits (w.extractLsb' 0 4)).map fun t => .vrmax (Ring.one w) (w.extractLsb' 16 6) (w.extractLsb' 10 6) t
  | 0x3#6 => (ElemT.ofBits (w.extractLsb' 0 4)).map fun t => .vrmin (Ring.one w) (w.extractLsb' 16 6) (w.extractLsb' 10 6) t
  | _ => none

/-- Major 0x1B of the X-ISA, a group. -/
def decX1B (w v : Word) : Option Instr :=
  match w.extractLsb' 4 6 with
  | 0x0#6 => (ElemT.ofBits (w.extractLsb' 0 4)).map fun t => .vscanSum (Ring.one w) (w.extractLsb' 16 6) (w.extractLsb' 10 6) t
  | 0x1#6 => (ElemT.ofBits (w.extractLsb' 0 4)).map fun t => .vscanMax (Ring.one w) (w.extractLsb' 16 6) (w.extractLsb' 10 6) t
  | 0x2#6 => (ElemT.ofBits (w.extractLsb' 0 4)).map fun t => .vscanMin (Ring.one w) (w.extractLsb' 16 6) (w.extractLsb' 10 6) t
  | _ => none

/-- Major 0x1C of the X-ISA. -/
def decX1C (w v : Word) : Option Instr :=
  if w.extractLsb' 28 2 = 0#2 ∧ v.extractLsb' 30 2 = 0#2 ∧ w.extractLsb' 4 6 = 0#6 ∧ v.extractLsb' 22 6 = 0#6 ∧ v.extractLsb' 21 1 = 0x1#1 ∧ v.extractLsb' 13 5 = 0#5 ∧ v.extractLsb' 0 8 = 0#8 then (ElemT.ofBits (w.extractLsb' 0 4)).bind fun t => (rmOvOf (v.extractLsb' 8 5)).map fun rmo => .vsegsum (Ring.two w v) (w.extractLsb' 16 6) (w.extractLsb' 10 6) t (v.extractLsb' 18 3) rmo else none

/-- Major 0x1D of the X-ISA. -/
def decX1D (w v : Word) : Option Instr :=
  if w.extractLsb' 4 6 = 0#6 then (ElemT.ofBits (w.extractLsb' 0 4)).map fun t => .vtrn (Ring.one w) (w.extractLsb' 16 6) (w.extractLsb' 10 6) t else none

/-- Major 0x1E of the X-ISA. -/
def decX1E (w v : Word) : Option Instr :=
  if w.extractLsb' 8 2 = 0#2 then (ElemT.ofBits (w.extractLsb' 0 4)).map fun t => .vbcr (Ring.one w) (w.extractLsb' 16 6) (w.extractLsb' 10 6) (w.extractLsb' 4 4) t else none

/-- Major 0x1F of the X-ISA. -/
def decX1F (w v : Word) : Option Instr :=
  if w.extractLsb' 8 2 = 0#2 then (ElemT.ofBits (w.extractLsb' 0 4)).map fun t => .vbcc (Ring.one w) (w.extractLsb' 16 6) (w.extractLsb' 10 6) (w.extractLsb' 4 4) t else none

/-- Major 0x20 of the X-ISA. -/
def decX20 (w v : Word) : Option Instr :=
  (ElemT.ofBits (w.extractLsb' 0 4)).map fun t => .vrot (Ring.one w) (w.extractLsb' 16 6) (w.extractLsb' 10 6) (w.extractLsb' 4 6) t

/-- Major 0x21 of the X-ISA. -/
def decX21 (w v : Word) : Option Instr :=
  (ElemT.ofBits (w.extractLsb' 0 4)).map fun t => .vslide (Ring.one w) (w.extractLsb' 16 6) (w.extractLsb' 10 6) (w.extractLsb' 4 6) t

/-- Major 0x22 of the X-ISA. -/
def decX22 (w v : Word) : Option Instr :=
  if w.extractLsb' 4 12 = 0#12 then (ElemT.ofBits (w.extractLsb' 0 4)).map fun t => .viota (Ring.one w) (w.extractLsb' 16 6) t else none

/-- Major 0x23 of the X-ISA. -/
def decX23 (w v : Word) : Option Instr :=
  if w.extractLsb' 14 2 = 0#2 ∧ w.extractLsb' 4 6 = 0#6 then (ElemT.ofBits (w.extractLsb' 0 4)).map fun t => .vsplat (Ring.one w) (w.extractLsb' 16 6) (w.extractLsb' 10 4) t else none

/-- Major 0x24 of the X-ISA. -/
def decX24 (w v : Word) : Option Instr :=
  if w.extractLsb' 20 2 = 0#2 ∧ w.extractLsb' 8 2 = 0#2 then (ElemT.ofBits (w.extractLsb' 0 4)).map fun t => .vext (Ring.one w) (w.extractLsb' 16 4) (w.extractLsb' 10 6) (w.extractLsb' 4 4) t else none

/-- Major 0x25 of the X-ISA. -/
def decX25 (w v : Word) : Option Instr :=
  if w.extractLsb' 14 2 = 0#2 ∧ w.extractLsb' 8 2 = 0#2 then (ElemT.ofBits (w.extractLsb' 0 4)).map fun t => .vins (Ring.one w) (w.extractLsb' 16 6) (w.extractLsb' 10 4) (w.extractLsb' 4 4) t else none

/-- Major 0x26 of the X-ISA. -/
def decX26 (w v : Word) : Option Instr :=
  if w.extractLsb' 0 10 = 0#10 then some (.vshape (Ring.one w) (w.extractLsb' 16 6) (w.extractLsb' 10 6)) else none

/-- Major 0x28 of the X-ISA, a group. -/
def decX28 (w v : Word) : Option Instr :=
  match w.extractLsb' 0 6 with
  | 0x0#6 => if w.extractLsb' 6 4 = 0#4 then some (.xadd (Ring.one w) (w.extractLsb' 18 4) (w.extractLsb' 14 4) (w.extractLsb' 10 4)) else none
  | 0x1#6 => if w.extractLsb' 6 4 = 0#4 then some (.xsub (Ring.one w) (w.extractLsb' 18 4) (w.extractLsb' 14 4) (w.extractLsb' 10 4)) else none
  | 0x2#6 => if w.extractLsb' 6 4 = 0#4 then some (.xmul (Ring.one w) (w.extractLsb' 18 4) (w.extractLsb' 14 4) (w.extractLsb' 10 4)) else none
  | 0x3#6 => if w.extractLsb' 6 4 = 0#4 then some (.xmulh (Ring.one w) (w.extractLsb' 18 4) (w.extractLsb' 14 4) (w.extractLsb' 10 4)) else none
  | 0x4#6 => if w.extractLsb' 6 4 = 0#4 then some (.xmulhu (Ring.one w) (w.extractLsb' 18 4) (w.extractLsb' 14 4) (w.extractLsb' 10 4)) else none
  | 0x5#6 => if w.extractLsb' 6 4 = 0#4 then some (.xdiv (Ring.one w) (w.extractLsb' 18 4) (w.extractLsb' 14 4) (w.extractLsb' 10 4)) else none
  | 0x6#6 => if w.extractLsb' 6 4 = 0#4 then some (.xdivu (Ring.one w) (w.extractLsb' 18 4) (w.extractLsb' 14 4) (w.extractLsb' 10 4)) else none
  | 0x7#6 => if w.extractLsb' 6 4 = 0#4 then some (.xrem (Ring.one w) (w.extractLsb' 18 4) (w.extractLsb' 14 4) (w.extractLsb' 10 4)) else none
  | 0x8#6 => if w.extractLsb' 6 4 = 0#4 then some (.xremu (Ring.one w) (w.extractLsb' 18 4) (w.extractLsb' 14 4) (w.extractLsb' 10 4)) else none
  | 0x9#6 => if w.extractLsb' 6 4 = 0#4 then some (.xmin (Ring.one w) (w.extractLsb' 18 4) (w.extractLsb' 14 4) (w.extractLsb' 10 4)) else none
  | 0xa#6 => if w.extractLsb' 6 4 = 0#4 then some (.xminu (Ring.one w) (w.extractLsb' 18 4) (w.extractLsb' 14 4) (w.extractLsb' 10 4)) else none
  | 0xb#6 => if w.extractLsb' 6 4 = 0#4 then some (.xmax (Ring.one w) (w.extractLsb' 18 4) (w.extractLsb' 14 4) (w.extractLsb' 10 4)) else none
  | 0xc#6 => if w.extractLsb' 6 4 = 0#4 then some (.xmaxu (Ring.one w) (w.extractLsb' 18 4) (w.extractLsb' 14 4) (w.extractLsb' 10 4)) else none
  | 0xd#6 => if w.extractLsb' 6 4 = 0#4 then some (.xshl (Ring.one w) (w.extractLsb' 18 4) (w.extractLsb' 14 4) (w.extractLsb' 10 4)) else none
  | 0xe#6 => if w.extractLsb' 6 4 = 0#4 then some (.xshr (Ring.one w) (w.extractLsb' 18 4) (w.extractLsb' 14 4) (w.extractLsb' 10 4)) else none
  | 0xf#6 => if w.extractLsb' 6 4 = 0#4 then some (.xsar (Ring.one w) (w.extractLsb' 18 4) (w.extractLsb' 14 4) (w.extractLsb' 10 4)) else none
  | 0x10#6 => if w.extractLsb' 6 4 = 0#4 then some (.xand (Ring.one w) (w.extractLsb' 18 4) (w.extractLsb' 14 4) (w.extractLsb' 10 4)) else none
  | 0x11#6 => if w.extractLsb' 6 4 = 0#4 then some (.xorX (Ring.one w) (w.extractLsb' 18 4) (w.extractLsb' 14 4) (w.extractLsb' 10 4)) else none
  | 0x12#6 => if w.extractLsb' 6 4 = 0#4 then some (.xxor (Ring.one w) (w.extractLsb' 18 4) (w.extractLsb' 14 4) (w.extractLsb' 10 4)) else none
  | 0x13#6 => if w.extractLsb' 6 8 = 0#8 then some (.xclz (Ring.one w) (w.extractLsb' 18 4) (w.extractLsb' 14 4)) else none
  | 0x14#6 => if w.extractLsb' 6 8 = 0#8 then some (.xpopc (Ring.one w) (w.extractLsb' 18 4) (w.extractLsb' 14 4)) else none
  | _ => none

/-- Major 0x29 of the X-ISA. -/
def decX29 (w v : Word) : Option Instr :=
  some (.xaddi (Ring.one w) (w.extractLsb' 18 4) (w.extractLsb' 14 4) (w.extractLsb' 0 14))

/-- Major 0x2A of the X-ISA. -/
def decX2A (w v : Word) : Option Instr :=
  some (.xmovi (Ring.one w) (w.extractLsb' 18 4) (w.extractLsb' 0 18))

/-- Major 0x2B of the X-ISA. -/
def decX2B (w v : Word) : Option Instr :=
  if w.extractLsb' 0 3 = 0#3 then (Cond.ofBits (w.extractLsb' 3 4)).map fun cond => .xcmp (Ring.one w) (w.extractLsb' 15 7) (w.extractLsb' 11 4) (w.extractLsb' 7 4) cond else none

/-- Major 0x2C of the X-ISA. -/
def decX2C (w v : Word) : Option Instr :=
  some (.xb (Ring.one w) (w.extractLsb' 15 7) (w.getLsbD 14) (w.extractLsb' 0 14))

/-- Major 0x2D of the X-ISA. -/
def decX2D (w v : Word) : Option Instr :=
  if w.extractLsb' 0 11 = 0#11 then some (.guardX (Ring.one w) (w.extractLsb' 15 7) (w.getLsbD 14) (w.extractLsb' 11 3)) else none

/-- Major 0x2E of the X-ISA, a group. -/
def decX2E (w v : Word) : Option Instr :=
  match w.extractLsb' 19 1 with
  | 0x0#1 => if w.extractLsb' 14 1 = 0#1 then some (.loopX (Ring.one w) (w.extractLsb' 20 2) (w.extractLsb' 15 4) (w.extractLsb' 0 14)) else none
  | 0x1#1 => if w.extractLsb' 20 2 = 0#2 ∧ w.extractLsb' 6 13 = 0#13 then some (.loopspX (Ring.one w) (w.extractLsb' 0 6)) else none

/-- Major 0x2F of the X-ISA, a group. -/
def decX2F (w v : Word) : Option Instr :=
  match w.extractLsb' 0 6 with
  | 0x0#6 => if w.extractLsb' 18 4 = 0#4 ∧ w.extractLsb' 6 3 = 0#3 then some (.steer (Ring.one w) (w.extractLsb' 14 4) (w.extractLsb' 10 4) (w.getLsbD 9)) else none
  | 0x1#6 => if w.extractLsb' 18 4 = 0#4 ∧ w.extractLsb' 6 8 = 0#8 then some (.xj (Ring.one w) (w.extractLsb' 14 4)) else none
  | 0x2#6 => if w.extractLsb' 6 16 = 0#16 then some (.rdvX (Ring.one w)) else none
  | 0x3#6 => if w.extractLsb' 6 16 = 0#16 then some (.safeX (Ring.one w)) else none
  | 0x4#6 => if w.extractLsb' 14 4 = 0#4 ∧ w.extractLsb' 6 4 = 0#4 then (XSel.ofBits (w.extractLsb' 10 4)).map fun sel => .xget (Ring.one w) (w.extractLsb' 18 4) sel else none
  | 0x5#6 => if w.extractLsb' 18 4 = 0#4 ∧ w.extractLsb' 6 4 = 0#4 then (XSel.ofBits (w.extractLsb' 10 4)).map fun sel => .xset (Ring.one w) (w.extractLsb' 14 4) sel else none
  | _ => none

/-- Major 0x34 of the X-ISA. -/
def decX34 (w v : Word) : Option Instr :=
  if w.extractLsb' 28 2 = 0#2 ∧ v.extractLsb' 30 2 = 0#2 ∧ v.extractLsb' 0 3 = 0#3 then (semFOf (v.extractLsb' 23 5)).bind fun sw => (semFOf (v.extractLsb' 18 5)).bind fun ss => (MxKind.ofBits (w.extractLsb' 20 2)).map fun sk => .mxldb (Ring.two w v) sw ss sk (w.extractLsb' 6 14) (w.extractLsb' 3 3) (w.extractLsb' 0 3) (v.extractLsb' 12 6) (v.extractLsb' 4 8) (v.getLsbD 3) else none

/-- Major 0x35 of the X-ISA. -/
def decX35 (w v : Word) : Option Instr :=
  if w.extractLsb' 28 2 = 0#2 ∧ v.extractLsb' 30 2 = 0#2 ∧ v.extractLsb' 0 2 = 0#2 then (semFOf (v.extractLsb' 23 5)).bind fun sw => (semFOf (v.extractLsb' 18 5)).map fun ss => .mxldbs (Ring.two w v) sw ss (w.getLsbD 21) (w.extractLsb' 7 14) (w.extractLsb' 4 3) (w.extractLsb' 2 2) (w.getLsbD 1) (w.extractLsb' 0 1) (v.extractLsb' 12 6) (v.extractLsb' 2 10) else none

/-- Major 0x36 of the X-ISA. -/
def decX36 (w v : Word) : Option Instr :=
  if w.extractLsb' 28 2 = 0#2 ∧ v.extractLsb' 30 2 = 0#2 ∧ v.extractLsb' 0 1 = 0#1 then (semFOf (v.extractLsb' 23 5)).bind fun sw => (semFOf (v.extractLsb' 18 5)).map fun ss => .mxrun (Ring.two w v) sw ss (w.getLsbD 21) (w.extractLsb' 10 11) (w.extractLsb' 4 6) (w.extractLsb' 0 4) (v.extractLsb' 11 7) (v.extractLsb' 6 5) (v.extractLsb' 1 5) else none

/-- Major 0x37 of the X-ISA. -/
def decX37 (w v : Word) : Option Instr :=
  if w.extractLsb' 28 2 = 0#2 ∧ v.extractLsb' 30 2 = 0#2 ∧ v.extractLsb' 0 2 = 0#2 then (semFOf (v.extractLsb' 23 5)).bind fun sw => (semFOf (v.extractLsb' 18 5)).map fun ss => .mxrung (Ring.two w v) sw ss (w.extractLsb' 16 6) (w.extractLsb' 11 5) (w.extractLsb' 5 6) (w.extractLsb' 0 5) (v.extractLsb' 12 6) (v.extractLsb' 7 5) (v.extractLsb' 2 5) else none

/-- Major 0x38 of the X-ISA, a group. -/
def decX38 (w v : Word) : Option Instr :=
  match w.extractLsb' 20 2 with
  | 0x0#2 => if w.extractLsb' 28 2 = 0#2 ∧ v.extractLsb' 30 2 = 0#2 ∧ v.extractLsb' 0 2 = 0#2 then (semFOf (v.extractLsb' 23 5)).bind fun sw => (semFOf (v.extractLsb' 18 5)).map fun ss => .mxops (Ring.two w v) sw ss (w.extractLsb' 16 4) (w.extractLsb' 0 16) (v.extractLsb' 2 16) else none
  | 0x1#2 => if w.extractLsb' 28 2 = 0#2 ∧ v.extractLsb' 30 2 = 0#2 ∧ v.extractLsb' 0 18 = 0#18 then (semFOf (v.extractLsb' 23 5)).bind fun sw => (semFOf (v.extractLsb' 18 5)).bind fun ss => (MxAnc.ofBits (w.extractLsb' 0 20)).map fun anc => .mxanc (Ring.two w v) sw ss anc else none
  | _ => none

/-- Major 0x39 of the X-ISA, a group. -/
def decX39 (w v : Word) : Option Instr :=
  match w.extractLsb' 20 2 with
  | 0x0#2 => if w.extractLsb' 28 2 = 0#2 ∧ v.extractLsb' 30 2 = 0#2 ∧ w.extractLsb' 0 8 = 0#8 ∧ v.extractLsb' 0 18 = 0#18 then (semFOf (v.extractLsb' 23 5)).bind fun sw => (semFOf (v.extractLsb' 18 5)).map fun ss => .mxz (Ring.two w v) sw ss (w.extractLsb' 15 5) (w.extractLsb' 10 5) (w.extractLsb' 8 2) else none
  | 0x1#2 => if w.extractLsb' 28 2 = 0#2 ∧ v.extractLsb' 30 2 = 0#2 then (semFOf (v.extractLsb' 23 5)).bind fun sw => (semFOf (v.extractLsb' 18 5)).bind fun ss => (Rm.ofBits (v.extractLsb' 4 3)).map fun rm => .mxst (Ring.two w v) sw ss (w.getLsbD 19) (w.extractLsb' 8 11) (w.extractLsb' 3 5) (w.extractLsb' 0 3) (v.extractLsb' 13 5) (v.extractLsb' 7 6) rm (v.getLsbD 3) (v.extractLsb' 0 3) else none
  | _ => none

/-- Major 0x3A of the X-ISA, a group. -/
def decX3A (w v : Word) : Option Instr :=
  match w.extractLsb' 20 2 with
  | 0x0#2 => if w.extractLsb' 28 2 = 0#2 ∧ v.extractLsb' 30 2 = 0#2 ∧ w.extractLsb' 0 3 = 0#3 ∧ v.extractLsb' 0 13 = 0#13 then (semFOf (v.extractLsb' 23 5)).bind fun sw => (semFOf (v.extractLsb' 18 5)).map fun ss => .mxspill (Ring.two w v) sw ss (w.getLsbD 19) (w.extractLsb' 8 11) (w.extractLsb' 3 5) (v.extractLsb' 13 5) else none
  | 0x1#2 => if w.extractLsb' 28 2 = 0#2 ∧ v.extractLsb' 30 2 = 0#2 ∧ w.extractLsb' 0 3 = 0#3 ∧ v.extractLsb' 0 13 = 0#13 then (semFOf (v.extractLsb' 23 5)).bind fun sw => (semFOf (v.extractLsb' 18 5)).map fun ss => .mxfill (Ring.two w v) sw ss (w.getLsbD 19) (w.extractLsb' 8 11) (w.extractLsb' 3 5) (v.extractLsb' 13 5) else none
  | _ => none

/-- Major 0x3B of the X-ISA, a group. -/
def decX3B (w v : Word) : Option Instr :=
  match w.extractLsb' 20 2 with
  | 0x0#2 => if w.extractLsb' 28 2 = 0#2 ∧ v.extractLsb' 30 2 = 0#2 ∧ w.extractLsb' 0 20 = 0#20 ∧ v.extractLsb' 0 18 = 0#18 then (semFOf (v.extractLsb' 23 5)).bind fun sw => (semFOf (v.extractLsb' 18 5)).map fun ss => .mxfence (Ring.two w v) sw ss else none
  | 0x1#2 => if w.extractLsb' 28 2 = 0#2 ∧ v.extractLsb' 30 2 = 0#2 ∧ w.extractLsb' 8 1 = 0#1 ∧ v.extractLsb' 0 18 = 0#18 then (semFOf (v.extractLsb' 23 5)).bind fun sw => (semFOf (v.extractLsb' 18 5)).map fun ss => .mxclrp (Ring.two w v) sw ss (w.extractLsb' 15 5) (w.extractLsb' 10 5) (w.getLsbD 9) (w.extractLsb' 0 8) else none
  | _ => none

/-- Major 0x3C of the X-ISA, a group. -/
def decX3C (w v : Word) : Option Instr :=
  match w.extractLsb' 20 2 with
  | 0x0#2 => if w.extractLsb' 0 16 = 0#16 then some (.gbld (Ring.one w) (w.extractLsb' 16 4)) else none
  | 0x1#2 => if w.extractLsb' 0 4 = 0#4 then some (.gbth (Ring.one w) (w.extractLsb' 16 4) (w.extractLsb' 12 4) (w.extractLsb' 8 4) (w.extractLsb' 4 4)) else none
  | _ => none

/-- Major 0x3D of the X-ISA, a group. -/
def decX3D (w v : Word) : Option Instr :=
  match w.extractLsb' 20 2 with
  | 0x0#2 => if w.extractLsb' 28 2 = 0#2 ∧ v.extractLsb' 30 2 = 0#2 ∧ w.extractLsb' 1 1 = 0#1 ∧ v.extractLsb' 0 4 = 0#4 then some (.gbpred (Ring.two w v) (w.extractLsb' 14 6) (w.extractLsb' 8 6) (w.extractLsb' 2 6) (w.getLsbD 0) (v.extractLsb' 12 16) (v.extractLsb' 8 4) (v.extractLsb' 4 4)) else none
  | 0x1#2 => if w.extractLsb' 28 2 = 0#2 ∧ v.extractLsb' 30 2 = 0#2 ∧ v.extractLsb' 0 12 = 0#12 then (ElemT.ofBits (w.extractLsb' 4 4)).map fun ht => .gbchk (Ring.two w v) (w.extractLsb' 14 6) (w.extractLsb' 8 6) ht (w.extractLsb' 0 4) (v.extractLsb' 12 16) else none
  | _ => none

/-- An instruction of the X-ISA from its word 1 and the word after it, before the checks of `Instr.wf`
(R118, R119). A reserved major, function code or element code, or a non-zero bit in a field that must be zero, is none. -/
def rawX (w v : Word) : Option Instr :=
  match w.extractLsb' 22 6 with
  | 0x00#6 => decX00 w v
  | 0x01#6 => decX01 w v
  | 0x02#6 => decX02 w v
  | 0x03#6 => decX03 w v
  | 0x04#6 => decX04 w v
  | 0x05#6 => decX05 w v
  | 0x06#6 => decX06 w v
  | 0x07#6 => decX07 w v
  | 0x08#6 => decX08 w v
  | 0x09#6 => decX09 w v
  | 0x0a#6 => decX0A w v
  | 0x0b#6 => decX0B w v
  | 0x0c#6 => decX0C w v
  | 0x0d#6 => decX0D w v
  | 0x0e#6 => decX0E w v
  | 0x0f#6 => decX0F w v
  | 0x10#6 => decX10 w v
  | 0x11#6 => decX11 w v
  | 0x12#6 => decX12 w v
  | 0x13#6 => decX13 w v
  | 0x14#6 => decX14 w v
  | 0x15#6 => decX15 w v
  | 0x16#6 => decX16 w v
  | 0x17#6 => decX17 w v
  | 0x18#6 => decX18 w v
  | 0x19#6 => decX19 w v
  | 0x1a#6 => decX1A w v
  | 0x1b#6 => decX1B w v
  | 0x1c#6 => decX1C w v
  | 0x1d#6 => decX1D w v
  | 0x1e#6 => decX1E w v
  | 0x1f#6 => decX1F w v
  | 0x20#6 => decX20 w v
  | 0x21#6 => decX21 w v
  | 0x22#6 => decX22 w v
  | 0x23#6 => decX23 w v
  | 0x24#6 => decX24 w v
  | 0x25#6 => decX25 w v
  | 0x26#6 => decX26 w v
  | 0x28#6 => decX28 w v
  | 0x29#6 => decX29 w v
  | 0x2a#6 => decX2A w v
  | 0x2b#6 => decX2B w v
  | 0x2c#6 => decX2C w v
  | 0x2d#6 => decX2D w v
  | 0x2e#6 => decX2E w v
  | 0x2f#6 => decX2F w v
  | 0x30#6 => decA30 w v
  | 0x31#6 => decA31 w v
  | 0x32#6 => decA32 w v
  | 0x33#6 => decA33 w v
  | 0x34#6 => decX34 w v
  | 0x35#6 => decX35 w v
  | 0x36#6 => decX36 w v
  | 0x37#6 => decX37 w v
  | 0x38#6 => decX38 w v
  | 0x39#6 => decX39 w v
  | 0x3a#6 => decX3A w v
  | 0x3b#6 => decX3B w v
  | 0x3c#6 => decX3C w v
  | 0x3d#6 => decX3D w v
  | _ => none

/-- A field placed in a word with its bit 0 at bit `lo` (R110, R117). -/
def fld {n : Nat} (x : BitVec n) (lo : Nat) : Word := x.setWidth 32 <<< lo

/-- The wait bits of word 1 (R104). -/
def Ring.waits (r : Ring) : Word := fld (BitVec.ofBool r.wp) 31 ||| fld (BitVec.ofBool r.wn) 30

/-- The signal bits of the only word, or of word 2 (R104, R105). -/
def Ring.sigs (r : Ring) : Word := fld (BitVec.ofBool r.sp) 29 ||| fld (BitVec.ofBool r.sn) 28

/-- The words of an instruction; a device step has none. -/
def encode : Instr → List Word
  | .add r rd rs1 rs2 => [r.waits ||| r.sigs ||| fld 0x00#6 22 ||| fld rd 17 ||| fld rs1 12 ||| fld rs2 7]
  | .sub r rd rs1 rs2 =>
    [r.waits ||| r.sigs ||| fld 0x00#6 22 ||| fld rd 17 ||| fld rs1 12 ||| fld rs2 7 ||| fld 0x1#7 0]
  | .mul r rd rs1 rs2 =>
    [r.waits ||| r.sigs ||| fld 0x00#6 22 ||| fld rd 17 ||| fld rs1 12 ||| fld rs2 7 ||| fld 0x2#7 0]
  | .mulh r rd rs1 rs2 =>
    [r.waits ||| r.sigs ||| fld 0x00#6 22 ||| fld rd 17 ||| fld rs1 12 ||| fld rs2 7 ||| fld 0x3#7 0]
  | .mulhu r rd rs1 rs2 =>
    [r.waits ||| r.sigs ||| fld 0x00#6 22 ||| fld rd 17 ||| fld rs1 12 ||| fld rs2 7 ||| fld 0x4#7 0]
  | .div r rd rs1 rs2 =>
    [r.waits ||| r.sigs ||| fld 0x00#6 22 ||| fld rd 17 ||| fld rs1 12 ||| fld rs2 7 ||| fld 0x5#7 0]
  | .divu r rd rs1 rs2 =>
    [r.waits ||| r.sigs ||| fld 0x00#6 22 ||| fld rd 17 ||| fld rs1 12 ||| fld rs2 7 ||| fld 0x6#7 0]
  | .rem r rd rs1 rs2 =>
    [r.waits ||| r.sigs ||| fld 0x00#6 22 ||| fld rd 17 ||| fld rs1 12 ||| fld rs2 7 ||| fld 0x7#7 0]
  | .remu r rd rs1 rs2 =>
    [r.waits ||| r.sigs ||| fld 0x00#6 22 ||| fld rd 17 ||| fld rs1 12 ||| fld rs2 7 ||| fld 0x8#7 0]
  | .min r rd rs1 rs2 =>
    [r.waits ||| r.sigs ||| fld 0x00#6 22 ||| fld rd 17 ||| fld rs1 12 ||| fld rs2 7 ||| fld 0x9#7 0]
  | .minu r rd rs1 rs2 =>
    [r.waits ||| r.sigs ||| fld 0x00#6 22 ||| fld rd 17 ||| fld rs1 12 ||| fld rs2 7 ||| fld 0xa#7 0]
  | .max r rd rs1 rs2 =>
    [r.waits ||| r.sigs ||| fld 0x00#6 22 ||| fld rd 17 ||| fld rs1 12 ||| fld rs2 7 ||| fld 0xb#7 0]
  | .maxu r rd rs1 rs2 =>
    [r.waits ||| r.sigs ||| fld 0x00#6 22 ||| fld rd 17 ||| fld rs1 12 ||| fld rs2 7 ||| fld 0xc#7 0]
  | .shl r rd rs1 rs2 =>
    [r.waits ||| r.sigs ||| fld 0x00#6 22 ||| fld rd 17 ||| fld rs1 12 ||| fld rs2 7 ||| fld 0xd#7 0]
  | .shr r rd rs1 rs2 =>
    [r.waits ||| r.sigs ||| fld 0x00#6 22 ||| fld rd 17 ||| fld rs1 12 ||| fld rs2 7 ||| fld 0xe#7 0]
  | .sar r rd rs1 rs2 =>
    [r.waits ||| r.sigs ||| fld 0x00#6 22 ||| fld rd 17 ||| fld rs1 12 ||| fld rs2 7 ||| fld 0xf#7 0]
  | .and r rd rs1 rs2 =>
    [r.waits ||| r.sigs ||| fld 0x00#6 22 ||| fld rd 17 ||| fld rs1 12 ||| fld rs2 7 ||| fld 0x10#7 0]
  | .or r rd rs1 rs2 =>
    [r.waits ||| r.sigs ||| fld 0x00#6 22 ||| fld rd 17 ||| fld rs1 12 ||| fld rs2 7 ||| fld 0x11#7 0]
  | .xor r rd rs1 rs2 =>
    [r.waits ||| r.sigs ||| fld 0x00#6 22 ||| fld rd 17 ||| fld rs1 12 ||| fld rs2 7 ||| fld 0x12#7 0]
  | .clz r rd rs1 => [r.waits ||| r.sigs ||| fld 0x00#6 22 ||| fld rd 17 ||| fld rs1 12 ||| fld 0x13#7 0]
  | .popc r rd rs1 => [r.waits ||| r.sigs ||| fld 0x00#6 22 ||| fld rd 17 ||| fld rs1 12 ||| fld 0x14#7 0]
  | .addi r rd rs1 imm => [r.waits ||| r.sigs ||| fld 0x01#6 22 ||| fld rd 17 ||| fld rs1 12 ||| fld imm 0]
  | .andi r rd rs1 imm => [r.waits ||| r.sigs ||| fld 0x02#6 22 ||| fld rd 17 ||| fld rs1 12 ||| fld imm 0]
  | .ori r rd rs1 imm => [r.waits ||| r.sigs ||| fld 0x03#6 22 ||| fld rd 17 ||| fld rs1 12 ||| fld imm 0]
  | .xori r rd rs1 imm => [r.waits ||| r.sigs ||| fld 0x04#6 22 ||| fld rd 17 ||| fld rs1 12 ||| fld imm 0]
  | .shli r rd rs1 sh => [r.waits ||| r.sigs ||| fld 0x05#6 22 ||| fld rd 17 ||| fld rs1 12 ||| fld sh 0]
  | .shri r rd rs1 sh => [r.waits ||| r.sigs ||| fld 0x06#6 22 ||| fld rd 17 ||| fld rs1 12 ||| fld sh 0]
  | .sari r rd rs1 sh => [r.waits ||| r.sigs ||| fld 0x07#6 22 ||| fld rd 17 ||| fld rs1 12 ||| fld sh 0]
  | .li r rd imm => [r.waits ||| r.sigs ||| fld 0x08#6 22 ||| fld rd 17 ||| fld imm 0]
  | .lui r rd imm => [r.waits ||| r.sigs ||| fld 0x09#6 22 ||| fld rd 17 ||| fld imm 0]
  | .cmp r qd rs1 rs2 cond =>
    [r.waits ||| r.sigs ||| fld 0x0a#6 22 ||| fld qd 15 ||| fld rs1 10 ||| fld rs2 5 ||| fld cond.toBits 1]
  | .cmpi r qd rs1 cond imm =>
    [r.waits ||| r.sigs ||| fld 0x0b#6 22 ||| fld qd 15 ||| fld rs1 10 ||| fld cond.toBits 6 ||| fld imm 0]
  | .pand r qd qa qb => [r.waits ||| r.sigs ||| fld 0x0c#6 22 ||| fld qd 17 ||| fld qa 12 ||| fld qb 7]
  | .por r qd qa qb => [r.waits ||| r.sigs ||| fld 0x0c#6 22 ||| fld qd 17 ||| fld qa 12 ||| fld qb 7 ||| fld 0x1#7 0]
  | .pxor r qd qa qb =>
    [r.waits ||| r.sigs ||| fld 0x0c#6 22 ||| fld qd 17 ||| fld qa 12 ||| fld qb 7 ||| fld 0x2#7 0]
  | .pnot r qd qa => [r.waits ||| r.sigs ||| fld 0x0c#6 22 ||| fld qd 17 ||| fld qa 12 ||| fld 0x3#7 0]
  | .sel r rd rs1 rs2 q => [r.waits ||| fld 0x0d#6 22 ||| fld rd 17 ||| fld rs1 12 ||| fld rs2 7 ||| fld q 0,
      r.sigs]
  | .csrr r rd csr => [r.waits ||| r.sigs ||| fld 0x0e#6 22 ||| fld rd 17 ||| fld csr 0]
  | .csrw r rs csr => [r.waits ||| r.sigs ||| fld 0x0f#6 22 ||| fld rs 12 ||| fld csr 0]
  | .b r q n off => [r.waits ||| r.sigs ||| fld 0x10#6 22 ||| fld q 15 ||| fld (BitVec.ofBool n) 14 ||| fld off 0]
  | .j r target => [r.waits ||| r.sigs ||| fld 0x11#6 22 ||| fld target 0]
  | .jal r rd target => [r.waits ||| r.sigs ||| fld 0x12#6 22 ||| fld rd 17 ||| fld target 0]
  | .jr r rs => [r.waits ||| r.sigs ||| fld 0x13#6 22 ||| fld rs 12]
  | .guard r q n cnt =>
    [r.waits ||| r.sigs ||| fld 0x14#6 22 ||| fld q 15 ||| fld (BitVec.ofBool n) 14 ||| fld cnt 11]
  | .loop r l rs tgt => [r.waits ||| r.sigs ||| fld 0x15#6 22 ||| fld l 20 ||| fld rs 15 ||| fld tgt 0]
  | .loopsp r rec => [r.waits ||| r.sigs ||| fld 0x16#6 22 ||| fld rec 0]
  | .safe r => [r.waits ||| r.sigs ||| fld 0x17#6 22]
  | .rdv r => [r.waits ||| r.sigs ||| fld 0x17#6 22 ||| fld 0x1#7 0]
  | .spawn r rs1 rs2 => [r.waits ||| r.sigs ||| fld 0x17#6 22 ||| fld rs1 12 ||| fld rs2 7 ||| fld 0x2#7 0]
  | .trap r rs => [r.waits ||| r.sigs ||| fld 0x17#6 22 ||| fld rs 12 ||| fld 0x3#7 0]
  | .hret r => [r.waits ||| r.sigs ||| fld 0x17#6 22 ||| fld 0x4#7 0]
  | .ld r rd rb sz pi sx off =>
    [r.waits ||| r.sigs ||| fld 0x18#6 22 ||| fld rd 17 ||| fld rb 12 ||| fld sz.toBits 10 ||| fld (BitVec.ofBool pi) 9 ||| fld (BitVec.ofBool sx) 8 ||| fld off 0]
  | .st r rs rb sz pi off =>
    [r.waits ||| r.sigs ||| fld 0x19#6 22 ||| fld rs 17 ||| fld rb 12 ||| fld sz.toBits 10 ||| fld (BitVec.ofBool pi) 9 ||| fld off 0]
  | .ldp r rd rb sz pi off =>
    [r.waits ||| r.sigs ||| fld 0x1a#6 22 ||| fld rd 17 ||| fld rb 12 ||| fld sz.toBits 10 ||| fld (BitVec.ofBool pi) 9 ||| fld off 0]
  | .ldpF r rd rb sz off =>
    [r.waits ||| r.sigs ||| fld 0x1a#6 22 ||| fld rd 17 ||| fld rb 12 ||| fld sz.toBits 10 ||| fld 0x1#1 8 ||| fld off 0]
  | .stp r rs rb sz pi off =>
    [r.waits ||| r.sigs ||| fld 0x1b#6 22 ||| fld rs 17 ||| fld rb 12 ||| fld sz.toBits 10 ||| fld (BitVec.ofBool pi) 9 ||| fld off 0]
  | .stpE r rs rb sz off =>
    [r.waits ||| r.sigs ||| fld 0x1b#6 22 ||| fld rs 17 ||| fld rb 12 ||| fld sz.toBits 10 ||| fld 0x1#1 8 ||| fld off 0]
  | .lda r rd rb ord sc d8 =>
    [r.waits ||| r.sigs ||| fld 0x1c#6 22 ||| fld rd 17 ||| fld rb 12 ||| fld ord.toBits 5 ||| fld sc.toBits 2 ||| fld (BitVec.ofBool d8) 1]
  | .stl r rb rs ord sc d8 =>
    [r.waits ||| r.sigs ||| fld 0x1d#6 22 ||| fld rb 12 ||| fld rs 7 ||| fld ord.toBits 5 ||| fld sc.toBits 2 ||| fld (BitVec.ofBool d8) 1]
  | .amoAdd r rd rb rs ord sc d8 =>
    [r.waits ||| fld 0x1e#6 22 ||| fld rd 17 ||| fld rb 12 ||| fld rs 7 ||| fld ord.toBits 5 ||| fld sc.toBits 2 ||| fld (BitVec.ofBool d8) 1,
      r.sigs]
  | .amoAnd r rd rb rs ord sc d8 =>
    [r.waits ||| fld 0x1e#6 22 ||| fld rd 17 ||| fld rb 12 ||| fld rs 7 ||| fld ord.toBits 5 ||| fld sc.toBits 2 ||| fld (BitVec.ofBool d8) 1,
      r.sigs ||| fld 0x1#4 24]
  | .amoOr r rd rb rs ord sc d8 =>
    [r.waits ||| fld 0x1e#6 22 ||| fld rd 17 ||| fld rb 12 ||| fld rs 7 ||| fld ord.toBits 5 ||| fld sc.toBits 2 ||| fld (BitVec.ofBool d8) 1,
      r.sigs ||| fld 0x2#4 24]
  | .amoXor r rd rb rs ord sc d8 =>
    [r.waits ||| fld 0x1e#6 22 ||| fld rd 17 ||| fld rb 12 ||| fld rs 7 ||| fld ord.toBits 5 ||| fld sc.toBits 2 ||| fld (BitVec.ofBool d8) 1,
      r.sigs ||| fld 0x3#4 24]
  | .amoMin r rd rb rs ord sc d8 =>
    [r.waits ||| fld 0x1e#6 22 ||| fld rd 17 ||| fld rb 12 ||| fld rs 7 ||| fld ord.toBits 5 ||| fld sc.toBits 2 ||| fld (BitVec.ofBool d8) 1,
      r.sigs ||| fld 0x4#4 24]
  | .amoMax r rd rb rs ord sc d8 =>
    [r.waits ||| fld 0x1e#6 22 ||| fld rd 17 ||| fld rb 12 ||| fld rs 7 ||| fld ord.toBits 5 ||| fld sc.toBits 2 ||| fld (BitVec.ofBool d8) 1,
      r.sigs ||| fld 0x5#4 24]
  | .amoMinU r rd rb rs ord sc d8 =>
    [r.waits ||| fld 0x1e#6 22 ||| fld rd 17 ||| fld rb 12 ||| fld rs 7 ||| fld ord.toBits 5 ||| fld sc.toBits 2 ||| fld (BitVec.ofBool d8) 1,
      r.sigs ||| fld 0x6#4 24]
  | .amoMaxU r rd rb rs ord sc d8 =>
    [r.waits ||| fld 0x1e#6 22 ||| fld rd 17 ||| fld rb 12 ||| fld rs 7 ||| fld ord.toBits 5 ||| fld sc.toBits 2 ||| fld (BitVec.ofBool d8) 1,
      r.sigs ||| fld 0x7#4 24]
  | .amoSwap r rd rb rs ord sc d8 =>
    [r.waits ||| fld 0x1e#6 22 ||| fld rd 17 ||| fld rb 12 ||| fld rs 7 ||| fld ord.toBits 5 ||| fld sc.toBits 2 ||| fld (BitVec.ofBool d8) 1,
      r.sigs ||| fld 0x8#4 24]
  | .cas r rd rb rs ord sc d8 =>
    [r.waits ||| r.sigs ||| fld 0x1f#6 22 ||| fld rd 17 ||| fld rb 12 ||| fld rs 7 ||| fld ord.toBits 5 ||| fld sc.toBits 2 ||| fld (BitVec.ofBool d8) 1]
  | .fence r ord sc => [r.waits ||| r.sigs ||| fld 0x20#6 22 ||| fld ord.toBits 5 ||| fld sc.toBits 2]
  | .phase r sc => [r.waits ||| r.sigs ||| fld 0x21#6 22 ||| fld sc.toBits 2]
  | .tkw r succ cnt => [r.waits ||| r.sigs ||| fld 0x34#6 22 ||| fld (BitVec.ofBool succ) 17 ||| fld cnt 7]
  | .tks r succ cnt =>
    [r.waits ||| r.sigs ||| fld 0x34#6 22 ||| fld (BitVec.ofBool succ) 17 ||| fld cnt 7 ||| fld 0x1#7 0]
  | .stw r rd => [r.waits ||| r.sigs ||| fld 0x34#6 22 ||| fld rd 17 ||| fld 0x2#7 0]
  | .poprpl r rd any tag =>
    [r.waits ||| r.sigs ||| fld 0x35#6 22 ||| fld rd 17 ||| fld (BitVec.ofBool any) 16 ||| fld tag 0]
  | .sqpush r rs cnt => [r.waits ||| r.sigs ||| fld 0x36#6 22 ||| fld rs 12 ||| fld cnt 7]
  | .sqbind r ub port =>
    [r.waits ||| r.sigs ||| fld 0x36#6 22 ||| fld (BitVec.ofBool ub) 17 ||| fld port 12 ||| fld 0x1#7 0]
  | .msend r rt ro lines he queue hpc => [r.waits ||| fld 0x37#6 22 ||| fld rt 12 ||| fld ro 7 ||| fld lines 0,
      r.sigs ||| fld (BitVec.ofBool he) 27 ||| fld queue 24 ||| fld hpc 10]
  | .sopen r port rs1 rs2 src dst mfmt rm sm qn =>
    [r.waits ||| fld 0x24#6 22 ||| fld port 17 ||| fld rs1 12 ||| fld rs2 7,
      r.sigs ||| fld src.toBits 24 ||| fld dst.toBits 20 ||| fld mfmt 12 ||| fld rm.toBits 9 ||| fld (BitVec.ofBool sm) 8 ||| fld qn 5]
  | .slev r port rs1 rs2 level imm ext =>
    [r.waits ||| fld 0x25#6 22 ||| fld port 17 ||| fld rs1 12 ||| fld rs2 7 ||| fld level 0,
      r.sigs ||| fld (BitVec.ofBool imm) 27 ||| fld ext 0]
  | .sind r port iport rs2 => [r.waits ||| r.sigs ||| fld 0x26#6 22 ||| fld port 17 ||| fld iport 12 ||| fld rs2 7]
  | .ssrc r port rs1 => [r.waits ||| r.sigs ||| fld 0x27#6 22 ||| fld port 17 ||| fld rs1 12]
  | .sremote r port rs1 rs2 he queue hpc mc ch =>
    [r.waits ||| fld 0x28#6 22 ||| fld port 17 ||| fld rs1 12 ||| fld rs2 7,
      r.sigs ||| fld (BitVec.ofBool he) 27 ||| fld queue 24 ||| fld hpc 10 ||| fld (BitVec.ofBool mc) 9 ||| fld ch 6]
  | .smerge r ok ka kb oa uni strict ob eoa eob eok tag =>
    [r.waits ||| fld 0x29#6 22 ||| fld ok 17 ||| fld ka 12 ||| fld kb 7 ||| fld oa 2 ||| fld (BitVec.ofBool uni) 1 ||| fld (BitVec.ofBool strict) 0,
      r.sigs ||| fld ob 23 ||| fld (BitVec.ofBool eoa) 22 ||| fld (BitVec.ofBool eob) 21 ||| fld (BitVec.ofBool eok) 20 ||| fld tag 4]
  | .sbfmt r rs code => [r.waits ||| r.sigs ||| fld 0x2a#6 22 ||| fld rs 12 ||| fld code 0]
  | .sgo r port => [r.waits ||| r.sigs ||| fld 0x2b#6 22 ||| fld port 17]
  | .sfork r port fork dst =>
    [r.waits ||| r.sigs ||| fld 0x2b#6 22 ||| fld port 17 ||| fld fork 12 ||| fld dst.toBits 7 ||| fld 0x1#7 0]
  | .smark r port clr auto m =>
    [r.waits ||| r.sigs ||| fld 0x2b#6 22 ||| fld port 17 ||| fld (BitVec.ofBool clr) 10 ||| fld (BitVec.ofBool auto) 9 ||| fld m 7 ||| fld 0x2#7 0]
  | .srew r port m => [r.waits ||| r.sigs ||| fld 0x2b#6 22 ||| fld port 17 ||| fld m 7 ||| fld 0x3#7 0]
  | .ssave r port rs keep =>
    [r.waits ||| r.sigs ||| fld 0x2b#6 22 ||| fld port 17 ||| fld rs 12 ||| fld (BitVec.ofBool keep) 7 ||| fld 0x4#7 0]
  | .srest r port rs => [r.waits ||| r.sigs ||| fld 0x2b#6 22 ||| fld port 17 ||| fld rs 12 ||| fld 0x5#7 0]
  | .sclose r port => [r.waits ||| r.sigs ||| fld 0x2b#6 22 ||| fld port 17 ||| fld 0x6#7 0]
  | .sstat r port rd => [r.waits ||| r.sigs ||| fld 0x2b#6 22 ||| fld port 17 ||| fld rd 12 ||| fld 0x7#7 0]
  | .sflush r port => [r.waits ||| r.sigs ||| fld 0x2b#6 22 ||| fld port 17 ||| fld 0x8#7 0]
  | .gtbind r h rs1 => [r.waits ||| r.sigs ||| fld 0x2c#6 22 ||| fld h 17 ||| fld rs1 12]
  | .gtswap r h rs1 rs2 =>
    [r.waits ||| r.sigs ||| fld 0x2c#6 22 ||| fld h 17 ||| fld rs1 12 ||| fld rs2 7 ||| fld 0x1#7 0]
  | .gsync r h rs2 => [r.waits ||| r.sigs ||| fld 0x2c#6 22 ||| fld h 17 ||| fld rs2 7 ||| fld 0x2#7 0]
  | .gath r ri rn rf h dk port rp fz tag =>
    [r.waits ||| fld 0x2d#6 22 ||| fld ri 17 ||| fld rn 12 ||| fld rf 7 ||| fld h 2,
      r.sigs ||| fld (BitVec.ofBool dk) 27 ||| fld port 22 ||| fld rp 17 ||| fld (BitVec.ofBool fz) 16 ||| fld tag 0]
  | .gathp r ri rn rf h mean port rb fz tag =>
    [r.waits ||| fld 0x2e#6 22 ||| fld ri 17 ||| fld rn 12 ||| fld rf 7 ||| fld h 2,
      r.sigs ||| fld (BitVec.ofBool mean) 27 ||| fld port 22 ||| fld rb 17 ||| fld (BitVec.ofBool fz) 16 ||| fld tag 0]
  | .scat r ri rn rf h rs tag => [r.waits ||| fld 0x2f#6 22 ||| fld ri 17 ||| fld rn 12 ||| fld rf 7 ||| fld h 2,
      r.sigs ||| fld rs 17 ||| fld tag 0]
  | .scata r ri rn rf h rs tag => [r.waits ||| fld 0x2f#6 22 ||| fld ri 17 ||| fld rn 12 ||| fld rf 7 ||| fld h 2,
      r.sigs ||| fld 0x1#1 27 ||| fld rs 17 ||| fld tag 0]
  | .bara r ra num => [r.waits ||| r.sigs ||| fld 0x30#6 22 ||| fld ra 17 ||| fld num 12]
  | .barw r ra num rb =>
    [r.waits ||| r.sigs ||| fld 0x30#6 22 ||| fld ra 17 ||| fld num 12 ||| fld rb 7 ||| fld 0x1#7 0]
  | .barwa r ra base rb =>
    [r.waits ||| r.sigs ||| fld 0x30#6 22 ||| fld ra 17 ||| fld base 15 ||| fld rb 7 ||| fld 0x2#7 0]
  | .barinit r ra num => [r.waits ||| r.sigs ||| fld 0x31#6 22 ||| fld ra 17 ||| fld num 12]
  | .barinitFree r num => [r.waits ||| r.sigs ||| fld 0x31#6 22 ||| fld num 12 ||| fld 0x1#5 7]
  | .sems r ra v => [r.waits ||| r.sigs ||| fld 0x32#6 22 ||| fld ra 17 ||| fld v 12]
  | .semw r ra v => [r.waits ||| r.sigs ||| fld 0x32#6 22 ||| fld ra 17 ||| fld v 12 ||| fld 0x1#7 0]
  | .semwt r ra v rb => [r.waits ||| r.sigs ||| fld 0x33#6 22 ||| fld ra 17 ||| fld v 12 ||| fld rb 7]
  | .asidset rd rs1 rs2 => [fld 0x38#6 22 ||| fld rd 17 ||| fld rs1 12 ||| fld rs2 7]
  | .ptbase rd rs1 rs2 => [fld 0x38#6 22 ||| fld rd 17 ||| fld rs1 12 ||| fld rs2 7 ||| fld 0x1#7 0]
  | .tlbinv rd rs1 rs2 => [fld 0x38#6 22 ||| fld rd 17 ||| fld rs1 12 ||| fld rs2 7 ||| fld 0x2#7 0]
  | .killctx rd rs1 => [fld 0x38#6 22 ||| fld rd 17 ||| fld rs1 12 ||| fld 0x3#7 0]
  | .preempt rd rs1 => [fld 0x39#6 22 ||| fld rd 17 ||| fld rs1 12]
  | .ctxsave rd rs1 rs2 => [fld 0x39#6 22 ||| fld rd 17 ||| fld rs1 12 ||| fld rs2 7 ||| fld 0x1#7 0]
  | .ctxload rd rs1 rs2 => [fld 0x39#6 22 ||| fld rd 17 ||| fld rs1 12 ||| fld rs2 7 ||| fld 0x2#7 0]
  | .drain rd rs1 rs2 => [fld 0x39#6 22 ||| fld rd 17 ||| fld rs1 12 ||| fld rs2 7 ||| fld 0x3#7 0]
  | .semmap rd rs1 rs2 => [fld 0x3a#6 22 ||| fld rd 17 ||| fld rs1 12 ||| fld rs2 7]
  | .lqpush rd rs1 => [fld 0x3a#6 22 ||| fld rd 17 ||| fld rs1 12 ||| fld 0x1#7 0]
  | .wake rd rs1 rs2 => [fld 0x3a#6 22 ||| fld rd 17 ||| fld rs1 12 ||| fld rs2 7 ||| fld 0x2#7 0]
  | .timerd rd rs1 => [fld 0x3b#6 22 ||| fld rd 17 ||| fld rs1 12]
  | .adjourn rd rs1 => [fld 0x3b#6 22 ||| fld rd 17 ||| fld rs1 12 ||| fld 0x1#7 0]
  | .score rd rs1 rs2 => [fld 0x3b#6 22 ||| fld rd 17 ||| fld rs1 12 ||| fld rs2 7 ||| fld 0x2#7 0]
  | .monsnap rd rs1 rs2 => [fld 0x3b#6 22 ||| fld rd 17 ||| fld rs1 12 ||| fld rs2 7 ||| fld 0x3#7 0]
  | .vadd r d a b t => [r.waits ||| r.sigs ||| fld 0x00#6 22 ||| fld d 16 ||| fld a 10 ||| fld b 4 ||| fld t.toBits 0]
  | .vsub r d a b t => [r.waits ||| r.sigs ||| fld 0x01#6 22 ||| fld d 16 ||| fld a 10 ||| fld b 4 ||| fld t.toBits 0]
  | .vmul r d a b t => [r.waits ||| r.sigs ||| fld 0x02#6 22 ||| fld d 16 ||| fld a 10 ||| fld b 4 ||| fld t.toBits 0]
  | .vmin r d a b t => [r.waits ||| r.sigs ||| fld 0x03#6 22 ||| fld d 16 ||| fld a 10 ||| fld b 4 ||| fld t.toBits 0]
  | .vmax r d a b t => [r.waits ||| r.sigs ||| fld 0x04#6 22 ||| fld d 16 ||| fld a 10 ||| fld b 4 ||| fld t.toBits 0]
  | .vabd r d a b t => [r.waits ||| r.sigs ||| fld 0x05#6 22 ||| fld d 16 ||| fld a 10 ||| fld b 4 ||| fld t.toBits 0]
  | .vadds r d a b t =>
    [r.waits ||| r.sigs ||| fld 0x06#6 22 ||| fld d 16 ||| fld a 10 ||| fld b 4 ||| fld t.toBits 0]
  | .vsubs r d a b t =>
    [r.waits ||| r.sigs ||| fld 0x07#6 22 ||| fld d 16 ||| fld a 10 ||| fld b 4 ||| fld t.toBits 0]
  | .vmulh r d a b t =>
    [r.waits ||| r.sigs ||| fld 0x08#6 22 ||| fld d 16 ||| fld a 10 ||| fld b 4 ||| fld t.toBits 0]
  | .vdiv r d a b t => [r.waits ||| r.sigs ||| fld 0x09#6 22 ||| fld d 16 ||| fld a 10 ||| fld b 4 ||| fld t.toBits 0]
  | .vand r d a b t => [r.waits ||| r.sigs ||| fld 0x0a#6 22 ||| fld d 16 ||| fld a 10 ||| fld b 4 ||| fld t.toBits 0]
  | .vor r d a b t => [r.waits ||| r.sigs ||| fld 0x0b#6 22 ||| fld d 16 ||| fld a 10 ||| fld b 4 ||| fld t.toBits 0]
  | .vxor r d a b t => [r.waits ||| r.sigs ||| fld 0x0c#6 22 ||| fld d 16 ||| fld a 10 ||| fld b 4 ||| fld t.toBits 0]
  | .vshl r d a b t => [r.waits ||| r.sigs ||| fld 0x0d#6 22 ||| fld d 16 ||| fld a 10 ||| fld b 4 ||| fld t.toBits 0]
  | .vshr r d a b t => [r.waits ||| r.sigs ||| fld 0x0e#6 22 ||| fld d 16 ||| fld a 10 ||| fld b 4 ||| fld t.toBits 0]
  | .vsar r d a b t => [r.waits ||| r.sigs ||| fld 0x0f#6 22 ||| fld d 16 ||| fld a 10 ||| fld b 4 ||| fld t.toBits 0]
  | .vfma r d a b t c mk rmo => [r.waits ||| fld 0x10#6 22 ||| fld d 16 ||| fld a 10 ||| fld b 4 ||| fld t.toBits 0,
      r.sigs ||| fld c 22 ||| fld (maskBits mk) 17 ||| fld (rmOvBits rmo) 8]
  | .vfms r d a b t c mk rmo => [r.waits ||| fld 0x11#6 22 ||| fld d 16 ||| fld a 10 ||| fld b 4 ||| fld t.toBits 0,
      r.sigs ||| fld c 22 ||| fld (maskBits mk) 17 ||| fld (rmOvBits rmo) 8]
  | .vabs r d a t => [r.waits ||| r.sigs ||| fld 0x12#6 22 ||| fld d 16 ||| fld a 10 ||| fld t.toBits 0]
  | .vneg r d a t =>
    [r.waits ||| r.sigs ||| fld 0x12#6 22 ||| fld d 16 ||| fld a 10 ||| fld 0x1#6 4 ||| fld t.toBits 0]
  | .vnot r d a t =>
    [r.waits ||| r.sigs ||| fld 0x12#6 22 ||| fld d 16 ||| fld a 10 ||| fld 0x2#6 4 ||| fld t.toBits 0]
  | .vsqrt r d a t =>
    [r.waits ||| r.sigs ||| fld 0x12#6 22 ||| fld d 16 ||| fld a 10 ||| fld 0x3#6 4 ||| fld t.toBits 0]
  | .vrcp r d a t =>
    [r.waits ||| r.sigs ||| fld 0x12#6 22 ||| fld d 16 ||| fld a 10 ||| fld 0x4#6 4 ||| fld t.toBits 0]
  | .vrsq r d a t =>
    [r.waits ||| r.sigs ||| fld 0x12#6 22 ||| fld d 16 ||| fld a 10 ||| fld 0x5#6 4 ||| fld t.toBits 0]
  | .vexp2 r d a t =>
    [r.waits ||| r.sigs ||| fld 0x12#6 22 ||| fld d 16 ||| fld a 10 ||| fld 0x6#6 4 ||| fld t.toBits 0]
  | .vlog2 r d a t =>
    [r.waits ||| r.sigs ||| fld 0x12#6 22 ||| fld d 16 ||| fld a 10 ||| fld 0x7#6 4 ||| fld t.toBits 0]
  | .vtanh r d a t =>
    [r.waits ||| r.sigs ||| fld 0x12#6 22 ||| fld d 16 ||| fld a 10 ||| fld 0x8#6 4 ||| fld t.toBits 0]
  | .vsigm r d a t =>
    [r.waits ||| r.sigs ||| fld 0x12#6 22 ||| fld d 16 ||| fld a 10 ||| fld 0x9#6 4 ||| fld t.toBits 0]
  | .vmov r d a t =>
    [r.waits ||| r.sigs ||| fld 0x12#6 22 ||| fld d 16 ||| fld a 10 ||| fld 0xa#6 4 ||| fld t.toBits 0]
  | .vcmp r a b t kd cond => [r.waits ||| fld 0x13#6 22 ||| fld a 10 ||| fld b 4 ||| fld t.toBits 0,
      r.sigs ||| fld kd 18 ||| fld cond.toBits 2]
  | .kand r kd ka kb => [r.waits ||| r.sigs ||| fld 0x14#6 22 ||| fld kd 18 ||| fld ka 15 ||| fld kb 12]
  | .kor r kd ka kb =>
    [r.waits ||| r.sigs ||| fld 0x14#6 22 ||| fld kd 18 ||| fld ka 15 ||| fld kb 12 ||| fld 0x1#6 0]
  | .kxor r kd ka kb =>
    [r.waits ||| r.sigs ||| fld 0x14#6 22 ||| fld kd 18 ||| fld ka 15 ||| fld kb 12 ||| fld 0x2#6 0]
  | .knot r kd ka => [r.waits ||| r.sigs ||| fld 0x14#6 22 ||| fld kd 18 ||| fld ka 15 ||| fld 0x3#6 0]
  | .kpop r xd ka => [r.waits ||| r.sigs ||| fld 0x14#6 22 ||| fld xd 18 ||| fld ka 15 ||| fld 0x4#6 0]
  | .kfirst r xd ka => [r.waits ||| r.sigs ||| fld 0x14#6 22 ||| fld xd 18 ||| fld ka 15 ||| fld 0x5#6 0]
  | .vsel r d a b t k => [r.waits ||| fld 0x15#6 22 ||| fld d 16 ||| fld a 10 ||| fld b 4 ||| fld t.toBits 0,
      r.sigs ||| fld 0x1#1 21 ||| fld k 18]
  | .vmovm r d a t k kz => [r.waits ||| fld 0x16#6 22 ||| fld d 16 ||| fld a 10 ||| fld t.toBits 0,
      r.sigs ||| fld 0x1#1 21 ||| fld k 18 ||| fld (BitVec.ofBool kz) 17]
  | .vcvt r d a t mk t2 rmo => [r.waits ||| fld 0x17#6 22 ||| fld d 16 ||| fld a 10 ||| fld t.toBits 0,
      r.sigs ||| fld (maskBits mk) 17 ||| fld t2.toBits 13 ||| fld (rmOvBits rmo) 8]
  | .vquant r d a t c t2 rmo => [r.waits ||| fld 0x18#6 22 ||| fld d 16 ||| fld a 10 ||| fld t.toBits 0,
      r.sigs ||| fld c 22 ||| fld t2.toBits 13 ||| fld (rmOvBits rmo) 8]
  | .vdeq r d a t c mk t2 rmo => [r.waits ||| fld 0x19#6 22 ||| fld d 16 ||| fld a 10 ||| fld t.toBits 0,
      r.sigs ||| fld c 22 ||| fld (maskBits mk) 17 ||| fld t2.toBits 13 ||| fld (rmOvBits rmo) 8]
  | .vrsumr r d a t => [r.waits ||| r.sigs ||| fld 0x1a#6 22 ||| fld d 16 ||| fld a 10 ||| fld t.toBits 0]
  | .vrsumc r d a t =>
    [r.waits ||| r.sigs ||| fld 0x1a#6 22 ||| fld d 16 ||| fld a 10 ||| fld 0x1#6 4 ||| fld t.toBits 0]
  | .vrmax r d a t =>
    [r.waits ||| r.sigs ||| fld 0x1a#6 22 ||| fld d 16 ||| fld a 10 ||| fld 0x2#6 4 ||| fld t.toBits 0]
  | .vrmin r d a t =>
    [r.waits ||| r.sigs ||| fld 0x1a#6 22 ||| fld d 16 ||| fld a 10 ||| fld 0x3#6 4 ||| fld t.toBits 0]
  | .vscanSum r d a t => [r.waits ||| r.sigs ||| fld 0x1b#6 22 ||| fld d 16 ||| fld a 10 ||| fld t.toBits 0]
  | .vscanMax r d a t =>
    [r.waits ||| r.sigs ||| fld 0x1b#6 22 ||| fld d 16 ||| fld a 10 ||| fld 0x1#6 4 ||| fld t.toBits 0]
  | .vscanMin r d a t =>
    [r.waits ||| r.sigs ||| fld 0x1b#6 22 ||| fld d 16 ||| fld a 10 ||| fld 0x2#6 4 ||| fld t.toBits 0]
  | .vsegsum r d a t k rmo => [r.waits ||| fld 0x1c#6 22 ||| fld d 16 ||| fld a 10 ||| fld t.toBits 0,
      r.sigs ||| fld 0x1#1 21 ||| fld k 18 ||| fld (rmOvBits rmo) 8]
  | .vtrn r d a t => [r.waits ||| r.sigs ||| fld 0x1d#6 22 ||| fld d 16 ||| fld a 10 ||| fld t.toBits 0]
  | .vbcr r d a xb t =>
    [r.waits ||| r.sigs ||| fld 0x1e#6 22 ||| fld d 16 ||| fld a 10 ||| fld xb 4 ||| fld t.toBits 0]
  | .vbcc r d a xb t =>
    [r.waits ||| r.sigs ||| fld 0x1f#6 22 ||| fld d 16 ||| fld a 10 ||| fld xb 4 ||| fld t.toBits 0]
  | .vrot r d a imm t =>
    [r.waits ||| r.sigs ||| fld 0x20#6 22 ||| fld d 16 ||| fld a 10 ||| fld imm 4 ||| fld t.toBits 0]
  | .vslide r d a imm t =>
    [r.waits ||| r.sigs ||| fld 0x21#6 22 ||| fld d 16 ||| fld a 10 ||| fld imm 4 ||| fld t.toBits 0]
  | .viota r d t => [r.waits ||| r.sigs ||| fld 0x22#6 22 ||| fld d 16 ||| fld t.toBits 0]
  | .vsplat r d xa t => [r.waits ||| r.sigs ||| fld 0x23#6 22 ||| fld d 16 ||| fld xa 10 ||| fld t.toBits 0]
  | .vext r xd a xb t =>
    [r.waits ||| r.sigs ||| fld 0x24#6 22 ||| fld xd 16 ||| fld a 10 ||| fld xb 4 ||| fld t.toBits 0]
  | .vins r d xa xb t =>
    [r.waits ||| r.sigs ||| fld 0x25#6 22 ||| fld d 16 ||| fld xa 10 ||| fld xb 4 ||| fld t.toBits 0]
  | .vshape r rowsM1 colsM1 => [r.waits ||| r.sigs ||| fld 0x26#6 22 ||| fld rowsM1 16 ||| fld colsM1 10]
  | .xadd r xd xa xb => [r.waits ||| r.sigs ||| fld 0x28#6 22 ||| fld xd 18 ||| fld xa 14 ||| fld xb 10]
  | .xsub r xd xa xb =>
    [r.waits ||| r.sigs ||| fld 0x28#6 22 ||| fld xd 18 ||| fld xa 14 ||| fld xb 10 ||| fld 0x1#6 0]
  | .xmul r xd xa xb =>
    [r.waits ||| r.sigs ||| fld 0x28#6 22 ||| fld xd 18 ||| fld xa 14 ||| fld xb 10 ||| fld 0x2#6 0]
  | .xmulh r xd xa xb =>
    [r.waits ||| r.sigs ||| fld 0x28#6 22 ||| fld xd 18 ||| fld xa 14 ||| fld xb 10 ||| fld 0x3#6 0]
  | .xmulhu r xd xa xb =>
    [r.waits ||| r.sigs ||| fld 0x28#6 22 ||| fld xd 18 ||| fld xa 14 ||| fld xb 10 ||| fld 0x4#6 0]
  | .xdiv r xd xa xb =>
    [r.waits ||| r.sigs ||| fld 0x28#6 22 ||| fld xd 18 ||| fld xa 14 ||| fld xb 10 ||| fld 0x5#6 0]
  | .xdivu r xd xa xb =>
    [r.waits ||| r.sigs ||| fld 0x28#6 22 ||| fld xd 18 ||| fld xa 14 ||| fld xb 10 ||| fld 0x6#6 0]
  | .xrem r xd xa xb =>
    [r.waits ||| r.sigs ||| fld 0x28#6 22 ||| fld xd 18 ||| fld xa 14 ||| fld xb 10 ||| fld 0x7#6 0]
  | .xremu r xd xa xb =>
    [r.waits ||| r.sigs ||| fld 0x28#6 22 ||| fld xd 18 ||| fld xa 14 ||| fld xb 10 ||| fld 0x8#6 0]
  | .xmin r xd xa xb =>
    [r.waits ||| r.sigs ||| fld 0x28#6 22 ||| fld xd 18 ||| fld xa 14 ||| fld xb 10 ||| fld 0x9#6 0]
  | .xminu r xd xa xb =>
    [r.waits ||| r.sigs ||| fld 0x28#6 22 ||| fld xd 18 ||| fld xa 14 ||| fld xb 10 ||| fld 0xa#6 0]
  | .xmax r xd xa xb =>
    [r.waits ||| r.sigs ||| fld 0x28#6 22 ||| fld xd 18 ||| fld xa 14 ||| fld xb 10 ||| fld 0xb#6 0]
  | .xmaxu r xd xa xb =>
    [r.waits ||| r.sigs ||| fld 0x28#6 22 ||| fld xd 18 ||| fld xa 14 ||| fld xb 10 ||| fld 0xc#6 0]
  | .xshl r xd xa xb =>
    [r.waits ||| r.sigs ||| fld 0x28#6 22 ||| fld xd 18 ||| fld xa 14 ||| fld xb 10 ||| fld 0xd#6 0]
  | .xshr r xd xa xb =>
    [r.waits ||| r.sigs ||| fld 0x28#6 22 ||| fld xd 18 ||| fld xa 14 ||| fld xb 10 ||| fld 0xe#6 0]
  | .xsar r xd xa xb =>
    [r.waits ||| r.sigs ||| fld 0x28#6 22 ||| fld xd 18 ||| fld xa 14 ||| fld xb 10 ||| fld 0xf#6 0]
  | .xand r xd xa xb =>
    [r.waits ||| r.sigs ||| fld 0x28#6 22 ||| fld xd 18 ||| fld xa 14 ||| fld xb 10 ||| fld 0x10#6 0]
  | .xorX r xd xa xb =>
    [r.waits ||| r.sigs ||| fld 0x28#6 22 ||| fld xd 18 ||| fld xa 14 ||| fld xb 10 ||| fld 0x11#6 0]
  | .xxor r xd xa xb =>
    [r.waits ||| r.sigs ||| fld 0x28#6 22 ||| fld xd 18 ||| fld xa 14 ||| fld xb 10 ||| fld 0x12#6 0]
  | .xclz r xd xa => [r.waits ||| r.sigs ||| fld 0x28#6 22 ||| fld xd 18 ||| fld xa 14 ||| fld 0x13#6 0]
  | .xpopc r xd xa => [r.waits ||| r.sigs ||| fld 0x28#6 22 ||| fld xd 18 ||| fld xa 14 ||| fld 0x14#6 0]
  | .xaddi r xd xa imm => [r.waits ||| r.sigs ||| fld 0x29#6 22 ||| fld xd 18 ||| fld xa 14 ||| fld imm 0]
  | .xmovi r xd imm => [r.waits ||| r.sigs ||| fld 0x2a#6 22 ||| fld xd 18 ||| fld imm 0]
  | .xcmp r qd xa xb cond =>
    [r.waits ||| r.sigs ||| fld 0x2b#6 22 ||| fld qd 15 ||| fld xa 11 ||| fld xb 7 ||| fld cond.toBits 3]
  | .xb r q n off => [r.waits ||| r.sigs ||| fld 0x2c#6 22 ||| fld q 15 ||| fld (BitVec.ofBool n) 14 ||| fld off 0]
  | .guardX r q n cnt =>
    [r.waits ||| r.sigs ||| fld 0x2d#6 22 ||| fld q 15 ||| fld (BitVec.ofBool n) 14 ||| fld cnt 11]
  | .loopX r l xs tgt => [r.waits ||| r.sigs ||| fld 0x2e#6 22 ||| fld l 20 ||| fld xs 15 ||| fld tgt 0]
  | .loopspX r rec => [r.waits ||| r.sigs ||| fld 0x2e#6 22 ||| fld 0x1#1 19 ||| fld rec 0]
  | .steer r xa xb stq =>
    [r.waits ||| r.sigs ||| fld 0x2f#6 22 ||| fld xa 14 ||| fld xb 10 ||| fld (BitVec.ofBool stq) 9]
  | .xj r xa => [r.waits ||| r.sigs ||| fld 0x2f#6 22 ||| fld xa 14 ||| fld 0x1#6 0]
  | .rdvX r => [r.waits ||| r.sigs ||| fld 0x2f#6 22 ||| fld 0x2#6 0]
  | .safeX r => [r.waits ||| r.sigs ||| fld 0x2f#6 22 ||| fld 0x3#6 0]
  | .xget r xd sel => [r.waits ||| r.sigs ||| fld 0x2f#6 22 ||| fld xd 18 ||| fld sel.toBits 10 ||| fld 0x4#6 0]
  | .xset r xa sel => [r.waits ||| r.sigs ||| fld 0x2f#6 22 ||| fld xa 14 ||| fld sel.toBits 10 ||| fld 0x5#6 0]
  | .mxldb r sw ss sk loc nb n0 bf k scl =>
    [r.waits ||| fld 0x34#6 22 ||| fld sk.toBits 20 ||| fld loc 6 ||| fld nb 3 ||| fld n0 0,
      r.sigs ||| fld (semFBits sw) 23 ||| fld (semFBits ss) 18 ||| fld bf 12 ||| fld k 4 ||| fld (BitVec.ofBool scl) 3]
  | .mxldbs r sw ss sg loc nb dc ove kHi bf kLo =>
    [r.waits ||| fld 0x35#6 22 ||| fld (BitVec.ofBool sg) 21 ||| fld loc 7 ||| fld nb 4 ||| fld dc 2 ||| fld (BitVec.ofBool ove) 1 ||| fld kHi 0,
      r.sigs ||| fld (semFBits sw) 23 ||| fld (semFBits ss) 18 ||| fld bf 12 ||| fld kLo 2]
  | .mxrun r sw ss ps loc af kaHi kaLo acc0 m =>
    [r.waits ||| fld 0x36#6 22 ||| fld (BitVec.ofBool ps) 21 ||| fld loc 10 ||| fld af 4 ||| fld kaHi 0,
      r.sigs ||| fld (semFBits sw) 23 ||| fld (semFBits ss) 18 ||| fld kaLo 11 ||| fld acc0 6 ||| fld m 1]
  | .mxrung r sw ss tb iport af kaHi kaLo acc0 m =>
    [r.waits ||| fld 0x37#6 22 ||| fld tb 16 ||| fld iport 11 ||| fld af 5 ||| fld kaHi 0,
      r.sigs ||| fld (semFBits sw) 23 ||| fld (semFBits ss) 18 ||| fld kaLo 12 ||| fld acc0 7 ||| fld m 2]
  | .mxops r sw ss len opsLo opsHi => [r.waits ||| fld 0x38#6 22 ||| fld len 16 ||| fld opsLo 0,
      r.sigs ||| fld (semFBits sw) 23 ||| fld (semFBits ss) 18 ||| fld opsHi 2]
  | .mxanc r sw ss anc => [r.waits ||| fld 0x38#6 22 ||| fld 0x1#2 20 ||| fld anc.toBits 0,
      r.sigs ||| fld (semFBits sw) 23 ||| fld (semFBits ss) 18]
  | .mxz r sw ss acc0 m kind => [r.waits ||| fld 0x39#6 22 ||| fld acc0 15 ||| fld m 10 ||| fld kind 8,
      r.sigs ||| fld (semFBits sw) 23 ||| fld (semFBits ss) 18]
  | .mxst r sw ss ps loc acc0 n0 m df rm sm nb =>
    [r.waits ||| fld 0x39#6 22 ||| fld 0x1#2 20 ||| fld (BitVec.ofBool ps) 19 ||| fld loc 8 ||| fld acc0 3 ||| fld n0 0,
      r.sigs ||| fld (semFBits sw) 23 ||| fld (semFBits ss) 18 ||| fld m 13 ||| fld df 7 ||| fld rm.toBits 4 ||| fld (BitVec.ofBool sm) 3 ||| fld nb 0]
  | .mxspill r sw ss ps loc acc0 m =>
    [r.waits ||| fld 0x3a#6 22 ||| fld (BitVec.ofBool ps) 19 ||| fld loc 8 ||| fld acc0 3,
      r.sigs ||| fld (semFBits sw) 23 ||| fld (semFBits ss) 18 ||| fld m 13]
  | .mxfill r sw ss ps loc acc0 m =>
    [r.waits ||| fld 0x3a#6 22 ||| fld 0x1#2 20 ||| fld (BitVec.ofBool ps) 19 ||| fld loc 8 ||| fld acc0 3,
      r.sigs ||| fld (semFBits sw) 23 ||| fld (semFBits ss) 18 ||| fld m 13]
  | .mxfence r sw ss => [r.waits ||| fld 0x3b#6 22,
      r.sigs ||| fld (semFBits sw) 23 ||| fld (semFBits ss) 18]
  | .mxclrp r sw ss acc0 m re bm =>
    [r.waits ||| fld 0x3b#6 22 ||| fld 0x1#2 20 ||| fld acc0 15 ||| fld m 10 ||| fld (BitVec.ofBool re) 9 ||| fld bm 0,
      r.sigs ||| fld (semFBits sw) 23 ||| fld (semFBits ss) 18]
  | .gbld r xa => [r.waits ||| r.sigs ||| fld 0x3c#6 22 ||| fld xa 16]
  | .gbth r xh xl xe xt =>
    [r.waits ||| r.sigs ||| fld 0x3c#6 22 ||| fld 0x1#2 20 ||| fld xh 16 ||| fld xl 12 ||| fld xe 8 ||| fld xt 4]
  | .gbpred r inp oa ou xbf tag xn xu =>
    [r.waits ||| fld 0x3d#6 22 ||| fld inp 14 ||| fld oa 8 ||| fld ou 2 ||| fld (BitVec.ofBool xbf) 0,
      r.sigs ||| fld tag 12 ||| fld xn 8 ||| fld xu 4]
  | .gbchk r inp orp ht xu tag =>
    [r.waits ||| fld 0x3d#6 22 ||| fld 0x1#2 20 ||| fld inp 14 ||| fld orp 8 ||| fld ht.toBits 4 ||| fld xu 0,
      r.sigs ||| fld tag 12]
  | .loadDataReturn => []
  | .pageWalkComplete => []
  | .remoteStrongAccess => []
  | .messageRequest => []
  | .messageAccept => []
  | .messagePayloadComplete => []
  | .handlerStart => []
  | .mergeStep => []
  | .streamCommandEffect => []
  | .streamFillItem => []
  | .streamDrainItem => []
  | .decompressBlock => []
  | .remoteMessageSend => []
  | .gatherAccept => []
  | .gatherPeerRequest => []
  | .gatherRowReturn => []
  | .peerUnreachable => []
  | .scatterUpdate => []
  | .gsyncClose => []
  | .gatherPerformed => []
  | .generationDrop => []
  | .barrierRelease => []
  | .semaphoreGrant => []
  | .semwtTimeout => []
  | .drainTimeout => []
  | .timerdDeadline => []
  | .matrixCommandStart => []
  | .matrixCommandPerformed => []
  | .faultRecordEnqueue => []
  | .gambitPerform => []
  | .secondCompare => []
  | .rollback => []
  | .imageTextCopy => []
  | .jobStart => []
  | .jobComplete => []
  | .clusterReport => []
  | .instanceComplete => []
  | .walkerDeal => []
  | .tileDeposit => []
  | .corePop => []
  | .steal => []
  | .starving => []
  | .jobSave => []
  | .safePointOverdue => []
  | .clockFire => []
  | .heldTileRelease => []
  | .clkcmdWrite => []
  | .clkcmdRead => []
  | .clkcmdClearEn => []
  | .eventRingWrite => []
  | .evheadWrite => []
  | .barstateWrite => []
  | .semstateWrite => []
  | .lfsrWrite => []
  | .moncfgWrite => []
  | .monedgeWrite => []
  | .monitorSample => []
  | .monitorLevelTick => []
  | .brctlPause => []
  | .brctlResume => []
  | .brctlRetrain => []
  | .brrepairWrite => []
  | .bridgePauseDone => []
  | .bridgeTrainingDone => []
  | .bridgeFlitRetry => []
  | .plrdataWrite => []
  | .peerFlitReceive => []
  | .peerNak => []
  | .peerRetrainTimeout => []
  | .peerRequestTimeout => []
  | .peerTrainingDone => []
  | .openSession => []
  | .closeSession => []
  | .subscribe => []
  | .loadimg => []
  | .writemem => []
  | .readmem => []
  | .bindtable => []
  | .launch => []
  | .clock => []
  | .kill => []
  | .readscore => []
  | .readmon => []
  | .readhealth => []
  | .ecpAdjourn => []
  | .resume => []
  | .attest => []
  | .sessionTimeout => []
  | .otherFrame => []
  | .neighbourDiscovery => []
  | .echo => []
  | .mkaFrame => []
  | .ptpEventMessage => []
  | .ptpHoldover => []
  | .pwrFail => []
  | .railLow => []
  | .adjournmentSaved => []
  | .powerRestored => []
  | .holdExpiry => []
  | .powerUp => []
  | .holdupStoreFull => []
  | .thermalTrip => []
  | .warmReset => []
  | .storePerformed => []

/-- The majors of two-word instructions (R111, R118). -/
def isTwo (x : Isa) (w : Word) : Bool :=
  let m := (w.extractLsb' 22 6).toNat
  match x with
  | .a => decide (m = 0x0d ∨ m = 0x1e ∨ m = 0x24 ∨ m = 0x25 ∨ m = 0x28 ∨ m = 0x29 ∨ m = 0x2d ∨ m = 0x2e ∨ m = 0x2f ∨ m = 0x37)
  | .x => decide (m = 0x10 ∨ m = 0x11 ∨ m = 0x13 ∨ m = 0x15 ∨ m = 0x16 ∨ m = 0x17 ∨ m = 0x18 ∨ m = 0x19 ∨ m = 0x1c ∨ m = 0x34 ∨ m = 0x35 ∨ m = 0x36 ∨ m = 0x37 ∨ m = 0x38 ∨ m = 0x39 ∨ m = 0x3a ∨ m = 0x3b ∨ m = 0x3d)

/-- The decoder: the instruction of an instruction set whose word 1 is w and whose next word is v, or none where R108
gives Illegal Instruction. A one-word instruction does not read v. -/
def decode (x : Isa) (w v : Word) : Option Instr :=
  let raw := match x with
    | .a => rawA w v
    | .x => rawX w v
  raw.filter fun i => i.wf && i.regsOk x

/-- A 32-bit word from four bytes, the least significant first (R8). -/
def wordOf (b0 b1 b2 b3 : Byte) : Word := b3 ++ b2 ++ b1 ++ b0

/-- The bytes of a word as memory holds them (R8). -/
def wordBytes (w : Word) : List Byte :=
  [w.extractLsb' 0 8, w.extractLsb' 8 8, w.extractLsb' 16 8, w.extractLsb' 24 8]

/-- The decoder on any list of bytes: the instruction and the bytes after it. -/
def decodeBytes (x : Isa) : List Byte → Option (Instr × List Byte)
  | b0 :: b1 :: b2 :: b3 :: t =>
    let w := wordOf b0 b1 b2 b3
    if isTwo x w then
      match t with
      | c0 :: c1 :: c2 :: c3 :: u => (decode x w (wordOf c0 c1 c2 c3)).map fun i => (i, u)
      | _ => none
    else (decode x w 0#32).map fun i => (i, t)
  | _ => none

/-- The instruction read from a word numbered as the opcode table numbers its bits. The A-ISA is tried before the
X-ISA, whose majors overlap it: the table's word does not name its engine. -/
def decodeTableWord (nbits w : Nat) : Option Instr :=
  let n := w % 2 ^ nbits
  let w1 : Word := BitVec.ofNat 32 n
  let w2 : Word := BitVec.ofNat 32 (n / 2 ^ 32)
  let bs := wordBytes w1 ++ wordBytes w2
  match decodeBytes .a bs with
  | some (i, _) => some i
  | none => (decodeBytes .x bs).map fun p => p.1

end Sys2Proof
end

