-- ==== Sys2Proof/Machine/State.lean ====
section
/-! DEFINITION. The state of the module as plain data (R1, R15): every register, queue, memory and table that the
chapters name, for every core, cluster, die and shared unit, held sparsely; and what the outside world has delivered and
been sent. `State.reset` is the module right after reset. The fields that the spec does not name, and that belong to the
model, say so. -/

namespace Sys2Proof.Machine

/-- The engines that issue instructions: LA, EX, SA, the handler context of a core, and a Director (R15, R182). -/
inductive Eng where
  | la | ex | sa | hdl | dir
deriving DecidableEq, Repr

/-- What an engine is doing: idle (no job; a dormant handler), running, waiting at RDV, without an entry point (R33),
stopped by its own trap, stopped by another engine's trap or by a safe point (R37, R181, R394). -/
inductive Run where
  | idle | run | rdv | absent | trapped | held
deriving DecidableEq, Repr

/-- One activated loop level, the newest first in `Ctx.levels` (R150 to R155). `sp` is the record number of a
software-pipelined loop, whose entry stands from LOOPSP to the end of its epilogue; `act` is ACTIVE. -/
structure Level where
  l     : Nat
  start : Nat
  fin   : Nat
  act   : Bool
  sp    : Option Nat
  lo    : Nat
  hi    : Nat
deriving DecidableEq, Repr

/-- A global load that has issued and is not yet complete (R138, R140). `rd` is 0 when no register waits for it: a0, or a
register that a later instruction has written. `val` is none until the access is performed (a strong access of another
device). -/
structure Load where
  rd  : Nat
  val : Option DWord
deriving DecidableEq, Repr

/-- An ordinary store that its member holds back (R77, R79): its tag (R463) and its bytes at physical addresses. -/
structure Store where
  tag   : Nat
  bytes : List (Nat × Byte)
deriving DecidableEq, Repr

/-- The operations of AMO and the other strong accesses, as sent to another device (R86, R423). -/
inductive StrongOp where
  | load | store | cas | add | and | or | xor | min | max | minu | maxu | swap
deriving DecidableEq, Repr

/-- A byte that an engine command of a member has written and that the member's own loads do not see yet (R81): its physical address,
the byte before and the byte written, and the tag of the command whose reply makes it visible. -/
structure Veil where
  pa  : Nat
  old : Byte
  new : Byte
  tag : Option Nat
deriving DecidableEq, Repr

/-- What a context waits for inside an instruction that takes more than one step. -/
inductive Wait where
  | none
  /-- In BARWA, for a barrier of the mask from base on (R245). -/
  | barwa (base mask : Nat)
  /-- In the line of a physical semaphore (R250). -/
  | sem (p : Nat)
  /-- SEMWT in the line of a semaphore until a cycle (R248). -/
  | semt (p : Nat) (until_ : Nat)
  /-- An MSEND whose request has not been answered (R176). -/
  | msg
  /-- An MSEND whose payload is being read (R176). -/
  | payload
  /-- A strong access of another device that has been sent (R86). -/
  | remote
  /-- SFLUSH of a port, or SQBIND off, to go on (R174, R232). -/
  | port (p : Nat)
  /-- SSAVE or SREST of a port whose record is to be written or read (R229). -/
  | rec_ (p : Nat)
  /-- DRAIN of a core until a cycle; 0 is no limit (R446). -/
  | drain (core : Nat) (until_ : Nat)
  /-- TIMERD until a TIME or an event (R455). -/
  | timer (deadline : Nat)
  /-- KILLCTX, whose stops are done, until the context's writes have drained (R97, R443). -/
  | kill (ctx : Nat)
deriving DecidableEq, Repr

/-- How a wait ended. -/
inductive Ans where
  | granted | timeout | accepted | refused | value (v : DWord)
deriving DecidableEq, Repr

/-- The state of one instruction context (R136, R242, R255): LA, EX, SA, the handler or a Director. The a registers of an
A-ISA context and the x registers of EX are `regs`. -/
structure Ctx where
  run    : Run := .idle
  pc     : Nat := 0
  regs   : Map DWord := []
  q      : BitVec 128 := 1#128
  lc     : Map (BitVec 32) := []
  levels : List Level := []
  /-- START and END of each loop counter's level as they last stood (R150, R154, R451): they stay when the level ends. -/
  lspan  : Map (Nat × Nat) := []
  gOn    : Bool := false
  gRem   : Nat := 0
  cause  : DWord := 0#64
  epc    : DWord := 0#64
  eval   : DWord := 0#64
  seen   : Map (BitVec 16) := []
  rot    : Nat := 7
  pend   : Bool := false
  pnum   : Nat := 0
  pgen   : BitVec 16 := 0#16
  loads  : List Load := []
  stores : List Store := []
  /-- What its own engine commands have written and its loads do not see yet (R81). -/
  veil   : List Veil := []
  /-- The token queues that the last issued instruction signals and that had no room (R17). -/
  sigs   : List Nat := []
  wait   : Wait := .none
  ans    : Option Ans := none
  /-- The opening of the port of an SFLUSH and the elements that it waits for (R232). -/
  fl     : Nat × Nat := (0, 0)
  /-- CYCLE at the last safe point or the start of the job (R396). -/
  safeAt : Nat := 0
  /-- CYCLE when a stopped engine stopped: it does not count while it is stopped (R396). -/
  stopAt : Nat := 0
  /-- A stop that takes effect after the MSEND under way (R176). -/
  stopAfter : Bool := false
  /-- A direct strong access of another device (R86): address, size, operation and operands. -/
  strong : Option (Nat × Nat × StrongOp × DWord × DWord) := none
  /-- CYCLE when EX began to wait for a port operand (R484). -/
  stall  : Option Nat := none
  /-- The record number of the loop at whose kernel-iteration boundary the context last passed its safe point (R451). -/
  atKernel : Option Nat := none
  /-- Its last attempt to issue had to wait (the model's own): it is asked before the later engines of its core (R23, R24, R29,
  R179, R241, R250). -/
  stalled : Bool := false
deriving DecidableEq, Repr

/-- The shadow copy that the Second keeps of the scalar state of a context (R460): registers, predicates, counters, the loop unit,
GSTATE and PC. `log` holds the values that the context received with its last retired instruction, by destination register;
the predicates that it received are `plog`. -/
structure Shadow where
  pc     : Nat := 0
  regs   : Map DWord := []
  q      : BitVec 128 := 1#128
  lc     : Map (BitVec 32) := []
  levels : List Level := []
  lspan  : Map (Nat × Nat) := []
  gOn    : Bool := false
  gRem   : Nat := 0
  log    : List (Nat × DWord) := []
  plog   : List (Nat × Bool) := []
deriving DecidableEq, Repr

/-- What the Second knows of an outbound item (R461): the engine that issued it, the tag under which it did (R463), and whether the
item that the Second formed differs. -/
structure Outb where
  eng : Nat
  tag : Nat
  bad : Bool
deriving DecidableEq, Repr

/-- A physical semaphore: COUNT, OVF and its line of waiters, each a member and an amount; the matrix engine's
member number in a line is 4096 (R247, R250). -/
structure Sem where
  count : Nat := 0
  ovf   : Bool := false
  line  : List (Nat × Nat) := []
deriving DecidableEq, Repr

/-- The states of a port (R189). -/
inductive PState where
  | closed | set | run | fault | order | done
deriving DecidableEq, Repr

/-- A message in a queue port (R204, R205): its first line, padding lines before it, payload lines, HE, HPC, sender with its
context, the remote stream that sent it, the payload on its way and the places of its poisoned bytes (R465), whether it is complete, whether its handler run has
ended. -/
structure Msg where
  first : Nat
  skip  : Nat
  lines : Nat
  he    : Bool
  hpc   : Nat
  src   : Nat
  ctx   : Nat
  gen   : BitVec 16
  from_ : Option (Nat × Nat) := none
  data  : List Byte := []
  pois  : List Nat := []
  whole : Bool := false
  freed : Bool := false
deriving DecidableEq, Repr

/-- A stream port (R189 to R214). -/
structure Port where
  st      : PState := .closed
  src     : Src := .glob
  dst     : Dst := .ex
  mfmt    : Nat := 0
  rm      : Rm := .rne
  sm      : Bool := false
  qn      : Nat := 0
  fend    : Bool := false
  ind     : Bool := false
  iport   : Nat := 0
  fork    : Bool := false
  parent  : Nat := 0
  marks   : Map Nat := []
  mauto   : Map Bool := []
  fbank   : Nat := 0
  banks   : Nat := 0
  base    : Nat := 0
  len     : Nat := 0
  /-- FP: the items that the fill side has taken; for a direct or drain side, the items written. -/
  fp      : Nat := 0
  /-- FW of R192: the elements counted as written. -/
  fw      : Nat := 0
  /-- The elements whose data has arrived (R192, R262): at most FW. -/
  wr      : Nat := 0
  dp      : Nat := 0
  /-- The elements that consumers have read: at most DP. -/
  rd      : Nat := 0
  /-- The items that the drain side has written to memory. -/
  di      : Nat := 0
  stride  : Map Int := []
  extent  : Map Nat := []
  istride : Int := 0
  param   : DWord := 0#64
  remote  : DWord := 0#64
  hasRem  : Bool := false
  ip0     : Nat := 0
  free    : Nat := 0
  faultVa : DWord := 0#64
  faultSide : Nat := 0
  faultMfc  : Nat := 0
  /-- A fault of another side while in FAULT: side, address, MFC (R212). -/
  fault2  : Option (Nat × Nat × Nat) := none
  drop    : Nat := 0
  short   : Bool := false
  /-- The elements of the first item of a refetch to drop (R210). -/
  skipEl  : Nat := 0
  /-- The bytes of an element still incomplete (raw source, R201), and the current index (R199). -/
  part    : List Byte := []
  index   : Option Int := none
  /-- The decompressor's place in the compressed stream, and the lines still to drop after a refetch (R200, R210). -/
  dpos    : Nat := 0
  dskip   : Nat := 0
  /-- Fills already requested (DECOMPRESS_BLOCK) and not yet written. -/
  block   : Option (List Byte) := none
  /-- Whether that block comes from poisoned bytes (R465). -/
  blockBad : Bool := false
  /-- The queue view of a msgq port (R203): head and tail lines and the messages present. -/
  head    : Nat := 0
  tail    : Nat := 0
  msgs    : List Msg := []
  /-- The element count up to which SFLUSH, SCLOSE or the end-of-job drain drains (R207, R216, R232). -/
  flush   : Option Nat := none
  /-- The port closes when its drain is finished (R216, R230). -/
  closing : Bool := false
  /-- The range-checker entry of a direct transfer (R208). -/
  rng     : Option Nat := none
  /-- A remote message that waits for its targets: lines and the targets still to accept (R206). -/
  sending : Option (Nat × List Nat) := none
  /-- Message padding: positions without elements, as (first, count) (R204). -/
  gaps    : List (Nat × Nat) := []
  /-- A save has stopped the queue from accepting messages (R495). -/
  quiet   : Bool := false
  /-- The member that opened the port (R77): agent, context number and generation. -/
  owner   : Nat := 0
  octx    : Nat := 0
  ogen    : BitVec 16 := 0#16
  /-- The item that opened the port, which tells one opening from the next (R230, R232). -/
  inst    : Nat := 0
  /-- The item that the last refetch began with (R213). -/
  fp0     : Nat := 0
deriving DecidableEq, Repr

/-- A run of the merge unit (R234, R235): the command's fields, the positions, the previous elements and n. -/
structure Merge where
  ok : Nat
  ka : Nat
  kb : Nat
  oa : Nat
  ob : Nat
  eok : Bool
  eoa : Bool
  eob : Bool
  uni : Bool
  strict : Bool
  tag : Nat
  ia : Nat := 0
  ib : Nat := 0
  n  : Nat := 0
  prevA : Option Int := none
  prevB : Option Int := none
deriving DecidableEq, Repr

/-- A command in the stream command queue (R190). -/
inductive StrCmd where
  | go (p : Nat) | fork (p f : Nat) (d : Dst) | mark (p m : Nat) (clr auto : Bool) | rew (p m : Nat)
  | close (p : Nat) | lev (p l : Nat) (s : Int) (e : Nat) | ind (p ip : Nat) (s : Int) | src (p : Nat) (v : DWord)
  | rem (p : Nat) (v : DWord) | bfmt (b c : Nat)
  | opn (p : Nat) (v : Port)
  | save (p off : Nat) (keep : Bool) (ag : Nat) | rest (p : Nat) (r : List Byte) (ag ctx : Nat) (gen : BitVec 16)
  | flush (p ag : Nat)
  | merge (m : Merge)
deriving DecidableEq, Repr

/-- An entry of the range checker (R29): read and write ranges of pad offsets, whole lines. -/
structure Rng where
  id : Nat
  rd : List (Nat × Nat)
  wr : List (Nat × Nat)
deriving DecidableEq, Repr

/-- An accumulator: V and its four flags (R58). -/
structure Acc where
  v  : BitVec 128 := 0#128
  an : Bool := false
  ap : Bool := false
  am : Bool := false
  ao : Bool := false
deriving DecidableEq, Repr

/-- An accumulator row (R294): its 512 accumulators, RANCH, POISON and TAG; `ue`: its columns that hold an uncorrectable error
(R329, R465). -/
structure Row where
  acc    : Map Acc := []
  ranch  : Int := 0
  poison : Bool := false
  tag    : Nat := 0
  ue     : List Nat := []
deriving DecidableEq, Repr

/-- The states of a B block (R294). -/
inductive BState where
  | empty | dense | sparse
deriving DecidableEq, Repr

/-- A column block of the B store with its descriptor (R294). `cells` is keyed by cell row × 64 + column; `pos` gives the
logical position of each cell of a sparse block that holds a term (R305); `scale` is keyed by column × 64 + K block, and
127 where unlisted; `ue`: what holds an uncorrectable error (R329, R465): the keys of cells, 2^20 + the keys of scale codes,
2^22 + position × 64 + column of overflow entries. -/
structure Blk where
  st     : BState := .empty
  bf     : Nat := 0
  k      : Nat := 0
  d      : Nat := 0
  poison : Bool := false
  tag    : Nat := 0
  cells  : Map Byte := []
  pos    : Map Nat := []
  scale  : Map Byte := []
  ue     : List Nat := []
deriving DecidableEq, Repr

/-- A matrix command (R121): the instruction that EX pushed and its SEQ; and, the model's own, the Second's item, which is also
its number in the range checker, the address of word 1 in EX, the tag of the push (R463), its context; whether its wait is done or
stands in a semaphore's line; once started, the elements, bytes or indices taken from its port (R307) and whether that port's
buffer was raw when it was pushed, the rows done, whether it is discarded and whether it has then been performed (R327), whether
its scale codes failed, the poisoned elements among those it took, by place and unit; the opening of its port. -/
structure MxCmd where
  i      : Instr
  seq    : Nat
  id     : Nat
  epc    : Nat
  ptag   : Option Nat
  ctx    : Nat
  gen    : BitVec 16
  raw    : Bool := false
  waited : Bool := false
  inLine : Bool := false
  buf    : List Nat := []
  row    : Nat := 0
  dead   : Bool := false
  gone   : Bool := false
  stop   : Bool := false
  pois   : List (Nat × Nat) := []
  pinst  : Nat := 0
deriving DecidableEq, Repr

/-- A matrix fault record (R328), with the TIME when it arose and whether it has been counted as waiting for room in the
ring (R437). -/
structure MxFault where
  addr   : Nat
  cause  : Nat
  detail : Nat
  seq    : Nat
  ctx    : Nat
  core   : Nat
  epc    : Nat
  group  : Nat
  col    : Nat
  jobid  : DWord
  time   : Nat
  late   : Bool := false
deriving DecidableEq, Repr

/-- The matrix engine of a core (R294): blocks, overflow entries (value, column, logical position), rows, ANCHOR, the op
sequence, the queue, the commands that have started and are not done, the count of commands since job start, and fault records that wait for the cluster queue (R328). -/
structure Mx where
  blks   : Map Blk := []
  ovf    : List (Byte × Nat × Nat) := []
  rows   : Map Row := []
  anchor : Int := 0
  opLen  : Nat := 1
  ops    : BitVec 32 := 0#32
  queue  : List MxCmd := []
  run    : List MxCmd := []
  seq    : Nat := 0
  held   : List MxFault := []
deriving DecidableEq, Repr

/-- The classes of a neuron (R357). -/
inductive NClass where
  | act | unc | skip | drop | prom
deriving DecidableEq, Repr

/-- A Gambit command in the queue (R360): what EX read at issue, the Second's item, and the tag of
the push (R463). -/
inductive GbCmd where
  | ld (off : Nat) (id : Nat) (ptag : Option Nat)
  | th (hi lo e : DWord) (act : BitVec 32) (id : Nat) (ptag : Option Nat)
  | pred (data : List Nat) (bf : Bool) (oa ou : Nat) (ucap tag : Nat) (id : Nat) (ptag : Option Nat)
  | chk (data : List Nat) (ht : ElemT) (orp : Nat) (ucap tag : Nat) (id : Nat) (ptag : Option Nat)
deriving DecidableEq, Repr

/-- The Gambit unit of a core (R357). -/
structure Gambit where
  valid  : Bool := false
  poff   : Nat := 0
  uoff   : Nat := 0
  woff   : Nat := 0
  d      : Nat := 0
  nn     : Nat := 0
  rnk    : Nat := 0
  xs     : Int := 0
  thi    : DWord := 0#64
  tlo    : DWord := 0#64
  e      : DWord := 0#64
  tact   : BitVec 32 := 0#32
  pvalid : Bool := false
  pucap  : Nat := 0
  score  : List Int := []
  cls    : List NClass := []
  w      : List Nat := []
  unc    : List Nat := []
  queue  : List GbCmd := []
  /-- The elements still to push to each port by the command under way, and its reply (R366). -/
  out    : List (Nat × List Nat) := []
  reply  : Option (Nat × Nat × Nat × Nat) := none
deriving DecidableEq, Repr

/-- A table descriptor (R332); `uid` numbers the installations of generations, so that two with one GEN are told apart (R339). -/
structure Desc where
  base  : Nat
  pitch : Nat
  nrows : Nat
  rlen  : Nat
  rcode : Nat
  dist  : Nat
  ordered : Bool
  v     : Bool
  rm    : Nat
  sm    : Bool
  p     : Nat
  first : Nat
  home  : Nat
  rspan : Nat
  gen   : Nat
  tid   : Nat
  uid   : Nat := 0
deriving DecidableEq, Repr

/-- A table handle of a context (R335): CUR and OLD, EPOCH, the EPOCH that ordered scatters take (R349), the sequence count, the
tag and core of the GTSWAP whose reply waits for OLD to drop (R343), the core and item of a GTSWAP that waits to be installed, and
whether a GSYNC holds back acceptance (R349). -/
structure Handle where
  cur    : Option Desc := none
  old    : Option Desc := none
  epoch  : Nat := 0
  sepoch : Nat := 0
  seq    : Nat := 0
  swap   : Option (Nat × Nat) := none
  taken  : Option (Nat × Nat) := none
  hold   : Bool := false
deriving DecidableEq, Repr

/-- A generation of a handle that has been unbound, held until it is no longer pinned (R342), with the reply of a GTSWAP that
waits for it; a dead one belonged to a killed context, and no request of another device finds it (R335). -/
structure Ghost where
  ctx    : Nat
  handle : Nat
  d      : Desc
  swap   : Option (Nat × Nat)
  dead   : Bool := false
deriving DecidableEq, Repr

/-- The gather operations (R341, R344). -/
inductive GOp where
  | bind (d : Option Desc) | swap (d : Desc) | sync | gath (dk fz : Bool) (dest : Nat) | gathp (mean fz : Bool) (port : Nat) (bag nbag : Nat)
  | scat (src : Nat) | scata (src : Nat)
deriving DecidableEq, Repr

/-- An element fault (R350, R351): code, MFC, member slot, VA. -/
structure EFault where
  code : Nat
  mfc  : Nat
  slot : Nat
  va   : Nat
deriving DecidableEq, Repr

/-- A gather command of a core, from issue to performance (R336 to R353). `acc` holds the descriptor of G, the sequence number and
the EPOCH (R337), and `ord` its place in the order of acceptance; `next` is the next element to read, ship or apply, and for GSYNC
its phase; `rows` are the rows that have come back, `ship` the elements with another device (R338); `out` counts the rows or bags
delivered, `put` the units written to the destination, `pend` and `part` what is still to be pushed to the port; `ep` and `fin`
are GSYNC's epoch and the updates it applied; `home` is the engine that serves it, `iss` the cycle of its issue, `arr` that of its
arrival at the engine (R336, R337), and `rdy` says that its index vector has been read (R338). -/
structure GCmd where
  op     : GOp
  ag     : Nat
  id     : Nat
  core   : Nat
  ctx    : Nat
  gen    : BitVec 16
  handle : Nat
  tag    : Nat
  n      : Nat
  ri     : Nat
  rf     : Nat
  acc    : Option (Desc × Nat × Nat) := none
  ord    : Nat := 0
  idx    : List Nat := []
  bags   : List Nat := []
  bagBad : Bool := false
  next   : Nat := 0
  rows   : Map (List Byte) := []
  faults : Map EFault := []
  ship   : Map Nat := []
  out    : Nat := 0
  put    : Nat := 0
  pend   : List Nat := []
  part   : List Byte := []
  ep     : Option Nat := none
  fin    : Option Nat := none
  home   : Nat := 0
  iss    : Nat := 0
  arr    : Option Nat := none
  rdy    : Bool := false
deriving DecidableEq, Repr

/-- A buffered row update of an ORDERED table (R349): the binding (context and handle), source slot, sequence number, element,
EPOCH, row index, the operation, the source row's format and codes; the core of this device that issued it and the generation that its
command is bound to (R337); whether its source row is poisoned (R465). -/
structure OUpd where
  ctx    : Nat
  handle : Nat
  slot   : Nat
  seq    : Nat
  elem   : Nat
  epoch  : Nat
  row    : Nat
  add    : Bool
  fmt    : Nat
  data   : List Nat
  core   : Option Nat := none
  d      : Desc
  bad    : Bool := false
deriving DecidableEq, Repr
/-- A level of a nest (R374): EXTENT, KIND (0 T, 1 C, 2 D), ORDER. -/
structure NLevel where
  extent : Nat
  kind   : Nat
  order  : Nat
deriving DecidableEq, Repr

/-- A Nest record with its role map (R374, R375): for position p and engine e (0 LA, 1 EX, 2 SA) the entry is at 3p + e,
0xFFFF for none. -/
structure Nest where
  prio  : Nat
  gang  : Bool
  levels : List NLevel
  roles : List Nat
deriving DecidableEq, Repr

/-- A loop record (R153). -/
structure LoopRec where
  rec_  : Nat
  eng   : Nat
  pro   : Nat
  ker   : Nat
  kend  : Nat
  eend  : Nat
  kind  : Nat
  reg   : Nat
  trip  : Nat
deriving DecidableEq, Repr

/-- A loaded image (R130 to R135): its number and context, the registration that made it, the four text sections, its
declarations, its .data with DATAVA, and the digest of its bytes (R430). A live mask is a loop record number and bytes [39:8] of R134. -/
structure Image where
  img   : Nat
  ctx   : Nat
  reg   : Nat
  text  : List (List Byte)
  nests : List Nest
  loops : List LoopRec
  live  : List (Nat × List Byte)
  pads  : List (Nat × Nat × Bool)
  banks : List (Nat × Nat)
  bufs  : List (Nat × Nat × Nat)
  data  : List Byte
  dva   : Nat
  digest : List Byte
deriving DecidableEq, Repr

/-- The launch parameters of R379; PRIO 16 stands for the record's. -/
structure Launch where
  img  : Nat
  nest : Nat
  prio : Nat
  die  : Nat
  arg  : DWord
  deps : List Nat
deriving DecidableEq, Repr

/-- A cluster's counts for an instance (R397): completions counted and not yet reported, whether CLOSE has come. OUT is what
its deques and cores hold of the instance. -/
structure ClCount where
  done   : Nat := 0
  closed : Bool := false
deriving DecidableEq, Repr

/-- A nest instance in the nest table (R380, R381, R397, R398). `share` and `got` are, for each die, the tiles enumerated
and the completions reported; `clk` is its Clock entry, instance number and start time; `started` gives
the cycle of the first job start on each die; `src` is its source: 0 ECP, 1 Clock, 2 SPAWN, 3 Director; `notify` is the Director that
asked for the Instance complete event; `scored` its scoresheet entry. -/
structure Inst where
  nix    : Nat
  img    : Nat
  reg    : Nat
  nest   : Nat
  ctx    : Nat
  gen    : BitVec 16
  prio   : Nat
  die    : Nat
  arg    : DWord
  deps   : List Nat
  ready  : Bool := false
  done   : Bool := false
  outcome : Nat := 0
  c0     : Nat := 0
  share  : Map Nat := []
  got    : Map Nat := []
  cl     : Map ClCount := []
  clk    : Option (Nat × Nat × Nat × Nat) := none
  freed  : Bool := false
  readyAt : Nat := 0
  started : Map Nat := []
  src    : Nat := 0
  notify : Option Nat := none
  scored : Nat := 0
deriving DecidableEq, Repr

/-- A deque entry (R388): `count` tiles from `tile` on (more than one for a spawn range); the save-area reference of a
returned job. -/
structure DqEnt where
  nix   : Nat
  tile  : Nat
  count : Nat
  range : Bool
  b     : Nat
  c0    : Nat
  gang  : Bool
  held  : Bool
  area  : Option Nat
  starved : Bool := false
deriving DecidableEq, Repr

/-- An item of a die's ready lists (R384, R385, R395): an instance with its next unit and, for a range that has come back, the
unit after its last (0 for the whole share); or the returned tiles of a job, a gang or an offline core, each with its position, its
tile and its save area plus 1, 0 for none; `held` is their held bit, `adj` says that an adjournment saved them, and `next` of a
returned gang is its number among the gangs plus 1. -/
structure Item where
  nix  : Nat
  b    : Nat
  c0   : Nat
  next : Nat
  back : List (Nat × Nat × Nat)
  gang : Bool
  starved : Bool
  upto : Nat := 0
  held : Bool := false
  adj  : Bool := false
deriving DecidableEq, Repr

/-- The job a core runs (R32, R34, R384, R392): the residue flags are bits 0 TOKRES, 1 STEERRES, 2 RPLRES, 3 SCLRES, 4
STRRES. `mark` is a pending pre-emption and its ORIGIN; `told` says that the stop has been reported. -/
structure Job where
  nix    : Nat
  tile   : Nat
  ctx    : Nat
  gen    : BitVec 16
  run    : Nat
  b      : Nat
  starved : Bool
  gang   : Bool
  since  : Nat
  mark   : Option Nat := none
  told   : Bool := false
  stopped : Bool := false
  retset : Bool := false
  failed : Bool := false
  residue : Nat := 0
  drain  : Bool := false
  replay : Nat := 0
  area   : Option Nat := none
  hold   : Bool := false
deriving DecidableEq, Repr

/-- A Clock entry (R400, R402): its 64-byte record and, the model's own, the next instance to consider and the last one
fired with its NIX. -/
structure Clk where
  rec_ : BitVec 512 := 0#512
  next : Nat := 0
  last : Option Nat := none
  gaps : List (Nat × Nat) := []
deriving DecidableEq, Repr

/-- A translation that a buffer holds (R75): its virtual and physical base, its size, its context and generation, G and
the flags of its leaf. -/
structure Tlb where
  va   : Nat
  pa   : Nat
  size : Nat
  ctx  : Nat
  gen  : BitVec 16
  g    : Bool
  ret  : Bool
  w    : Bool
deriving DecidableEq, Repr

/-- An entry of the context table (R433, R435, R440). `sem` is the semaphore map, entry v at bits [5v+4:5v]; `used` lists
the save-pool slots in use; `handles` are the 32 table handles (R335). -/
structure CtxEnt where
  v       : Bool := false
  gen     : BitVec 16 := 0#16
  spbound : Nat := 0x100000
  root    : Nat := 0
  pool    : Nat := 0
  nslot   : Nat := 0
  slotsz  : Nat := 0
  sem     : BitVec 80 := 0xffbbcdeb38bdab49ca30#80
  used    : List Nat := []
  handles : Map Handle := []
deriving DecidableEq, Repr

/-- A checkpoint of an engine (R463): c_k of the activation of LOOPSP numbered `act`, the context as it stood, and for EX
its tile and mask registers, VSHAPE, FMT8, FPCTL, FPACC, LFSR, SEQ count and the positions of the open ports; the model's own, the events logged before it and its cycle. -/
structure Ckpt where
  eng    : Nat
  k      : Nat
  act    : Nat
  ctx    : Ctx
  ok     : Bool := true
  tiles  : Map Byte := []
  masks  : Map (BitVec 4096) := []
  special : List Nat := []
  lfsr   : BitVec 32 := 1#32
  seqc   : Nat := 0
  ports  : List (Nat × Port) := []
  pos    : Nat := 0
  at_    : Nat := 0
deriving DecidableEq, Repr

/-- An entry of the event log (R464): the engine, its tag, what was done (0 token push, 1 token pop, 2 steer push, 3 steer
pop, 4 reply pop, 5 scale push, 6 scale pop, 7 semaphore count raised, 8 lowered, 9 an action of R467, 10 reply push), the
queue or semaphore and the entries. A tag k of activation A is A × 2^32 + k. -/
structure LogEv where
  eng  : Nat
  tag  : Nat
  kind : Nat
  idx  : Nat
  data : List Nat
deriving DecidableEq, Repr

/-- A trigger of a rollback (R462, R465, R466): the engine and tag, whether it is a mismatch, the poisoned unit and whether
it lies in the core's own storage; a handler run is engine 3. A tag is as in the event log. -/
structure Trig where
  eng  : Nat
  tag  : Nat
  mis  : Bool
  unit : Nat
  own  : Bool
deriving DecidableEq, Repr

/-- A request in the handler start list (R177): the queue port, the message's first line, and the values of R178. -/
structure HStart where
  port  : Nat
  first : Nat
  hpc   : Nat
  src   : Nat
  qn    : Nat
  off   : Nat
  len   : Nat
  ctx   : Nat
  gen   : BitVec 16
deriving DecidableEq, Repr

/-- A message request at a core (R204): the sending context or, for a remote stream, its core and port; queue, lines, HE,
HPC, the sender's linear index, context and generation, the pad offset of an MSEND's payload; whether it has arrived. -/
structure MsgReq where
  ag    : Option Nat
  sport : Option (Nat × Nat)
  qn    : Nat
  lines : Nat
  he    : Bool
  hpc   : Nat
  src   : Nat
  ctx   : Nat
  gen   : BitVec 16
  off   : Nat
  here  : Bool
deriving DecidableEq, Repr

/-- The recovery records of a core: the event log and the MX undo log (R464), the trigger that waits, the last trigger
served (R471) with the engines that it restored, the LOOPSP activations of each engine in the job, and the actions of R467 and of R469 since the job started; `lost` counts the events that have left the log. -/
structure Rollb where
  log     : List LogEv := []
  lost    : Nat := 0
  undo    : List (Nat × Nat × Row) := []
  pending : Option Trig := none
  last    : Option Trig := none
  acts    : Map Nat := []
  lastOf  : List Nat := []
  irrev   : Bool := false
  wrote   : Bool := false
  handler : Bool := false
  /-- The triggers of engine commands that have come while one waits, the oldest first. -/
  more    : List Trig := []
deriving DecidableEq, Repr

/-- A core (R15, R255, R294, R357, R388): everything that its three engines and its handler share, and its job. -/
structure Core where
  online : Bool := true
  /-- Token counts, in the INDEX order of R135 (R16). -/
  tok    : Map Nat := []
  steerL : List (BitVec 16 × BitVec 16) := []
  steerS : List (BitVec 16 × BitVec 16) := []
  /-- Steer entries that the Second has not matched: item, toward SA, entry (R20, R27). -/
  steerP : List (Nat × Bool × BitVec 16 × BitVec 16) := []
  /-- The reply queue: the replies present and the tags of the reservations (R21, R22). -/
  rpl    : List DWord := []
  resv   : List Nat := []
  scq    : List Byte := []
  sqBind : Option Nat := none
  rngs   : List Rng := []
  nextId : Nat := 0
  /-- The outbound items that the Second has not matched yet, the oldest first (R27). -/
  secq   : List Nat := []
  /-- What the Second found when it formed them (R461). -/
  outb   : Map Outb := []
  /-- Engines whose disagreement has been found and not yet handled, with its tag (R462). -/
  upset  : List (Nat × Nat) := []
  lfsr   : BitVec 32 := 1#32
  bfmt   : Map Byte := []
  pad    : Map Byte := []
  fe     : Map Bool := []
  tiles  : Map Byte := []
  masks  : Map (BitVec 4096) := []
  vrows  : BitVec 6 := 15#6
  vcols  : BitVec 6 := 31#6
  fmt8   : Byte := 0x13#8
  fpctl  : BitVec 9 := 0#9
  fpacc  : BitVec 5 := 0#5
  sems   : Map Sem := []
  ports  : Map Port := []
  strq   : List (Nat × StrCmd) := []
  /-- The ports last served: of the fill sides, of the drain sides, by the decompression engine (R200, R217). -/
  fillAt : Nat := 31
  drainAt : Nat := 31
  dcAt   : Nat := 31
  merge  : Option (Nat × Merge) := none
  mx     : Mx := {}
  gam    : Gambit := {}
  gcmds  : List GCmd := []
  msgs   : List MsgReq := []
  hstart : List HStart := []
  hrun   : Option HStart := none
  /-- The handler's context as its run started (R469). -/
  hsave  : Ctx := {}
  job    : Option Job := none
  next   : Option (DqEnt × Nat) := none
  img    : Option (Nat × Nat) := none
  imem   : Map Word := []
  /-- Words of the instruction memories with an uncorrectable error (R187). -/
  ibad   : List Nat := []
  /-- Words of the instruction memories with a single-bit error (R187). -/
  icorr  : List Nat := []
  deque  : List DqEnt := []
  tlb    : List Tlb := []
  ckpts  : List Ckpt := []
  rb     : Rollb := {}
  /-- The bytes of the pad, and those of the tile registers, v0's first, that hold an uncorrectable error (R465). -/
  poison : List Nat := []
  tpois  : List Nat := []
deriving DecidableEq, Repr

/-- A named barrier (R237, R238); its waiters are the contexts that wait in BARW or BARWA. -/
structure Barrier where
  gen    : BitVec 16 := 0#16
  arr    : Nat := 0
  expect : Nat := 0
  defcnt : Nat := 0
  free   : Bool := true
  owner  : Nat := 0
deriving DecidableEq, Repr

/-- A cluster (R13): its barriers, its fault queue and the cores that hold a record for it, in the order of arrival, its translation buffer, and the position of the core that its decompression engine
asks first (R200). -/
structure Cluster where
  bars   : Map Barrier := []
  faults : List MxFault := []
  heldq  : List Nat := []
  tlb    : List Tlb := []
  dcmpAt : Nat := 0
deriving DecidableEq, Repr

/-- An event for a Director (R437): TYPE, core, TIME and BODY. -/
structure Event where
  ty   : Nat
  core : Nat
  time : Nat
  body : List Byte
deriving DecidableEq, Repr


/-- A flit at a peer port (R421), field by field; `data` are the 244 bytes of its payload, `crc` its last four bytes. What a payload
holds is the model's own (assumption log): R421 gives its size alone. -/
structure Flit where
  type : Nat := 0
  dst  : Nat := 0
  src  : Nat := 0
  via  : Nat := 0
  viaV : Bool := false
  seq  : Nat := 0
  ack  : Nat := 0
  nak  : Bool := false
  data : List Byte := []
  crc  : BitVec 32 := 0#32
deriving DecidableEq, Repr

/-- A PTP message (R417), by its messageType: 0 Sync, 1 Delay_Req, 2 Pdelay_Req, 3 Pdelay_Resp, 8 Follow_Up, 9 Delay_Resp,
10 Pdelay_Resp_Follow_Up, 11 Announce. `std` is 1 for IEEE 802.1AS; `ts` and `corr` are its timestamp and correction in ns, `src`
the sender's port identity, `req` that of the requester it answers, `rank` what an Announce is compared by, the best the least,
`ivl` the sender's message interval in cycles. -/
structure PtpMsg where
  type : Nat := 0
  std  : Nat := 0
  seq  : Nat := 0
  two  : Bool := false
  ts   : Int := 0
  corr : Int := 0
  src  : Nat := 0
  req  : Nat := 0
  rank : List Nat := []
  ivl  : Nat := 0
deriving DecidableEq, Repr

/-- An MKA message (R420): the sender's key server priority, whether it can be key server, the secure association key that it
distributes, with its number and whether it is for GCM-AES-XPN-256, and its integrity check. -/
structure Mka where
  prio : Nat := 255
  able : Bool := true
  sak  : Option (List Byte × Nat × Bool) := none
  icv  : List Byte := []
deriving DecidableEq, Repr

/-- What a frame carries (R409): a UDP datagram with its addresses (4 bytes IPv4, 16 bytes IPv6) and ports; an echo request or
reply of ICMP or ICMPv6; ARP or neighbour discovery, with the sender's and the target's address and the sender's MAC address; MKA;
PTP; anything else. -/
inductive Pay where
  | udp (src dst : List Byte) (sport dport : Nat) (data : List Byte)
  | echo (src dst : List Byte) (reply : Bool) (data : List Byte)
  | resolve (src target : List Byte) (reply : Bool) (mac : List Byte)
  | mka (m : Mka)
  | ptp (m : PtpMsg)
  | other (data : List Byte)
deriving DecidableEq, Repr

/-- The MACsec tag and check of a frame (R420): association number, packet number, integrity check. -/
structure SecTag where
  an  : Nat := 0
  pn  : Nat := 0
  icv : List Byte := []
deriving DecidableEq, Repr

/-- A frame at a host port (R409, R420): the port, its MAC addresses, its protection, what it carries. -/
structure Frame where
  port : Nat := 0
  dst  : List Byte := []
  src  : List Byte := []
  sec  : Option SecTag := none
  pay  : Pay := .other []
deriving DecidableEq, Repr

/-- Where a request came from and a reply goes (R411): the client's MAC and network addresses, the device's own address, the client's UDP port. -/
structure Client where
  mac   : List Byte := []
  ip    : List Byte := []
  own   : List Byte := []
  uport : Nat := 0
deriving DecidableEq, Repr

/-- The secure channels of a protected port (R420): the key, its number, whether its packet numbers have 64 bits, the packet numbers last received and sent. -/
structure Macsec where
  key  : List Byte := []
  an   : Nat := 0
  xpn  : Bool := false
  rxPn : Nat := 0
  txPn : Nat := 0
deriving DecidableEq, Repr

/-- An error that strikes storage from outside (R187, R465, R481): uncorrectable, in the 64 bytes of HBM or of a pad from an address
on, in those of the tile registers, in an accumulator, a cell of a B block or a word of an instruction memory (an agent's); a
single-bit error in such a word; one in other storage, which is corrected. -/
inductive Err where
  | hbm (unit : Nat) | pad (core line : Nat) | tile (core line : Nat) | acc (core row col : Nat) | cell (core blk key : Nat)
  | imem (ag addr : Nat) | word (ag addr : Nat) | fixed
deriving DecidableEq, Repr

/-- What the outside world supplies to a device step: a frame, a flit and its port, a measured value; and the errors that have struck
storage by then. -/
structure Arg where
  frame : Frame := {}
  flit  : Flit := {}
  port  : Nat := 0
  val   : Int := 0
  ok    : Bool := false
  errs  : List Err := []
deriving DecidableEq, Repr

/-- What the device has sent to the outside world. -/
inductive Out where
  | frame (f : Frame) | flit (port : Nat) (f : Flit)
deriving DecidableEq, Repr

/-- A page-table walk that a translation miss started (R67, R75): the agents of one die that wait for it, the address, context
and generation, and the result once it fails: its MFC, which no buffer keeps (R71). -/
structure Walk where
  ags : List Nat
  va  : Nat
  ctx : Nat
  gen : BitVec 16
  res : Option Nat := none
deriving DecidableEq, Repr

/-- A monitor (R483, R485): MONCFG, MONEDGE and its data. -/
structure Mon where
  cfg   : DWord := 0xff800000#64
  edge  : DWord := 1#64
  count : Nat := 0
  sum   : Int := 0
  min   : Int := 0x7FFFFFFF
  max   : Int := -0x80000000
  bins  : Map Nat := []
  sat   : Bool := false
deriving DecidableEq, Repr

/-- A sample on its way into the monitors of a die (R484, R485): source, sub-selector, core, value. -/
structure Sample where
  src  : Nat
  sub  : Nat
  core : Nat
  val  : Int
deriving DecidableEq, Repr

/-- A tile or gang that the walker has dealt and that has not yet arrived (R385, R386): the core of each entry. -/
structure Deal where
  ents : List (Nat × DqEnt)
deriving DecidableEq, Repr

/-- A die (R13): its walker, its Director's registers (R383, R401, R424, R426, R435), its monitors, its translation
buffer. `waiting` are the events that wait for the ring; `samples` those that wait for the monitors. -/
structure Die where
  ageQ    : Nat := 1500000
  delta   : Nat := 4
  items   : List Item := []
  lastCore : Option Nat := none
  lastCluster : Option Nat := none
  deals   : List Deal := []
  dtvec   : Nat := 0
  ctxsel  : Nat := 0
  evBase  : Nat := 0
  evEn    : Bool := false
  evHead  : BitVec 32 := 0#32
  evTail  : BitVec 32 := 0#32
  evStalls : Nat := 0
  waiting : List (Event × Bool) := []
  barsel  : Nat := 0
  semsel  : Nat := 0
  brsel   : Nat := 0
  plsel   : Nat := 0
  plroute : Nat := 0
  monsel  : Nat := 0
  mons    : Map Mon := []
  samples : List Sample := []
  tick    : Nat := 0
  tlb     : List Tlb := []
  imem    : Map Word := []
  ibad    : List Nat := []
  icorr   : List Nat := []
deriving DecidableEq, Repr

/-- A module of the die bridge (R426, R427). `st` is STATE; `busy` a PAUSE (false) or RETRAIN (true) under way since a
cycle; `held` the flits that await retry. -/
structure BrMod where
  st     : Nat := 0
  width  : Nat := 0
  err    : Bool := false
  spares : Nat := 0
  count  : Nat := 0
  crcerr : Nat := 0
  repair : BitVec 32 := 0#32
  busy   : Option (Bool × Nat) := none
  held   : Nat := 0
deriving DecidableEq, Repr

/-- A peer port (R422, R424). `st` is STATE; `replay` the flits sent and not acknowledged, the oldest first; `txq` the flits that
wait to be sent, while the port trains or the replay buffer is full; `resends` the resends of its oldest flit without progress. -/
structure Peer where
  st       : Nat := 0
  retries  : Nat := 0
  retrains : Nat := 0
  crcs     : Nat := 0
  txSeq    : Nat := 0
  rxSeq    : Nat := 0
  nakSent  : Bool := false
  replay   : List Flit := []
  txq      : List Flit := []
  resends  : Nat := 0
  since    : Nat := 0
  dropped  : Nat := 0
deriving DecidableEq, Repr

/-- A request to another device that has had no response (R423): its number, slot, the cycle of sending, and who waits:
a context's strong access, with its address-space context, or an element of a gather command (core, command, element). -/
structure PeerReq where
  id   : Nat
  slot : Nat
  at_  : Nat
  ag   : Option Nat
  gath : Option (Nat × Nat × Nat)
  ctx  : Option Nat := none
deriving DecidableEq, Repr

/-- An ECP session (R411, R412, R416). `busy` holds the request under execution; `reply` the stored reply; `port` and `src`
where its last request came from. -/
structure Sess where
  last  : Nat := 0
  busy  : Bool := false
  reply : List Frame := []
  mask  : Nat := 0
  at_   : Nat := 0
  evs   : Nat := 0
  port  : Nat := 0
  src   : Client := {}
deriving DecidableEq, Repr

/-- An ECP request whose reply follows its completion: session, SEQ, OP, SSEQ, port and client, the context or the handle that it
waits for (R413). Session 0: the session has ended, and no reply follows. -/
structure EcpWait where
  sess : Nat
  seq  : Nat
  op   : Nat
  sseq : Nat
  port : Nat
  src  : Client
  ctx  : Nat
deriving DecidableEq, Repr

/-- An image that a session is staging (R415): IMG, CTX, DATAVA and bytes. -/
structure Stage where
  img  : Nat
  ctx  : Nat
  dva  : Nat
  body : List Byte
deriving DecidableEq, Repr

/-- What PTP has heard at a host port (R417, R419): the master that it follows and its rank, the cycle of its last message and its
message interval; the Sync that waits for its Follow_Up; the last pair of master and device timestamps; the delay request under
way and its timestamps; the measured path delay. -/
structure PtpPort where
  src   : Option Nat := none
  rank  : List Nat := []
  at_   : Nat := 0
  ivl   : Nat := 1500000000
  sync  : Option (Nat × Int) := none
  pair  : Option (Int × Int) := none
  seq   : Nat := 0
  req   : Option (Nat × Int) := none
  resp  : Option (Int × Int) := none
  delay : Option Int := none
deriving DecidableEq, Repr

/-- The PTP registers and servo (R418, R419); `good` and `bad` count intervals, `freq` is the frequency correction in ns per second
and `frac` the part of a nanosecond that it has gathered, in 3 × 10^9ths. -/
structure Ptp where
  stepthr : Nat := 1000000
  port    : Nat := 2
  profile : Nat := 0
  en      : Bool := false
  syncs   : Nat := 0
  actport : Nat := 0
  lock    : Nat := 0
  ofs     : Int := 0
  good    : Nat := 0
  bad     : Nat := 0
  freq    : Int := 0
  frac    : Int := 0
  ports   : Map PtpPort := []
deriving DecidableEq, Repr

/-- A scoresheet entry (R480). -/
structure Score where
  sseq    : Nat
  tacc    : Nat
  tdone   : Nat := 0
  sess    : Nat := 0
  origin  : Nat := 0
  op      : Nat := 0
  st      : Nat := 0
  status  : Nat := 0
  outcome : Nat := 0
  result  : List Byte := []
  digest  : List Byte := []
deriving DecidableEq, Repr

/-- The counters of the health record (R481). -/
structure Health where
  boots     : Nat := 0
  wresets   : Nat := 0
  adjourns  : Nat := 0
  corrected : Nat := 0
  uncorr    : Nat := 0
  rollbacks : Nat := 0
  mismatch  : Nat := 0
  dropped   : Nat := 0
  fetchAhead : List (Nat × Nat × Nat) := []
  retired   : List Nat := []
deriving DecidableEq, Repr

/-- The phases of the module's power (R475 to R479, R493): without power, booting under R493, running, adjourning, and
adjourned. -/
inductive Phase where
  | off | boot | run | adjourning | adjourned
deriving DecidableEq, Repr

/-- A signature as the model holds it: the public key that it verifies under, and the version and digest of the header that it was
made over (R429). -/
structure Sig where
  key    : List Byte := []
  ver    : Nat := 0
  digest : List Byte := []
deriving DecidableEq, Repr

/-- A signed package (R428, R429): both public keys, both signatures, the version and digest of its header, its body; for firmware,
the digests of the keys that it names for the configuration record. -/
structure Pkg where
  edKey  : List Byte := []
  mlKey  : List Byte := []
  ed     : Sig := {}
  ml     : Sig := {}
  ver    : Nat := 0
  digest : List Byte := []
  body   : List Byte := []
  names  : List Byte × List Byte := ([], [])
deriving DecidableEq, Repr

/-- The signed configuration record (R409, R418, R420, R423): its package, the MAC and network addresses of each host port, slot,
routes, and whether each host port is protected and lets PTP frames past, with the key of MKA. `valid` is the outcome of R429 at the last boot. -/
structure Record where
  valid  : Bool := true
  pkg    : Pkg := {}
  slot   : Nat := 0
  routes : Map (BitVec 16) := []
  mac    : Map (List Byte) := []
  ips    : Map (List (List Byte)) := []
  cak    : List Byte := []
  ptpcfg : DWord := 0x000f424000000080#64
  prot   : Map Bool := []
  ptpOpen : Bool := false
  cert   : List Byte := []
deriving DecidableEq, Repr

/-- The handler record of a core that an adjournment saved (R475): the run, its context, the start requests. -/
structure HdlRec where
  core   : Nat
  run    : Option HStart
  ctx    : Ctx
  starts : List HStart
deriving DecidableEq, Repr

/-- The sealed copy and the journal in the module store (R428, R478, R480): the seal counter of the copy, the tables
and the save areas. -/
structure Sealed where
  counter : Nat
  nixCtr  : Nat
  nixWrap : Bool
  regCtr  : Nat
  insts   : List Inst
  ctxTab  : Map CtxEnt
  images  : List Image
  clocks  : Map Clk
  items   : Map (List Item)
  score   : Map Score
  hdls    : List HdlRec
  mem     : Map Byte
deriving DecidableEq, Repr

/-- Why the machine stops. -/
inductive Fault where
  /-- Raised by a meaning when the context that is to issue (`State.cur`) does not exist or is not running: the spec
  issues no instruction there. Safe: the machine stops where the hardware has no step. -/
  | noContext
deriving DecidableEq, Repr

/-- Why a meaning is missing. -/
inductive Refusal where
  /-- Raised by `exec` for an instruction that has no meaning yet. Safe: nothing can be proved of it. -/
  | notModelled (mnemonic : String)
deriving DecidableEq, Repr

/-- The whole module. `cur` is the agent that issues, or issued last: core × 4 + 0 LA, 1 EX, 2 SA, 3 handler; 1536 + die
for a Director (the model's own, as are `arg`, `inputs`, `out`, `csrq`, `free`, and the counters of the model's requests).
`mem` holds the device's HBM by physical address within the slot's numbering of R64. -/
structure State where
  cycle   : Nat := 0
  /-- `cycle` at the last warm reset: CYCLE counts from there (R101). -/
  cycBase : Nat := 0
  cur     : Nat := 1537
  /-- Whether the agent of the turn has issued or trapped (the model's own). -/
  issued  : Bool := true
  ctxs    : Map Ctx := []
  /-- The shadow state of each context's Second (R460). -/
  shadow  : Map Shadow := []
  cores   : Map Core := []
  clusters : Map Cluster := []
  dies    : Map Die := []
  mem     : Map Byte := []
  /-- The bytes of HBM that hold an uncorrectable error (R465). -/
  poison  : List Nat := []
  ctxTab  : Map CtxEnt := []
  insts   : List Inst := []
  nixCtr  : Nat := 1
  nixWrap : Bool := false
  images  : List Image := []
  regCtr  : Nat := 0
  stages  : Map Stage := []
  clkErr  : Bool := false
  clkIdx  : Nat := 0
  clkRec  : BitVec 512 := 0#512
  clocks  : Map Clk := []
  /-- Row updates of ORDERED tables of this device that wait; the CLOSEs that have come, as TID, slot and epoch (R349); the
  generations of unbound handles (R342); gather requests of other devices and returned rows that wait to be taken; the count of
  acceptances. -/
  oupd    : List OUpd := []
  oclose  : List (Nat × Nat × Nat) := []
  ghosts  : List Ghost := []
  gathIn  : List (Nat × List Nat) := []
  gathRet : List (Nat × Nat × Nat × Nat × List Nat) := []
  gathCtr : Nat := 0
  walks   : List Walk := []
  timeOfs : Int := 0
  ptp     : Ptp := {}
  sess    : Map Sess := []
  ecpq    : List EcpWait := []
  sseq    : Nat := 1
  score   : Map Score := []
  health  : Health := {}
  phase   : Phase := .boot
  /-- The cause of the adjournment was a command (R477). -/
  byCmd   : Bool := false
  /-- Power came back before the adjournment was complete (R477). -/
  back    : Bool := false
  full    : Bool := false
  bootFail : Bool := false
  sealed  : Option Sealed := none
  journal : Map Score := []
  sealCtr : Nat := 0
  record  : Record := {}
  /-- The module store's boot and configuration regions and its version floors (R428); the digests in the ROM (R429); the package of the
  firmware that runs. -/
  recPrev : Option Record := none
  slotA   : Option Pkg := none
  slotB   : Option Pkg := none
  fwFloor : Nat := 0
  recFloor : Nat := 0
  romEd   : List Byte := []
  romMl   : List Byte := []
  fwPkg   : Option Pkg := none
  fwVer   : Nat := 0
  fwText  : Map Word := []
  fwData  : List Byte := []
  hdls    : List HdlRec := []
  macsec  : Map Macsec := []
  bridge  : Map BrMod := []
  brHit   : BitVec 32 := 0#32
  brThr   : Nat := 0xFFFFFFFF
  peers   : Map Peer := []
  routes  : Map (BitVec 16) := []
  preqs   : List PeerReq := []
  preqCtr : Nat := 0
  flitDrop : Nat := 0
  /-- The parts of messages of other devices that have come, by type and slot (the model's own). -/
  parts   : Map (List Byte) := []
  /-- An uncorrectable error that no job, handler run or core owns (R473). -/
  wres    : Bool := false
  /-- CSR writes that have issued and take effect in a step of their own: agent, CSR, value (R147, R436). -/
  csrq    : List (Nat × Nat × DWord) := []
  arg     : Arg := {}
  inputs  : List (Instr × Arg) := []
  out     : List Out := []
  free    : Nat := 0
deriving DecidableEq, Repr

/-- A Director's context at reset: it runs from address 0 of its firmware (R429, R432). -/
def Ctx.director : Ctx := { run := .run }

/-- The module right after reset: every field at the reset value of the rule that names it, both Directors at address 0,
no job and no image; memory lists nothing. -/
def State.reset : State :=
  { ctxs := [(1536, Ctx.director), (1537, Ctx.director)] }

end Sys2Proof.Machine
end

