-- ==== Sys2Proof/Machine/Ops.lean ====
section
/-! DEFINITION. The operations that every meaning shares: the agents and their units, registers and predicates, tokens,
translation and memory, the pad, taking a trap, the safe points, and `issue`, which is what every instruction does around its
own effect (R17, R108, R122 to R124, R151, R152, R181, R185). -/

namespace Sys2Proof.Machine

/-- The result of a step. -/
abbrev Out1 := Host.Outcome State Fault Refusal

/-! ### Agents, cores, clusters, dies (R11, R494) -/

/-- The core of an agent number. -/
def agCore (ag : Nat) : Nat := ag / 4

/-- The engine of an agent number. -/
def agEng (ag : Nat) : Eng :=
  if 1536 ≤ ag then .dir
  else match ag % 4 with
    | 0 => .la
    | 1 => .ex
    | 2 => .sa
    | _ => .hdl

/-- The number of an engine in CAUSE.ENG (R182). -/
def Eng.num : Eng → Nat
  | .la => 0 | .ex => 1 | .sa => 2 | .hdl => 3 | .dir => 4

/-- The die of a core (R11). -/
def coreDie (c : Nat) : Nat := c / 192

/-- The file of a core (R11). -/
def coreFile (c : Nat) : Nat := c % 12

/-- The rank of a core (R11). -/
def coreRank (c : Nat) : Nat := c % 192 / 12

/-- The cluster of a core within its die (R11). -/
def coreCluster (c : Nat) : Nat := coreFile c / 2 + 6 * (coreRank c / 4)

/-- The position of a core in its cluster (R11). -/
def corePos (c : Nat) : Nat := coreFile c % 2 + 2 * (coreRank c % 4)

/-- The device-wide number of a core's cluster (R11). -/
def devCluster (c : Nat) : Nat := coreDie c * 24 + coreCluster c

/-- The core at a position of a device cluster (R11). -/
def clusterCore (k p : Nat) : Nat :=
  k / 24 * 192 + (k % 24 / 6 * 4 + p / 2) * 12 + (k % 6 * 2 + p % 2)

/-- The die of an agent. -/
def agDie (ag : Nat) : Nat := if 1536 ≤ ag then ag - 1536 else coreDie (agCore ag)

/-- The context of an agent. -/
def State.ctx (s : State) (ag : Nat) : Ctx := mget {} s.ctxs ag

/-- Replaces the context of an agent. -/
def State.setCtx (s : State) (ag : Nat) (c : Ctx) : State := { s with ctxs := mset s.ctxs ag c }

/-- A core. -/
def State.core (s : State) (n : Nat) : Core := mget {} s.cores n

/-- Replaces a core. -/
def State.setCore (s : State) (n : Nat) (c : Core) : State := { s with cores := mset s.cores n c }

/-- A device cluster. -/
def State.clus (s : State) (n : Nat) : Cluster := mget {} s.clusters n

/-- Replaces a device cluster. -/
def State.setClus (s : State) (n : Nat) (c : Cluster) : State := { s with clusters := mset s.clusters n c }

/-- A die. -/
def State.die (s : State) (n : Nat) : Die := mget {} s.dies n

/-- Replaces a die. -/
def State.setDie (s : State) (n : Nat) (d : Die) : State := { s with dies := mset s.dies n d }

/-- The context that issues. -/
def State.me (s : State) : Ctx := s.ctx s.cur

/-- Replaces the context that issues. -/
def State.setMe (s : State) (c : Ctx) : State := s.setCtx s.cur c

/-- The core of the context that issues. -/
def State.myCore (s : State) : Core := s.core (agCore s.cur)

/-- Replaces the core of the context that issues. -/
def State.setMyCore (s : State) (c : Core) : State := s.setCore (agCore s.cur) c

/-- An address-space context. -/
def State.ctxEnt (s : State) (n : Nat) : CtxEnt := mget {} s.ctxTab n

/-- Replaces an address-space context. -/
def State.setCtxEnt (s : State) (n : Nat) (e : CtxEnt) : State := { s with ctxTab := mset s.ctxTab n e }

/-! ### Time, identity and events -/

/-- TIME (R399): nanoseconds, at 2/3 ns for each cycle. -/
def State.time (s : State) : Nat := (((s.cycle * 2 / 3 : Nat) : Int) + s.timeOfs).toNat % 2 ^ 64

/-- The context and generation of an agent's member (R77, R100, R433). -/
def ctxOf (s : State) (ag : Nat) : Nat × BitVec 16 :=
  match agEng ag with
  | .dir => (0, 0#16)
  | .hdl =>
    match (s.core (agCore ag)).hrun with
    | some h => (h.ctx, h.gen)
    | none => (0, 0#16)
  | _ =>
    match (s.core (agCore ag)).job with
    | some j => (j.ctx, j.gen)
    | none => (0, 0#16)

/-- CTXID (R100). -/
def ctxId (s : State) (ag : Nat) : DWord :=
  match agEng ag with
  | .dir => 0x8000000000000000#64
  | _ => BitVec.ofNat 64 ((ctxOf s ag).2.toNat * 2 ^ 32 + (ctxOf s ag).1 % 64)

/-- JOBID of the job that a core runs (R378). -/
def jobIdOf (s : State) (core : Nat) : DWord :=
  match (s.core core).job with
  | some j => BitVec.ofNat 64 (j.nix % 2 ^ 32 * 2 ^ 32 + j.tile % 2 ^ 32)
  | none => 0#64

/-- JOBID as an agent reads it (R103, R378). -/
def jobId (s : State) (ag : Nat) : DWord :=
  match agEng ag with
  | .dir => 0#64
  | _ => jobIdOf s (agCore ag)

/-- COREID of a core (R12). -/
def coreIdOf (c : Nat) : DWord :=
  BitVec.ofNat 64 (c * 2 ^ 23 + corePos c * 2 ^ 20 + coreCluster c * 2 ^ 15 + coreDie c * 2 ^ 8
    + coreRank c * 2 ^ 4 + coreFile c)

/-- COREID as an agent reads it (R12). -/
def coreId (ag : Nat) : DWord :=
  match agEng ag with
  | .dir => BitVec.ofNat 64 (agDie ag * 2 ^ 8)
  | _ => coreIdOf (agCore ag)

/-- An event reaches the waiting events of a Director (R437). -/
def raiseEvent (s : State) (die ty core : Nat) (body : List Byte) : State :=
  let d := s.die die
  s.setDie die { d with waiting := d.waiting ++ [({ ty := ty, core := core, time := s.time, body := body }, false)] }

/-- Whether a monitor of the die records a source (R483, R484). -/
def wantsSample (d : Die) (src sub core : Nat) : Bool :=
  d.mons.any fun p =>
    p.2.cfg.getLsbD 0 && decide ((p.2.cfg.extractLsb' 8 8).toNat = src)
      && decide ((p.2.cfg.extractLsb' 20 3).toNat = sub ∨ (src = 3 ∧ (p.2.cfg.extractLsb' 20 3).toNat = 7))
      && (decide ((p.2.cfg.extractLsb' 23 9).toNat = 0x1FF) || decide ((p.2.cfg.extractLsb' 23 9).toNat = core)
        || decide (src ≠ 4 ∧ src ≠ 5 ∧ src ≠ 9))

/-- An event source yields a sample (R484). -/
def addSample (s : State) (die src sub core : Nat) (v : Int) : State :=
  if wantsSample (s.die die) src sub core then
    s.setDie die { s.die die with samples := (s.die die).samples ++ [{ src := src, sub := sub, core := core, val := v }] }
  else s

/-! ### Registers and predicates (R109, R136) -/

/-- A scalar register as a later instruction of the context reads it (R138): 0 for register 0, the value of a load that is
still to be written, or the register. -/
def Ctx.reg (c : Ctx) (n : Nat) : DWord :=
  if n = 0 then 0#64
  else match c.loads.find? (fun l => decide (l.rd = n)) with
    | some l => l.val.getD 0#64
    | none => mget 0#64 c.regs n

/-- The outstanding loads of which none is to write a register any more (R138): they stay outstanding (R140). -/
def orphan (n : Nat) (l : List Load) : List Load := l.map fun x => if x.rd = n then { x with rd := 0 } else x

/-- Writes a scalar register; a write of register 0 is discarded. -/
def Ctx.setReg (c : Ctx) (n : Nat) (v : DWord) : Ctx :=
  if n = 0 then c
  else { c with regs := mput 0#64 c.regs n v, loads := orphan n c.loads }

/-- A predicate; q0 reads true (R122). -/
def Ctx.pred (c : Ctx) (n : Nat) : Bool := decide (n = 0) || c.q.getLsbD n

/-- Writes a predicate; a write of q0 is discarded (R144). -/
def Ctx.setPred (c : Ctx) (n : Nat) (b : Bool) : Ctx :=
  if n = 0 then c
  else { c with q := if b then c.q ||| BitVec.twoPow 128 n else c.q &&& ~~~(BitVec.twoPow 128 n) }

/-- A scalar register of the context that issues. -/
def getR (s : State) (n : Nat) : DWord := s.me.reg n

/-- Writes a scalar register of the context that issues. -/
def setR (s : State) (n : Nat) (v : DWord) : State := s.setMe (s.me.setReg n v)

/-- Writes a predicate of the context that issues. -/
def setP (s : State) (n : Nat) (b : Bool) : State := s.setMe (s.me.setPred n b)

/-! ### The recovery log (R463, R464, R467) -/

/-- The tag of a checkpoint: k with the activation of its LOOPSP. -/
def Ckpt.tag (k : Ckpt) : Nat := k.act * 2 ^ 32 + k.k

/-- The tag under which an engine acts: that of its latest checkpoint (R463). -/
def tagOf (c : Core) (eng : Nat) : Option Nat :=
  (c.ckpts.reverse.find? fun k => decide (k.eng = eng)).map Ckpt.tag

/-- Keeps the newest 1,024 events; when the oldest is dropped every checkpoint older than the next event is unusable
(R464). -/
def trimLog (c : Core) : Core :=
  if c.rb.log.length ≤ 1024 then c
  else
    { c with rb := { c.rb with log := c.rb.log.drop 1, lost := c.rb.lost + 1 },
             ckpts := c.ckpts.map fun k => if k.pos ≤ c.rb.lost + 1 then { k with ok := false } else k }

/-- The event log reaches back to the oldest checkpoint of the core, the MX undo log to EX's oldest (R464). -/
def pruneRecs (c : Core) : Core :=
  let n := match c.ckpts with
    | [] => c.rb.log.length
    | k :: t => t.foldl (fun m x => min m x.pos) k.pos - c.rb.lost
  let m := match (c.ckpts.find? fun k => decide (k.eng = 1)) with
    | some k => c.rb.undo.filter fun u => decide (k.tag ≤ u.1)
    | none => []
  { c with rb := { c.rb with log := c.rb.log.drop n, lost := c.rb.lost + n, undo := m } }

/-- Records an event of an engine under its tag. -/
def logEv (c : Core) (eng kind idx : Nat) (data : List Nat) : Core :=
  match tagOf c eng with
  | none => c
  | some k => trimLog { c with rb := { c.rb with log := c.rb.log ++ [{ eng := eng, tag := k, kind := kind, idx := idx, data := data }] } }

/-- Records an event of EX under the tag of a command's push (R464). -/
def logAs (c : Core) (tag : Option Nat) (kind idx : Nat) (data : List Nat) : Core :=
  match tag with
  | none => c
  | some k => trimLog { c with rb := { c.rb with log := c.rb.log ++ [{ eng := 1, tag := k, kind := kind, idx := idx, data := data }] } }

/-- Records an action that cannot be replayed (R467), also for a job restart and for a handler run (R469). -/
def irrevEv (c : Core) (eng : Nat) : Core :=
  let c1 := logEv c eng 9 0 []
  if eng = 3 then { c1 with rb := { c1.rb with handler := true } }
  else { c1 with rb := { c1.rb with irrev := true } }

/-- Records that the job has written a pad byte, a B block or an accumulator (R469); a handler's STP counts for its run. -/
def wroteEv (c : Core) (eng : Nat) : Core :=
  if eng = 3 then { c with rb := { c.rb with handler := true } }
  else { c with rb := { c.rb with wrote := true } }

/-- The issuing context takes an action of R467. -/
def irrevMe (s : State) : State :=
  match agEng s.cur with
  | .dir => s
  | e => s.setMyCore (irrevEv s.myCore e.num)

/-! ### Token queues (R16, R17) -/

/-- The queue from the predecessor, from the successor, toward the predecessor, toward the successor, by engine. -/
def ringQ (e : Eng) : Nat × Nat × Nat × Nat :=
  match e with
  | .la => (2, 3, 5, 0)
  | .ex => (0, 4, 3, 1)
  | _ => (1, 5, 4, 2)

/-- The queues that a RING nibble waits on. -/
def ringWaits (e : Eng) (r : Ring) : List Nat :=
  (if r.wp then [(ringQ e).1] else []) ++ (if r.wn then [(ringQ e).2.1] else [])

/-- The queues that a RING nibble signals. -/
def ringSigs (e : Eng) (r : Ring) : List Nat :=
  (if r.sp then [(ringQ e).2.2.1] else []) ++ (if r.sn then [(ringQ e).2.2.2] else [])

/-- The tokens of a queue. -/
def Core.toks (c : Core) (q : Nat) : Nat := mget 0 c.tok q

/-- Pops n tokens. -/
def popTok (c : Core) (eng q n : Nat) : Core :=
  logEv { c with tok := mput 0 c.tok q (c.toks q - n) } eng 1 q [n]

/-- Pushes n tokens. -/
def pushTok (c : Core) (eng q n : Nat) : Core :=
  logEv { c with tok := mput 0 c.tok q (c.toks q + n) } eng 0 q [n]

/-- Pushes the signalled tokens for which there is room; the others stay. -/
def flushSigs (c : Core) (eng : Nat) : List Nat → Core × List Nat
  | [] => (c, [])
  | q :: t =>
    if c.toks q < 16 then flushSigs (pushTok c eng q 1) eng t
    else ((flushSigs c eng t).1, q :: (flushSigs c eng t).2)

/-! ### Translation (R63, R64, R67 to R76) -/

/-- The failure of a physical address, 0 for none: No Memory and Remote Access (R64, R72, R73). -/
def physMfc (s : State) (pa : Nat) (sys : Bool) : Nat :=
  if pa / 2 ^ 40 = s.record.slot then (if 0xC000000000 ≤ pa % 2 ^ 40 then 7 else 0)
  else if !(mget 0#16 s.routes (pa / 2 ^ 40)).getLsbD 8 then 7
  else if sys then 0 else 6

/-- A page-table entry at a physical address. -/
def readPte (s : State) (pa : Nat) : BitVec 64 := BitVec.ofNat 64 (leNat (mgetN 0#8 s.mem (pa % 2 ^ 40) 8))

/-- The leaf checks of R69 and R70 and the translation of a leaf; `sh` is the log2 of the page size. -/
def walkLeaf (s : State) (base va idx sh lvl : Nat) (e : BitVec 64) : Nat ⊕ Tlb :=
  let ppn (x : BitVec 64) := (x.extractLsb' 12 34).toNat * 4096
  let e0 := readPte s (base + 8 * (idx / 16 * 16))
  if lvl = 0 ∨ ppn e % 2 ^ sh ≠ 0 then .inl 2
  else if e.getLsbD 3 then
    if !e0.getLsbD 0 || !e0.getLsbD 7 || !e0.getLsbD 3
        || decide (e0.getLsbD 63 ≠ e.getLsbD 63 ∨ e0.getLsbD 8 ≠ e.getLsbD 8 ∨ e0.getLsbD 6 ≠ e.getLsbD 6
          ∨ e0.getLsbD 1 ≠ e.getLsbD 1 ∨ ppn e0 % 2 ^ (sh + 4) ≠ 0) then .inl 3
    else if e.getLsbD 63 then .inl 5
    else .inr { va := va / 2 ^ (sh + 4) * 2 ^ (sh + 4), pa := ppn e0, size := 2 ^ (sh + 4), ctx := 0, gen := 0#16,
                g := e0.getLsbD 8, ret := false, w := e0.getLsbD 1 }
  else if e.getLsbD 63 then .inl 5
  else .inr { va := va / 2 ^ sh * 2 ^ sh, pa := ppn e, size := 2 ^ sh, ctx := 0, gen := 0#16, g := e.getLsbD 8,
              ret := false, w := e.getLsbD 1 }

/-- A page walk of the levels that are left (R67 to R70): an MFC or a translation. -/
def walkFrom (s : State) (va : Nat) : Nat → Nat → Nat ⊕ Tlb
  | 0, _ => .inl 2
  | n + 1, base =>
    let sh := 12 + 9 * n
    let idx := va / 2 ^ sh % 512
    let e := readPte s (base + 8 * idx)
    if !e.getLsbD 0 then .inl 1
    else if e.extractLsb' 46 17 ≠ 0#17 ∨ e.extractLsb' 4 2 ≠ 0#2 ∨ e.getLsbD 2 then .inl 2
    else if e.getLsbD 7 then walkLeaf s base va idx sh (3 - n) e
    else if n = 0 ∨ e.getLsbD 63 ∨ e.getLsbD 8 ∨ e.getLsbD 6 ∨ e.getLsbD 3 ∨ e.getLsbD 1 then .inl 2
    else
      let nxt := (e.extractLsb' 12 34).toNat * 4096
      if nxt / 2 ^ 40 ≠ s.record.slot ∨ 0xC000000000 ≤ nxt % 2 ^ 40 then .inl 2
      else walkFrom s va n nxt

/-- A walk in a context (R67, R441). -/
def walk (s : State) (ctx : Nat) (gen : BitVec 16) (va : Nat) : Nat ⊕ Tlb :=
  match walkFrom s va 4 (s.ctxEnt ctx).root with
  | .inl m => .inl m
  | .inr t => .inr { t with ctx := ctx, gen := gen }

/-- Whether a held translation serves an address of a context (R75). -/
def Tlb.hits (t : Tlb) (ctx : Nat) (gen : BitVec 16) (va : Nat) : Bool :=
  (t.g || (decide (t.ctx = ctx) && decide (t.gen = gen))) && decide (t.va ≤ va) && decide (va < t.va + t.size)

/-- The die of a path of translation buffers: that of a core, or 384 + die for the gather engines of a die (R75). -/
def pathDie (p : Nat) : Nat := if p < 384 then coreDie p else p - 384

/-- Looks an address up in the buffers on the path of a core, or in that of a die alone (R75). -/
def tlbLook (s : State) (core ctx : Nat) (gen : BitVec 16) (va : Nat) : Option Tlb :=
  if 384 ≤ core then (s.die (pathDie core)).tlb.find? fun t => t.hits ctx gen va
  else
  match (s.core core).tlb.find? (fun t => t.hits ctx gen va) with
  | some t => some t
  | none =>
    match (s.clus (devCluster core)).tlb.find? (fun t => t.hits ctx gen va) with
    | some t => some t
    | none => (s.die (coreDie core)).tlb.find? fun t => t.hits ctx gen va

/-- A translation enters a buffer of n entries that does not hold it yet. -/
def addTlb (n : Nat) (t : Tlb) (l : List Tlb) : List Tlb := if l.contains t then l else (t :: l).take n

/-- A completed walk fills the three levels on the path of its requester; each level drops its oldest entry when full
(R75). -/
def tlbFill (s : State) (core : Nat) (t : Tlb) : State :=
  if 384 ≤ core then
    s.setDie (pathDie core) { s.die (pathDie core) with tlb := addTlb 16384 t (s.die (pathDie core)).tlb }
  else
  let c := s.core core
  let s1 := s.setCore core { c with tlb := addTlb 64 t c.tlb }
  let k := s1.clus (devCluster core)
  let s2 := s1.setClus (devCluster core) { k with tlb := addTlb 1024 t k.tlb }
  let d := s2.die (coreDie core)
  s2.setDie (coreDie core) { d with tlb := addTlb 16384 t d.tlb }

/-- The end of a translation: the physical address, or the MFC (R72). -/
def tlbApply (s : State) (t : Tlb) (va : Nat) (w sys : Bool) : Nat ⊕ Nat :=
  let pa := t.pa + (va - t.va)
  if physMfc s pa sys ≠ 0 then .inl (physMfc s pa sys)
  else if w && !t.w then .inl 4
  else .inr pa

/-- What a translation gives a context: an address, a failure, or a miss that a walk must serve. -/
inductive TR where
  | ok (pa : Nat) | fail (mfc : Nat) | miss
deriving DecidableEq, Repr

/-- Whether an agent waits for a walk of an address in the context that it has now (R71, R75). -/
def Walk.waits (k : Walk) (s : State) (ag va : Nat) : Bool :=
  k.ags.contains ag && decide (k.va / 4096 = va / 4096 ∧ k.ctx = (ctxOf s ag).1 ∧ k.gen = (ctxOf s ag).2)

/-- Takes an agent out of the walks that it waits for: its access is not made, or walks again (R71). -/
def dropWalks (s : State) (ag : Nat) : State :=
  { s with walks := (s.walks.map fun k => { k with ags := k.ags.filter fun a => decide (a ≠ ag) }).filter
                      fun k => decide (k.ags ≠ []) }

/-- Translates an address for an agent (R63, R72, R432). -/
def xlate (s : State) (ag va : Nat) (w sys : Bool) : TR :=
  match agEng ag with
  | .dir =>
    if 2 ^ 46 ≤ va then .fail 8
    else if physMfc s va sys ≠ 0 then .fail (physMfc s va sys)
    else .ok va
  | _ =>
    if 2 ^ 48 ≤ va then .fail 8
    else
      match tlbLook s (agCore ag) (ctxOf s ag).1 (ctxOf s ag).2 va with
      | some t =>
        match tlbApply s t va w sys with
        | .inl m => .fail m
        | .inr pa => .ok pa
      | none =>
        match s.walks.find? (fun k => k.res.isSome && k.waits s ag va) with
        | some { res := some m, .. } => .fail m
        | _ => .miss

/-- Translates an address for an engine of a core at once: the walk, if one is needed, and its filling of the buffers are
part of the engine's step (R74, R75). -/
def xlateEng (s : State) (core ctx : Nat) (gen : BitVec 16) (va : Nat) (w : Bool) : (Nat ⊕ Nat) × State :=
  if 2 ^ 48 ≤ va then (.inl 8, s)
  else
    match tlbLook s core ctx gen va with
    | some t => (tlbApply s t va w false, s)
    | none =>
      match walk s ctx gen va with
      | .inl m => (.inl m, s)
      | .inr t => (tlbApply s t va w false, tlbFill s core t)

/-- What an access of several bytes gets: the physical address of each byte; a failure with the lowest byte in the failing
page (R161); the addresses that miss. -/
inductive AR where
  | ok (pas : List Nat) | fail (mfc va : Nat) | miss (vas : List Nat)
deriving DecidableEq, Repr

/-- The physical addresses of n bytes whose page (or two pages) are at p1 and p2. -/
def spread (ea n cut p1 p2 : Nat) : List Nat :=
  (List.range n).map fun i => if ea + i < cut then p1 + i else p2 + (ea + i - cut)

/-- Checks and translates an access of n bytes, 1 to 64, of an agent; the lower page comes first (R63, R74, R185). -/
def xlateN (s : State) (ag ea n : Nat) (w sys : Bool) : AR :=
  let cut := (ea / 4096 + 1) * 4096
  match xlate s ag ea w sys with
  | .fail m => .fail m ea
  | r1 =>
    if ea + n ≤ cut then
      match r1 with
      | .ok p => .ok (spread ea n cut p 0)
      | _ => .miss [ea]
    else
      match r1, xlate s ag (cut % 2 ^ 64) w sys with
      | .miss, _ => .miss [ea, cut]
      | _, .fail m => .fail m (cut % 2 ^ 64)
      | .ok p1, .ok p2 => .ok (spread ea n cut p1 p2)
      | _, _ => .miss [cut]

/-- The same for an engine of a core. -/
def xlateEngN (s : State) (core ctx : Nat) (gen : BitVec 16) (ea n : Nat) (w : Bool) : (Nat × Nat ⊕ List Nat) × State :=
  let cut := (ea / 4096 + 1) * 4096
  match xlateEng s core ctx gen ea w with
  | (.inl m, s1) => (.inl (m, ea), s1)
  | (.inr p1, s1) =>
    if ea + n ≤ cut then (.inr (spread ea n cut p1 0), s1)
    else
      match xlateEng s1 core ctx gen (cut % 2 ^ 64) w with
      | (.inl m, s2) => (.inl (m, cut % 2 ^ 64), s2)
      | (.inr p2, s2) => (.inr (spread ea n cut p1 p2), s2)

/-- Starts the walks that a miss needs; the misses of one page and context share one walk of their die (R75). -/
def startWalks (s : State) : List Nat → State
  | [] => s
  | va :: t =>
    let (cx, g) := ctxOf s s.cur
    let same (k : Walk) : Bool := k.res.isNone
      && decide (k.va / 4096 = va / 4096 ∧ k.ctx = cx ∧ k.gen = g ∧ agDie (k.ags.headD 0) = agDie s.cur)
    if s.walks.any (fun k => k.waits s s.cur va) then startWalks s t
    else if s.walks.any same then
      startWalks { s with walks := s.walks.map fun k => if same k then { k with ags := k.ags ++ [s.cur] } else k } t
    else startWalks { s with walks := s.walks ++ [{ ags := [s.cur], va := va, ctx := cx, gen := g }] } t

/-! ### The Second's shadow state (R460) -/

/-- The scalar state of a context, as the Second keeps it (R460). -/
def Shadow.of (c : Ctx) : Shadow :=
  { pc := c.pc, regs := c.regs, q := c.q, lc := c.lc, levels := c.levels, lspan := c.lspan, gOn := c.gOn, gRem := c.gRem }

/-- The shadow copy of a context: until the Second has re-executed an instruction of it, that of the context itself, from which
the Second has been loaded. -/
def shadowOf (s : State) (ag : Nat) : Shadow := mget (Shadow.of (s.ctx ag)) s.shadow ag

/-- The Second loads its shadow copy of a context from the context: at a start, a restore or a rollback (R462). -/
def reload (s : State) (ag : Nat) : State := { s with shadow := mdel s.shadow ag }

/-- A register value that an engine has received reaches its Second's copy (R460). -/
def Shadow.recv (h : Shadow) (n : Nat) (v : DWord) : Shadow := if n = 0 then h else { h with regs := mput 0#64 h.regs n v }

/-- A load's data reaches the Second's copy as it reaches the register (R460). -/
def recvAt (s : State) (ag n : Nat) (v : DWord) : State :=
  { s with shadow := s.shadow.map fun p => if p.1 = ag then (p.1, p.2.recv n v) else p }

/-! ### Memory (R79, R83, R84) -/

/-- The poisoned places among some without n of them from one on: what is written there holds no error (R465). -/
def cleanse (l : List Nat) (a n : Nat) : List Nat := l.filter fun x => decide (x < a ∨ a + n ≤ x)

/-- The poisoned places with n more from one on. -/
def spoil (l : List Nat) (a n : Nat) : List Nat := cleanse l a n ++ (List.range n).map fun i => a + i

/-- The byte of the device's memory at a physical address. -/
def memByte (s : State) (pa : Nat) : Byte := mget 0#8 s.mem (pa % 2 ^ 40)

/-- Writes a byte of the device's memory. -/
def putByte (s : State) (pa : Nat) (b : Byte) : State :=
  { s with mem := mput 0#8 s.mem (pa % 2 ^ 40) b, poison := cleanse s.poison (pa % 2 ^ 40) 1 }

/-- Writes bytes at physical addresses, in order. -/
def putBytes (s : State) : List (Nat × Byte) → State
  | [] => s
  | (pa, b) :: t => putBytes (putByte s pa b) t

/-- n bytes of memory from a physical address on. -/
def memN (s : State) (pa n : Nat) : List Byte := mgetN 0#8 s.mem (pa % 2 ^ 40) n

/-- Writes bytes from a physical address on. -/
def putN (s : State) (pa : Nat) (bs : List Byte) : State :=
  { s with mem := mputN 0#8 s.mem (pa % 2 ^ 40) bs, poison := cleanse s.poison (pa % 2 ^ 40) bs.length }

/-- The newest byte that a list of held stores, the oldest first, gives an address. -/
def heldByte (pa : Nat) : List Store → Option Byte
  | [] => none
  | st :: t =>
    match heldByte pa t with
    | some b => some b
    | none => (st.bytes.reverse.find? fun p => decide (p.1 % 2 ^ 40 = pa % 2 ^ 40)).map fun p => p.2

/-- A byte of memory as a member sees it that does not see yet what its own engine commands have written there (R81). -/
def veiled (c : Ctx) (pa : Nat) (b : Byte) : Byte :=
  match c.veil.find? fun v => decide (v.pa = pa % 2 ^ 40 ∧ v.new = b) with
  | some v => v.old
  | none => b

/-- A byte as an agent's own loads see it: its own held store, else memory, but for what its own engine commands have written
since its last publish point and whose reply it has not popped (R81, R83). -/
def viewByte (s : State) (ag pa : Nat) : Byte :=
  (heldByte pa (s.ctx ag).stores).getD (veiled (s.ctx ag) pa (memByte s pa))

/-- An engine command of a member writes bytes of memory (R77, R81): they are in memory at once, and the member's loads go on to
see what they saw. `s` is the state before the write; the writes of another job or run than the member's are no concern of it. -/
def veilWrite (s : State) (ag ctx : Nat) (gen : BitVec 16) (tag : Option Nat) (bs : List (Nat × Byte)) (t : State) : State :=
  if ctxOf s ag ≠ (ctx, gen) then t
  else
    let c := t.ctx ag
    t.setCtx ag { c with veil := bs.foldl (fun l p =>
      let old := veiled (s.ctx ag) p.1 (memByte s p.1)
      { pa := p.1 % 2 ^ 40, old := old, new := p.2, tag := tag } :: l.filter fun v => decide (v.pa ≠ p.1 % 2 ^ 40)) c.veil }

/-- The pop of a reply makes the writes of its command visible to the member that pops it (R80). -/
def unveil (c : Ctx) (tag : Nat) : Ctx := { c with veil := c.veil.filter fun v => decide (v.tag ≠ some tag) }

/-- Performs the held stores of an agent, in order: a publish point, or a push to an engine (R79, R94). -/
def performStores (s : State) (ag : Nat) : State :=
  let c := s.ctx ag
  (putBytes s (c.stores.flatMap fun st => st.bytes)).setCtx ag { c with stores := [], veil := [] }

/-- A publish point of the issuing context. -/
def publish (s : State) : State := if s.me.stores = [] ∧ s.me.veil = [] then s else performStores s s.cur

/-- The unit of 64 bytes of the first poisoned byte among some physical addresses, if any (R465). -/
def poisonAt (s : State) (pas : List Nat) : Option Nat :=
  (pas.find? fun pa => s.poison.contains (pa % 2 ^ 40)).map fun pa => pa / 64

/-- The unit of the first poisoned byte among n of memory from an address on, if any. -/
def memPoison (s : State) (a n : Nat) : Option Nat :=
  if s.poison = [] then none else poisonAt s ((List.range n).map fun i => a + i)

/-- Bytes of memory are poisoned if the data written there was: poison travels with the data (R465). -/
def taintMem (s : State) (bad : Bool) (pas : List Nat) : State :=
  if bad then { s with poison := pas.foldl (fun l pa => spoil l (pa % 2 ^ 40) 1) s.poison } else s

/-! ### The pad (R66) -/

/-- n bytes of a pad. -/
def Core.padN (c : Core) (off n : Nat) : List Byte := mgetN 0#8 c.pad off n

/-- Writes bytes of a pad. -/
def Core.putPad (c : Core) (off : Nat) (bs : List Byte) : Core :=
  { c with pad := mputN 0#8 c.pad off bs, poison := cleanse c.poison off bs.length }

/-- The full/empty bit of a line (R164): true for full. -/
def Core.feOf (c : Core) (line : Nat) : Bool := mget false c.fe (line / 64)

/-- Sets the full/empty bit of a line. -/
def Core.setFe (c : Core) (line : Nat) (b : Bool) : Core := { c with fe := mput false c.fe (line / 64) b }

/-- The line of the first poisoned byte among n pad bytes, if any (R465). -/
def padPoison (c : Core) (off n : Nat) : Option Nat :=
  (c.poison.find? fun x => decide (off ≤ x ∧ x < off + n)).map fun x => x / 64

/-- n pad bytes are poisoned if the data written there was: poison travels with the data (R465). -/
def taintPad (c : Core) (bad : Bool) (off n : Nat) : Core := if bad then { c with poison := spoil c.poison off n } else c

/-- The places of the poisoned bytes among n of the pad. -/
def badPad (c : Core) (off n : Nat) : List Nat :=
  if c.poison = [] then [] else (List.range n).filter fun i => c.poison.contains (off + i)

/-! ### Items for the Second (R27, R461) -/

/-- An outbound item of a core: its number, and the core with the item among those still to be matched. -/
def newItem (c : Core) : Nat × Core :=
  (c.nextId, { c with nextId := c.nextId + 1, secq := c.secq ++ [c.nextId] })

/-- Whether the Second has matched an item. -/
def matched (c : Core) (id : Nat) : Bool := !(c.secq.contains id)

/-! ### Traps (R181 to R186, R434) -/

/-- CAUSE (R182). -/
def causeWord (imp : Bool) (eng mfc code : Nat) : DWord :=
  BitVec.ofNat 64 ((if imp then 2 ^ 31 else 0) + eng * 2 ^ 28 + mfc * 2 ^ 24 + code)

/-- Takes an agent out of every line it waits in (R252); a counted BARW keeps PEND. -/
def leaveLines (s : State) (ag : Nat) : State :=
  let c := s.ctx ag
  let drop (p : Nat) :=
    let k := s.core (agCore ag)
    let m := mget {} k.sems p
    (s.setCore (agCore ag) { k with sems := mset k.sems p { m with line := m.line.filter fun e => decide (e.1 ≠ ag) } })
  match c.wait with
  | .sem p => (drop p).setCtx ag { c with wait := .none, ans := none }
  | .semt p _ => (drop p).setCtx ag { c with wait := .none, ans := none }
  | .barwa _ _ => s.setCtx ag { c with wait := .none, ans := none }
  | .port _ => s.setCtx ag { c with wait := .none, ans := none }
  | _ => s

/-- Whether a context is inside an instruction that has issued and is not complete, which nothing interrupts: an MSEND or a
strong access of another device (R176, R181), an SSAVE or SREST (R229), a SEMW or SEMWT whose count the synchroniser has taken
(R250). -/
def midway (c : Ctx) : Bool :=
  match c.wait with
  | .msg | .payload | .remote | .rec_ _ => true
  | .sem _ | .semt _ _ => decide (c.ans = some .granted)
  | _ => false

/-- Stops a running engine at its instruction boundary (R37, R181): one inside an instruction that has issued stops after it. -/
def holdEng (s : State) (ag : Nat) : State :=
  match (s.ctx ag).run with
  | .run =>
    if midway (s.ctx ag) then s.setCtx ag { s.ctx ag with stopAfter := true }
    else
      let s1 := dropWalks (leaveLines s ag) ag
      s1.setCtx ag { s1.ctx ag with run := .held, stopAt := s.cycle }
  | _ => s

/-- The job of a core has stopped once none of its engines runs: an instruction that has issued completes first (R181). -/
def jobStopped (s : State) (core : Nat) : State :=
  match (s.core core).job with
  | some j =>
    if (s.ctx (core * 4)).run = .run ∨ (s.ctx (core * 4 + 1)).run = .run ∨ (s.ctx (core * 4 + 2)).run = .run then s
    else s.setCore core { s.core core with job := some { j with stopped := true } }
  | none => s

/-- Stops the engines of the job of a core, but for one. -/
def holdJob (s : State) (core but : Nat) : State :=
  let h (s : State) (e : Nat) := if core * 4 + e = but then s else holdEng s (core * 4 + e)
  jobStopped (h (h (h s 0) 1) 2) core

/-- The trap record (R181, R437). -/
def trapRecord (s : State) (ag : Nat) (cause epc eval : DWord) : List Byte :=
  leBytes 8 cause.toNat ++ leBytes 8 epc.toNat ++ leBytes 8 eval.toNat ++ leBytes 8 (jobId s ag).toNat
    ++ leBytes 8 (ctxId s ag).toNat ++ leBytes 8 (coreId ag).toNat

/-- TAKING A TRAP of an agent (R181, R182, R183, R186, R434): CAUSE, EPC and EVAL are written; a Director goes to DTVEC; any
other context stops, the other engines of its job stop, and a record goes to the Director of the die. -/
def takeTrap (s : State) (ag : Nat) (imp : Bool) (code mfc : Nat) (eval : DWord) : State :=
  let s0 := dropWalks { s with issued := true } ag
  let c := s0.ctx ag
  let cause := causeWord imp (agEng ag).num mfc code
  let epc := BitVec.ofNat 64 c.pc
  let c1 := { c with cause := cause, epc := epc, eval := eval, wait := .none, ans := none, stopAfter := false }
  match agEng ag with
  | .dir => s0.setCtx ag { c1 with pc := (s0.die (agDie ag)).dtvec }
  | .hdl =>
    let s1 := s0.setCtx ag { c1 with run := .trapped, stopAt := s.cycle }
    raiseEvent s1 (agDie ag) 1 (agCore ag) (trapRecord s ag cause epc eval)
  | _ =>
    let s1 := holdJob (s0.setCtx ag { c1 with run := .trapped, stopAt := s.cycle }) (agCore ag) ag
    raiseEvent s1 (agDie ag) 1 (agCore ag) (trapRecord s ag cause epc eval)

/-- The unit of a trigger whose poison lies in a register, a cell or an accumulator: past the lines of the pad (R469). -/
def noUnit : Nat := 32768

/-- Adds 1 to a 64-bit counter that saturates (R481). -/
def satInc (n : Nat) : Nat := min (n + 1) (2 ^ 64 - 1)

/-- An uncorrectable error has been found (R481). -/
def foundError (s : State) : State := { s with health := { s.health with uncorr := satInc s.health.uncorr } }

/-- A trigger for a rollback under an engine's tag (R465, R466); a Director's is a warm reset (R473). One that comes while another waits
is made again by its instruction, which has not issued. -/
def triggerPoison (s : State) (ag unit : Nat) (own : Bool) : State :=
  match agEng ag with
  | .dir => { foundError s with wres := true }
  | e =>
    let c := s.core (agCore ag)
    match c.rb.pending with
    | some _ => s
    | none =>
      let t : Trig := { eng := e.num, tag := (tagOf c e.num).getD 0, mis := false, unit := unit, own := own }
      s.setCore (agCore ag) { c with rb := { c.rb with pending := some t } }

/-! ### Safe points, checkpoints and pre-emption (R155, R156, R394, R396, R463) -/

/-- A marked job whose engines have all reached a safe point or RDV has stopped (R394, R445); PREEMPT's gets its event. -/
def checkStopped (s : State) (core : Nat) : State :=
  let c := s.core core
  match c.job with
  | none => s
  | some j =>
    let quiet (r : Run) := decide (r = .held ∨ r = .rdv ∨ r = .absent)
    let r0 := (s.ctx (core * 4)).run
    let r1 := (s.ctx (core * 4 + 1)).run
    let r2 := (s.ctx (core * 4 + 2)).run
    if j.mark ≠ none ∧ !j.stopped ∧ quiet r0 ∧ quiet r1 ∧ quiet r2 ∧ (r0 = .held ∨ r1 = .held ∨ r2 = .held) then
      let s1 := s.setCore core { c with job := some { j with stopped := true, told := decide (j.mark = some 1) } }
      if j.mark = some 1 then
        raiseEvent s1 (coreDie core) 4 core (leBytes 8 (jobIdOf s core).toNat ++ [1#8, 1#8] ++ leBytes 6 0 ++ leBytes 8 0)
      else s1
    else s

/-- A safe point of the issuing engine: the count of SPBOUND starts again, and a marked job's engine stops. -/
def safePoint (s : State) : State :=
  let c := s.me
  let core := agCore s.cur
  let s1 := addSample s (coreDie core) 9 0 core ((s.cycle : Int) - c.safeAt)
  let marked := match (s1.core core).job with
    | some j => j.mark.isSome
    | none => false
  let s2 := s1.setMe { s1.me with safeAt := s.cycle, stopAt := s.cycle, atKernel := none, run := if marked then .held else s1.me.run }
  if marked then checkStopped s2 core else s2

/-- EX's automatic marks at a kernel-iteration boundary (R209): each armed mark of an open port takes DP. -/
def autoMarks (c : Core) : Core :=
  { c with ports := c.ports.map fun (n, p) =>
      (n, { p with marks := (List.range 4).foldl (fun m i => if mget false p.mauto i then mset m i p.dp else m) p.marks }) }

/-- Records checkpoint c_k of the issuing engine; an engine keeps its last four (R463). -/
def takeCkpt (s : State) (k : Nat) : State :=
  let core := agCore s.cur
  let e := (agEng s.cur).num
  let c := s.core core
  let ex := decide (e = 1)
  let n : Ckpt :=
    { eng := e, k := k, act := mget 0 c.rb.acts e, ctx := s.me,
      tiles := if ex then c.tiles else [], masks := if ex then c.masks else [],
      special := if ex then [c.vrows.toNat, c.vcols.toNat, c.fmt8.toNat, c.fpctl.toNat, c.fpacc.toNat] else [],
      lfsr := c.lfsr, seqc := c.mx.seq, ports := if ex then c.ports else [],
      pos := c.rb.lost + c.rb.log.length, at_ := s.cycle }
  let mine := (c.ckpts.filter fun x => decide (x.eng = e ∧ x.act = mget 0 c.rb.acts e)) ++ [n]
  let rest := c.ckpts.filter fun x => decide (x.eng ≠ e)
  s.setCore core (pruneRecs { c with ckpts := rest ++ mine.drop (mine.length - 4) })

/-- Discards the checkpoints of an engine (R463). -/
def dropCkpts (c : Core) (e : Nat) : Core := pruneRecs { c with ckpts := c.ckpts.filter fun x => decide (x.eng ≠ e) }

/-! ### The loop unit (R150 to R155) -/

/-- The back-edges at an address (R151), the newest level first: the levels, the counters, the next address if a back-edge
is taken, and whether a kernel level was evaluated. -/
def backEdge (a : Nat) : List Level → Map (BitVec 32) → List Level × Map (BitVec 32) × Option Nat × Bool
  | [], lc => ([], lc, none, false)
  | v :: t, lc =>
    if v.act && decide (v.fin = a) then
      let n := mget 0#32 lc v.l
      if 1 < n.toNat then (v :: t, mput 0#32 lc v.l (n - 1#32), some v.start, v.sp.isSome)
      else
        let r := backEdge a t (mput 0#32 lc v.l 0#32)
        (if v.sp.isSome then { v with act := false } :: r.1 else r.1, r.2.1, r.2.2.1, r.2.2.2 || v.sp.isSome)
    else
      let r := backEdge a t lc
      (v :: r.1, r.2)

/-- Whether a taken transfer from a to t, which stays in the software-pipelined loop of a level, ends its kernel level (R152,
R154): it leaves [KER, KEND], or passes over it. A transfer inside the prologue, before the kernel, does not. -/
def leavesKernel (a t : Nat) (v : Level) : Bool :=
  v.sp.isSome && v.act && (decide (v.fin < t) || (decide (t < v.start) && decide (v.start ≤ a)))

/-- The levels that a taken transfer from a to t keeps and those that it ends (R152, R154): a level whose span t leaves, and every
newer one. A kernel level that ends alone leaves SPACT set. -/
def leaveLevels (a t : Nat) : List Level → List Level × List Level
  | [] => ([], [])
  | v :: r =>
    let k := leaveLevels a t r
    if k.2 ≠ [] then (k.1, v :: k.2)
    else if t < v.lo ∨ v.hi < t then (k.1, [v])
    else if leavesKernel a t v then ({ v with act := false } :: k.1, [v])
    else (v :: k.1, [])

/-- SPACT ends when the instruction at EEND issues with the kernel level no longer active (R154). -/
def endSp (a : Nat) (ls : List Level) : List Level :=
  ls.filter fun v => !(v.sp.isSome && decide (v.hi = a) && !v.act)

/-! ### Issue -/

/-- What the effect of an instruction comes to. -/
inductive Res where
  /-- It issues, and the next instruction follows. -/
  | ok (s : State)
  /-- It issues, and the next address is given, without a transfer (LOOP of no iterations). -/
  | goto (s : State) (t : Nat)
  /-- A taken transfer (R152), whose target is checked (R107). -/
  | jump (s : State) (t : Int)
  /-- A precise trap: code, EVAL, MFC. -/
  | trap (code : Nat) (eval : DWord) (mfc : Nat)
  /-- An imprecise trap before it issues (R292). -/
  | imp (s : State) (code : Nat) (eval : DWord)
  /-- A precise trap that leaves a claim already made (R253). -/
  | trapS (s : State) (code : Nat) (eval : DWord)
  /-- It does not issue yet; what its waiting has changed stays. -/
  | wait (s : State)
  /-- It would consume poison (R465). -/
  | poison (unit : Nat) (own : Bool)

/-- The contexts in which an instruction is valid. -/
inductive Cls where
  | any | noDir | ring | hdl | dir | ex | sync
deriving DecidableEq, Repr

/-- Whether an engine may issue an instruction of a class (R106, R108, R120, R137, R179, R432). -/
def Cls.okFor : Cls → Eng → Bool
  | .any, e => decide (e ≠ .ex)
  | .noDir, e => decide (e ≠ .ex ∧ e ≠ .dir)
  | .ring, e => decide (e = .la ∨ e = .sa)
  | .hdl, e => decide (e = .hdl)
  | .dir, e => decide (e = .dir)
  | .ex, e => decide (e = .ex)
  | .sync, e => decide (e ≠ .dir)

/-- The instruction set of an engine (R104). -/
def Eng.isa (e : Eng) : Isa := if e = .ex then .x else .a

/-- The instructions that a guard window forbids (R123). -/
def guardBanned : Instr → Bool
  | .loop _ _ _ _ | .loopsp _ _ | .guard _ _ _ _ | .rdv _ | .hret _
  | .loopX _ _ _ _ | .loopspX _ _ | .guardX _ _ _ _ | .rdvX _ => true
  | _ => false

/-- Word 1 of an instruction, as EVAL quotes it (R184). -/
def word1 (i : Instr) : DWord := ((encode i).headD 0#32).setWidth 64

/-- The number of words of an instruction (R105). -/
def words (i : Instr) : Nat := (encode i).length

/-- Whether a context may name a CSR (R99, R101 to R103): the numbers of R101; in a Director those but QSTAT, LFSR and
SPBOUND, and the numbers that R383, R401, R418, R435, R424, R426 and R483 assign, R401 and R418 on die 0 alone. -/
def csrAssigned (dir : Bool) (die n : Nat) : Bool :=
  if !dir then decide ((0x010 ≤ n ∧ n ≤ 0x019) ∨ (0x020 ≤ n ∧ n ≤ 0x022))
  else decide ((0x010 ≤ n ∧ n ≤ 0x015) ∨ n = 0x018 ∨ (0x020 ≤ n ∧ n ≤ 0x022) ∨ (0x800 ≤ n ∧ n ≤ 0x802)
    ∨ (die = 0 ∧ ((0x810 ≤ n ∧ n ≤ 0x819) ∨ (0x820 ≤ n ∧ n ≤ 0x822))) ∨ (0x830 ≤ n ∧ n ≤ 0x836)
    ∨ (0x840 ≤ n ∧ n ≤ 0x843) ∨ (0x850 ≤ n ∧ n ≤ 0x853) ∨ (0x900 ≤ n ∧ n ≤ 0x906) ∨ (0x920 ≤ n ∧ n ≤ 0x923)
    ∨ (0xA00 ≤ n ∧ n ≤ 0xA02))

/-- Whether every field of a CSR is read-only (R9). -/
def csrReadOnly (n : Nat) : Bool :=
  decide ((n < 0x800 ∧ n ≠ 0x017) ∨ n = 0x821 ∨ n = 0x822 ∨ (0x831 ≤ n ∧ n ≤ 0x836) ∨ n = 0x842 ∨ n = 0x901)

/-- The cause that a CSR number meets (R9, R99): Privileged Instruction or Illegal Instruction. -/
def csrCode (e : Eng) (die n : Nat) (w : Bool) : Option Nat :=
  if e ≠ .dir ∧ 0x800 ≤ n then some 2
  else if !csrAssigned (decide (e = .dir)) die n || (w && csrReadOnly n) then some 1
  else none

/-- What the encoding and the address of an instruction decide beside its fields: the CSR number, and a LOOP whose END does
not lie beyond it (R150). -/
def staticCause (e : Eng) (die pc : Nat) : Instr → Option Nat
  | .csrr _ _ n => csrCode e die n.toNat false
  | .csrw _ _ n => csrCode e die n.toNat true
  | .loop _ _ _ t | .loopX _ _ _ t => if t.toNat ≤ pc then some 1 else none
  | _ => none

/-- Whether an instruction names a CSR that only a Director may use (R99), which comes before every other check of its word (R185). -/
def csrPriv (e : Eng) : Instr → Bool
  | .csrr _ _ n | .csrw _ _ n => decide (e ≠ .dir ∧ e ≠ .ex ∧ 0x800 ≤ n.toNat)
  | _ => false

/-- The precise cause of R99, R108 and R123 that an instruction meets before the predication decision, if any: its code. -/
def illegalCode (i : Instr) (ring : Ring) (cls : Cls) (e : Eng) (die pc : Nat) (inWin : Bool) : Option Nat :=
  if decide (cls = .dir) && decide (e ≠ .dir) then some 2
  else if csrPriv e i then some 2
  else if !cls.okFor e || !i.wf || !i.regsOk e.isa
      || (decide (e = .hdl ∨ e = .dir) && (ring.wp || ring.wn || ring.sp || ring.sn)) || (inWin && guardBanned i) then some 1
  else staticCause e die pc i

/-- How an instruction that issues hands over. -/
inductive Nxt where
  | seq | goto (t : Nat) | jump (t : Nat)

/-- The ring effects at issue (R17): the tokens waited for are popped, the signalled ones pushed as far as there is room; a
signal is a core-scope publish point, at which the held stores are performed (R18, R79). -/
def ringEffects (ring : Ring) (s : State) : State :=
  let e := agEng s.cur
  let ws := ringWaits e ring
  let sg := ringSigs e ring
  if ws = [] ∧ sg = [] then s
  else
    let s1 := if sg = [] then s else publish s
    let c := ws.foldl (fun c q => popTok c e.num q 1) s1.myCore
    let f := flushSigs c e.num (s1.me.sigs ++ sg)
    let s2 := s1.setMyCore f.1
    s2.setMe { s2.me with sigs := f.2 }

/-- The guard window after an issue (R122, R123): one instruction fewer, and none after a taken transfer. -/
def guardNext (inWin jumped : Bool) (c : Ctx) : Ctx :=
  if inWin then { c with gRem := if jumped then 0 else c.gRem - 1 } else c

/-- The loop unit and the pc after an issue (R151, R152, R154), and whether a kernel-iteration boundary falls here, with
the next address if its back-edge was taken. -/
def loopNext (a len : Nat) (n : Nxt) (c : Ctx) : Ctx × Option (Option Nat) :=
  match n with
  | .goto t => ({ c with pc := t, levels := endSp a c.levels }, none)
  | .jump t =>
    let k := leaveLevels a t c.levels
    ({ c with pc := t, levels := endSp a k.1, lc := k.2.foldl (fun m v => mput 0#32 m v.l 0#32) c.lc }, none)
  | .seq =>
    let r := backEdge a c.levels c.lc
    ({ c with pc := r.2.2.1.getD (a + len), levels := endSp a r.1, lc := r.2.1 },
      if r.2.2.2 then some r.2.2.1 else none)

/-- A kernel-iteration boundary (R155, R209, R463): EX's automatic marks, a checkpoint but after the last iteration, a safe
point. -/
def boundary (again : Bool) (rec : Option Nat) (s : State) : State :=
  let core := agCore s.cur
  let s1 := if agEng s.cur = .ex then s.setMyCore (autoMarks s.myCore) else s
  let s2 := if again then takeCkpt s1 (((tagOf (s1.core core) (agEng s1.cur).num).getD 0) % 2 ^ 32 + 1) else s1
  let s3 := safePoint s2
  s3.setMe { s3.me with atKernel := rec }

/-- LOOPSP takes c_0 once it has issued; leaving a software-pipelined loop discards its checkpoints (R463). -/
def spChange (before : Ctx) (s : State) : State :=
  match before.levels.any (fun v => v.sp.isSome), s.me.levels.any (fun v => v.sp.isSome) with
  | true, false => s.setMyCore (dropCkpts s.myCore (agEng s.cur).num)
  | false, true => takeCkpt s 0
  | _, _ => s

/-- A stop that came while an instruction could not be interrupted takes effect after it (R176, R181). -/
def lateStop (s : State) : State :=
  if s.me.stopAfter then
    let s1 := s.setMe { s.me with stopAfter := false, stopAt := s.cycle, run := if s.me.run = .run then .held else s.me.run }
    jobStopped (checkStopped s1 (agCore s1.cur)) (agCore s1.cur)
  else s

/-- The instruction has issued: ring effects, guard window, loop unit, pc, boundary. `c0` is the context before it. -/
def retire (i : Instr) (ring : Ring) (c0 : Ctx) (n : Nxt) (s : State) : State :=
  let inWin := decide (0 < c0.gRem)
  let jumped := match n with
    | .jump _ => true
    | _ => false
  let s1 := ringEffects ring { s with issued := true }
  let r := loopNext c0.pc (words i) n (guardNext inWin jumped { s1.me with wait := .none, ans := none })
  let s2 := spChange c0 (s1.setMe r.1)
  let s3 := match r.2 with
    | some nx => boundary nx.isSome ((c0.levels.find? fun v => v.sp.isSome).bind fun v => v.sp) s2
    | none => s2
  lateStop s3

/-- The effect's result as a step of the context. -/
def settle (i : Instr) (ring : Ring) (c0 : Ctx) (s0 : State) : Res → Out1
  | .ok s => .next (retire i ring c0 .seq s)
  | .goto s t => .next (retire i ring c0 (.goto t) s)
  | .jump s t =>
    if t < 0 ∨ 16383 < t then .next (takeTrap s0 s0.cur false 3 0 (BitVec.ofInt 64 t))
    else .next (retire i ring c0 (.jump t.toNat) s)
  | .trap code ev m => .next (takeTrap s0 s0.cur false code m ev)
  | .imp s code ev => .next (takeTrap s s.cur true code 0 ev)
  | .trapS s code ev => .next (takeTrap s s.cur false code 0 ev)
  | .wait s => .next s
  | .poison u own => .next (triggerPoison s0 s0.cur u own)

/-- WHAT EVERY INSTRUCTION DOES AROUND ITS EFFECT, in the order of R17 and R185: the encoding checks (before predication),
signals that have no room yet, predication, the ring waits, the effect, the ring effects and the next address. -/
def issue (i : Instr) (ring : Ring) (cls : Cls) (body : State → Res) (s : State) : Out1 :=
  let c := s.me
  let e := agEng s.cur
  if c.run ≠ .run then .fault .noContext
  else
    match illegalCode i ring cls e (agDie s.cur) c.pc (decide (0 < c.gRem)) with
    | some code => .next (takeTrap s s.cur false code 0 (word1 i))
    | none =>
      if c.sigs ≠ [] ∧ (flushSigs s.myCore e.num c.sigs).2 ≠ [] then
        .next ((s.setMyCore (flushSigs s.myCore e.num c.sigs).1).setMe { c with sigs := (flushSigs s.myCore e.num c.sigs).2 })
      else
        let s1 := if c.sigs = [] then s
          else (s.setMyCore (flushSigs s.myCore e.num c.sigs).1).setMe { c with sigs := [] }
        if (ringWaits e ring).any (fun q => decide (s1.myCore.toks q = 0)) then .next s1
        else if 0 < c.gRem ∧ !c.gOn then .next (retire i ring c .seq s1)
        else if c.loads.any (fun l => l.val.isNone) ∧ c.wait = .none then .next s1
        else settle i ring c s1 (body s1)

end Sys2Proof.Machine
end

