-- ==== Sys2Proof/Machine/Flags.lean ====
section
/-! DEFINITION. The flags: the conditions of CMP, CMPI, XCMP and VCMP (R113, R144, R281, R285), the bits of FPACC (R259), and
the accumulation of floating-point flags (R265, R291, R292). -/

namespace Sys2Proof.Machine

/-- A condition on two integers of a width (R113): signed or unsigned as the code says. -/
def condInt {w : Nat} (c : Cond) (x y : BitVec w) : Bool :=
  match c with
  | .eq => x == y
  | .ne => x != y
  | .lt => x.slt y
  | .ge => y.sle x
  | .le => x.sle y
  | .gt => y.slt x
  | .ltu => x.ult y
  | .geu => y.ule x
  | .leu => x.ule y
  | .gtu => y.ult x
  | .un => false
  | .ord => true

/-- The flags of FPACC (R259). -/
abbrev FpFlags := BitVec 5

/-- Invalid. -/
def fNV : FpFlags := 16#5

/-- Divide by zero. -/
def fDZ : FpFlags := 8#5

/-- Overflow. -/
def fOF : FpFlags := 4#5

/-- Underflow. -/
def fUF : FpFlags := 2#5

/-- Inexact. -/
def fNX : FpFlags := 1#5

/-- ORs flags into FPACC (R265, R291). -/
def Core.addFlags (c : Core) (f : FpFlags) : Core := { c with fpacc := c.fpacc ||| f }

/-- Whether a delivering instruction raises the Floating-Point trap (R292): an enabled flag stands in FPACC. -/
def fpDelivers (c : Core) : Bool := decide (c.fpacc &&& c.fpctl.extractLsb' 4 5 ≠ 0#5)

/-- A condition on two floating operands (R281), from whether one is NaN and their order. -/
def condFloat (c : Cond) (nan : Bool) (o : Ordering) : Bool :=
  match c with
  | .eq => !nan && o == .eq
  | .ne => nan || o != .eq
  | .lt => !nan && o == .lt
  | .ge => !nan && o != .lt
  | .le => !nan && o != .gt
  | .gt => !nan && o == .gt
  | .ltu => nan || o == .lt
  | .geu => nan || o != .lt
  | .leu => nan || o != .gt
  | .gtu => nan || o == .gt
  | .un => nan
  | .ord => !nan

end Sys2Proof.Machine
end

