-- ==== Sys2Proof/Machine/Numeric.lean ====
section
/-! DEFINITION. The number formats (R41 to R49): decoding a code to its exact value, the exact operations, rounding and
conversion (R52 to R54), the generator (R55), and the special functions (R269, R270). -/

namespace Sys2Proof.Machine

/-- An exact value: NaN, an infinity, or a signed rational num/den; a zero keeps its sign. -/
inductive Num where
  | nan
  | inf (neg : Bool)
  | fin (neg : Bool) (num den : Nat)
deriving DecidableEq, Repr

/-- A format: an integer of a width; an IEEE format of precision p and e exponent bits; a binary8 variant of precision p. -/
inductive Fmt where
  | int (w : Nat) (sg : Bool)
  | fp (p e : Nat)
  | b8 (p : Nat) (sg ext : Bool)
deriving DecidableEq, Repr

/-- The binary8 variant of a bank-format code (R48); signed extended binary8p4 for another code. -/
def b8Fmt (code : Nat) : Fmt :=
  if 0x10 ≤ code ∧ code ≤ 0x16 then .b8 (code - 0xF) true true
  else if 0x18 ≤ code ∧ code ≤ 0x1E then .b8 (code - 0x17) true false
  else if 0x20 ≤ code ∧ code ≤ 0x26 then .b8 (code - 0x1F) false true
  else if 0x28 ≤ code ∧ code ≤ 0x2E then .b8 (code - 0x27) false false
  else .b8 4 true true

/-- The format of a bank-format code (R48); none for raw, for the embedding formats and for a reserved code. -/
def codeFmt (code : Nat) : Option Fmt :=
  match code with
  | 1 => some (.int 8 true)
  | 2 => some (.int 8 false)
  | 3 => some (.int 4 true)
  | 4 => some (.int 4 false)
  | 5 => some (.int 16 true)
  | 6 => some (.int 32 true)
  | 7 => some (.fp 11 5)
  | 8 => some (.fp 8 8)
  | 9 => some (.fp 24 8)
  | c => if isB8Code c then some (b8Fmt c) else none

/-- The format of an element type under FMT8 (R41, R257). -/
def elemFmt (t : ElemT) (fmt8 : Byte) : Fmt :=
  match t with
  | .i8 => .int 8 true
  | .n8 => .int 8 false
  | .i16 => .int 16 true
  | .n16 => .int 16 false
  | .i32 => .int 32 true
  | .n32 => .int 32 false
  | .f16 => .fp 11 5
  | .bf16 => .fp 8 8
  | .f32 => .fp 24 8
  | .b8 => b8Fmt fmt8.toNat
  | .i4 => .int 4 true
  | .n4 => .int 4 false

/-- The width of a format in bits. -/
def Fmt.bits : Fmt → Nat
  | .int w _ => w
  | .fp p e => p + e
  | .b8 _ _ _ => 8

/-- Whether a format is an integer format. -/
def Fmt.isInt : Fmt → Bool
  | .int _ _ => true
  | _ => false

/-- The precision of a floating format, the hidden bit included. -/
def Fmt.prec : Fmt → Nat
  | .int _ _ => 1
  | .fp p _ => p
  | .b8 p _ _ => p

/-- The exponent of the smallest normal magnitude of a floating format (R41, R44, R45). -/
def Fmt.emin : Fmt → Int
  | .int _ _ => 0
  | .fp _ e => 2 - ((2 ^ (e - 1) : Nat) : Int)
  | .b8 p sg _ => 1 - ((2 ^ ((if sg then 7 else 8) - p) : Nat) : Int)

/-- The rational n × 2^k. -/
def scaled (n : Nat) (k : Int) : Nat × Nat := if 0 ≤ k then (n * 2 ^ k.toNat, 1) else (n, 2 ^ (-k).toNat)

/-- The value of a magnitude code, exponent field e and trailing field t, of a floating format. -/
def magOf (f : Fmt) (neg : Bool) (e t : Nat) : Num :=
  let r := if e = 0 then scaled t (f.emin - (f.prec - 1 : Nat))
    else scaled (2 ^ (f.prec - 1) + t) (f.emin + (e - 1 : Nat) - (f.prec - 1 : Nat))
  .fin neg r.1 r.2

/-- The exact value of a code (R41, R42, R44, R45). -/
def Fmt.decode (f : Fmt) (code : Nat) : Num :=
  match f with
  | .int w sg =>
    let c := code % 2 ^ w
    if sg ∧ 2 ^ (w - 1) ≤ c then .fin true (2 ^ w - c) 1 else .fin false c 1
  | .fp p e =>
    let neg := decide (2 ^ (p + e - 1) ≤ code % 2 ^ (p + e))
    let m := code % 2 ^ (p + e - 1)
    let x := m / 2 ^ (p - 1)
    let t := m % 2 ^ (p - 1)
    if x = 2 ^ e - 1 then (if t = 0 then .inf neg else .nan) else magOf f neg x t
  | .b8 p true ext =>
    let c := code % 256
    if c = 0 then .fin false 0 1
    else if c = 0x80 then .nan
    else if ext ∧ c = 0x7F then .inf false
    else if ext ∧ c = 0xFF then .inf true
    else magOf f (decide (128 ≤ c)) (c % 128 / 2 ^ (p - 1)) (c % 128 % 2 ^ (p - 1))
  | .b8 p false ext =>
    let c := code % 256
    if c = 0 then .fin false 0 1
    else if c = 0xFF then .nan
    else if ext ∧ c = 0xFE then .inf false
    else magOf f false (c / 2 ^ (p - 1)) (c % 2 ^ (p - 1))

/-- The NaN code of a format (R42, R44, R45); 0 for an integer. -/
def Fmt.nanCode : Fmt → Nat
  | .int _ _ => 0
  | .fp p e => (2 ^ e - 1) * 2 ^ (p - 1) + 2 ^ (p - 2)
  | .b8 _ sg _ => if sg then 0x80 else 0xFF

/-- The code of the largest finite magnitude (R46), without a sign. -/
def Fmt.maxCode : Fmt → Nat
  | .int w sg => if sg then 2 ^ (w - 1) - 1 else 2 ^ w - 1
  | .fp p e => (2 ^ e - 1) * 2 ^ (p - 1) - 1
  | .b8 _ sg ext => if sg then (if ext then 0x7E else 0x7F) else (if ext then 0xFD else 0xFE)

/-- The sign bit that a negative code of the format carries. -/
def Fmt.signBit : Fmt → Nat
  | .int _ _ => 0
  | .fp p e => 2 ^ (p + e - 1)
  | .b8 _ sg _ => if sg then 128 else 0

/-- The code of the infinity of a sign, if the format has it. -/
def Fmt.infCode (f : Fmt) (neg : Bool) : Option Nat :=
  match f with
  | .int _ _ => none
  | .fp p e => some ((2 ^ e - 1) * 2 ^ (p - 1) + (if neg then f.signBit else 0))
  | .b8 _ sg ext =>
    if !ext then none
    else if sg then some (if neg then 0xFF else 0x7F)
    else if neg then none
    else some 0xFE

/-- floor(log2 (num/den)) of a positive rational. -/
def ilog2 (num den : Nat) : Int :=
  let e : Int := (num.log2 : Int) - (den.log2 : Int)
  let (a, b) := if 0 ≤ e then (num, den * 2 ^ e.toNat) else (num * 2 ^ (-e).toNat, den)
  if b ≤ a then e else e - 1

/-- Rounds a magnitude num/den to a multiple of 2^k; the multiple (R53, R54). r is the draw of RSR. -/
def roundMag (num den : Nat) (k : Int) (rm : Rm) (neg : Bool) (r : Nat) : Nat :=
  let (a, b) := if 0 ≤ k then (num, den * 2 ^ k.toNat) else (num * 2 ^ (-k).toNat, den)
  let q := a / b
  let m := a % b
  match rm with
  | .rne => if b < 2 * m then q + 1 else if b = 2 * m then q + q % 2 else q
  | .rtz => q
  | .rup => if m ≠ 0 ∧ !neg then q + 1 else q
  | .rdn => if m ≠ 0 ∧ neg then q + 1 else q
  | .rsr => if r < m * 256 / b then q + 1 else q

/-- The exponent of the grid step at a positive magnitude (R52). -/
def stepExp (f : Fmt) (num den : Nat) : Int :=
  match f with
  | .int _ _ => 0
  | _ => max (ilog2 num den) f.emin - (f.prec - 1 : Nat)

/-- The code of a magnitude q × 2^k that lies on the grid of a floating format, without a sign. -/
def magCode (f : Fmt) (q : Nat) (k : Int) : Nat :=
  let h := 2 ^ (f.prec - 1)
  if q < h then q
  else ((k + (q.log2 : Int) - f.emin + 1).toNat) * h + (q * h / 2 ^ q.log2 - h)

/-- num1/den1 < num2/den2. -/
def ratLt (n1 d1 n2 d2 : Nat) : Bool := decide (n1 * d2 < n2 * d1)

/-- The magnitude of the largest finite value of a floating format. -/
def maxMag (f : Fmt) : Nat × Nat :=
  match f.decode f.maxCode with
  | .fin _ n d => (n, d)
  | _ => (0, 1)

/-- CONVERSION (R52, R53, R54): the code of a value in a format, and the flags raised. `nsat` is SM = 1; r the draw. -/
def convert (v : Num) (f : Fmt) (rm : Rm) (nsat : Bool) (r : Nat) : Nat × FpFlags :=
  match v with
  | .nan => (f.nanCode, if f.isInt then fNV else 0#5)
  | .inf neg =>
    match f with
    | .int w sg => (if neg then (if sg then 2 ^ (w - 1) else 0) else f.maxCode, fNV)
    | _ =>
      match f.infCode neg with
      | some c => (c, 0#5)
      | none =>
        if f.signBit = 0 ∧ neg then (f.nanCode, fNV)
        else (if nsat then f.nanCode else f.maxCode + (if neg then f.signBit else 0), fNV)
  | .fin neg num den =>
    let k := if num = 0 then 0 else stepExp f num den
    let q := if num = 0 then 0 else roundMag num den k rm neg r
    let w := scaled q k
    let nx := decide (w.1 * den ≠ num * w.2)
    match f with
    | .int wd sg =>
      if q = 0 then (0, if num = 0 then 0#5 else fNX)
      else if neg then
        if sg ∧ q ≤ 2 ^ (wd - 1) then (2 ^ wd - q, if nx then fNX else 0#5)
        else (if sg then 2 ^ (wd - 1) else 0, fNV)
      else if q ≤ f.maxCode then (q, if nx then fNX else 0#5)
      else (f.maxCode, fNV)
    | _ =>
      let sb := if neg then f.signBit else 0
      let z := match f with
        | .fp _ _ => sb
        | _ => 0
      if q = 0 then (z, if num = 0 then 0#5 else fNX ||| fUF)
      else if f.signBit = 0 ∧ neg then (f.nanCode, fNV)
      else if ratLt (maxMag f).1 (maxMag f).2 w.1 w.2 then
        (if !nsat then f.maxCode + sb else (f.infCode neg).getD f.nanCode, fOF ||| fNX)
      else
        let m := scaled 1 f.emin
        (magCode f q k + sb, if nx then (if ratLt num den m.1 m.2 then fNX ||| fUF else fNX) else 0#5)

/-! ### Exact operations (R265) -/

/-- Negation. -/
def Num.neg : Num → Num
  | .nan => .nan
  | .inf n => .inf !n
  | .fin n a b => .fin (!n) a b

/-- A signed rational as a value; z is the sign of a zero. -/
def ofRat (z : Bool) (n : Int) (d : Nat) : Num := if n = 0 then .fin z 0 1 else .fin (decide (n < 0)) n.natAbs d

/-- The signed numerator. -/
def sgn (neg : Bool) (n : Nat) : Int := if neg then -(n : Int) else n

/-- The exact sum; `rdn` gives the sign of an exact zero sum of operands of opposite sign. -/
def Num.add (rdn : Bool) : Num → Num → Num × FpFlags
  | .nan, _ => (.nan, 0#5)
  | _, .nan => (.nan, 0#5)
  | .inf a, .inf b => if a = b then (.inf a, 0#5) else (.nan, fNV)
  | .inf a, _ => (.inf a, 0#5)
  | _, .inf b => (.inf b, 0#5)
  | .fin a n d, .fin b m e =>
    (ofRat (if a = b then a else rdn) (sgn a n * e + sgn b m * d) (d * e), 0#5)

/-- The exact product. -/
def Num.mul : Num → Num → Num × FpFlags
  | .nan, _ => (.nan, 0#5)
  | _, .nan => (.nan, 0#5)
  | .inf a, .inf b => (.inf (a != b), 0#5)
  | .inf a, .fin b m _ => if m = 0 then (.nan, fNV) else (.inf (a != b), 0#5)
  | .fin a n _, .inf b => if n = 0 then (.nan, fNV) else (.inf (a != b), 0#5)
  | .fin a n d, .fin b m e => (.fin (a != b) (n * m) (d * e), 0#5)

/-- The exact quotient. -/
def Num.div : Num → Num → Num × FpFlags
  | .nan, _ => (.nan, 0#5)
  | _, .nan => (.nan, 0#5)
  | .inf _, .inf _ => (.nan, fNV)
  | .inf a, .fin b _ _ => (.inf (a != b), 0#5)
  | .fin a _ _, .inf b => (.fin (a != b) 0 1, 0#5)
  | .fin a n d, .fin b m e =>
    if m = 0 then (if n = 0 then (.nan, fNV) else (.inf (a != b), fDZ))
    else (.fin (a != b) (n * e) (d * m), 0#5)

/-- a × b + c exactly; a NaN among the three raises no flag (R265). -/
def Num.fma (rdn : Bool) (a b c : Num) : Num × FpFlags :=
  if a = .nan ∨ b = .nan ∨ c = .nan then (.nan, 0#5)
  else
    let p := a.mul b
    match p.1 with
    | .nan => p
    | x => x.add rdn c

/-- The order of two values that are not NaN; -0 = +0 (R281). -/
def Num.cmp : Num → Num → Ordering
  | .inf a, .inf b => if a = b then .eq else if a then .lt else .gt
  | .inf a, _ => if a then .lt else .gt
  | _, .inf b => if b then .gt else .lt
  | .fin a n d, .fin b m e => compare (sgn a n * e) (sgn b m * d)
  | _, _ => .eq

/-- Whether a value is NaN. -/
def Num.isNan : Num → Bool
  | .nan => true
  | _ => false

/-- The sign. -/
def Num.isNeg : Num → Bool
  | .nan => false
  | .inf n => n
  | .fin n _ _ => n

/-- Minimum or maximum; a NaN gives NaN, and -0 < +0 (R267, R277). -/
def Num.pickMin (mx : Bool) (a b : Num) : Num :=
  if a.isNan || b.isNan then .nan
  else
    match a.cmp b with
    | .lt => if mx then b else a
    | .gt => if mx then a else b
    | .eq => if a.isNeg = b.isNeg then a else if a.isNeg = mx then b else a

/-- The magnitude. -/
def Num.abs : Num → Num
  | .nan => .nan
  | .inf _ => .inf false
  | .fin _ n d => .fin false n d

/-- A value times 2^k. -/
def Num.scale (k : Int) : Num → Num
  | .fin s n d => if 0 ≤ k then .fin s (n * 2 ^ k.toNat) d else .fin s n (d * 2 ^ (-k).toNat)
  | x => x

/-! ### The stochastic-rounding generator (R55) -/

/-- One shift of the generator. -/
def lfsrShift (x : BitVec 32) : BitVec 32 :=
  (x <<< 1) ||| (BitVec.ofBool (x.getLsbD 31 ^^ x.getLsbD 21 ^^ x.getLsbD 1 ^^ x.getLsbD 0)).setWidth 32

/-- A draw: 8 bits and the new state. -/
def lfsrDraw (x : BitVec 32) : Nat × BitVec 32 :=
  ((x.extractLsb' 0 8).toNat,
    lfsrShift (lfsrShift (lfsrShift (lfsrShift (lfsrShift (lfsrShift (lfsrShift (lfsrShift x))))))))

/-- The draw that a conversion under a mode makes: RSR draws once for each element (R54). -/
def drawFor (rm : Rm) (x : BitVec 32) : Nat × BitVec 32 := if rm = .rsr then lfsrDraw x else (0, x)

/-! ### Special functions (R269, R270) -/

/-- The integer square root, by bits from bit k down. -/
def isqrtFrom (n : Nat) : Nat → Nat → Nat
  | 0, r => if (r + 1) * (r + 1) ≤ n then r + 1 else r
  | k + 1, r =>
    let r1 := r + 2 ^ (k + 1)
    isqrtFrom n k (if r1 * r1 ≤ n then r1 else r)

/-- floor(√n). -/
def isqrt (n : Nat) : Nat := isqrtFrom n (n.log2 / 2 + 1) 0

/-- The binary point of the fixed-point series. -/
def fxBits : Nat := 900

/-- ln 2 with 1,024 fraction bits. -/
def ln2Fx : Nat := 0xb17217f7d1cf79abc9e3b39803f2f6af40f343267298b62d8a0d175b8baafa2be7b876206debac98559552fb4afa1b10ed2eae35c138214427573b291169b8253e96ca16224ae8c51acbda11317c387eb9ea9bc3b136603b256fa0ec7657f74b72ce87b19d6548caf5dfa6bd38303248655fa1872f20e3a2da2d97c50f3fd5c6

/-- ln 2 in the fixed point of the series. -/
def ln2 : Nat := ln2Fx / 2 ^ (1024 - fxBits)

/-- The terms t^k/k! from k on, with k counting up as the fuel runs down. -/
def expSum (t : Nat) : Nat → Nat → Nat → Nat
  | 0, _, _ => 0
  | f + 1, k, term => term + expSum t f (k + 1) (term * t / 2 ^ fxBits / k)

/-- e^t in fixed point, for 0 ≤ t < 1. -/
def expFx (t : Nat) : Nat := expSum t 170 1 (2 ^ fxBits)

/-- The terms z^k/k for odd k. -/
def atanhSum (z2 : Nat) : Nat → Nat → Nat → Nat
  | 0, _, _ => 0
  | f + 1, k, p => p / k + atanhSum z2 f (k + 2) (p * z2 / 2 ^ fxBits)

/-- ln m in fixed point, for 1 ≤ m < 2. -/
def lnFx (m : Nat) : Nat :=
  let z := (m - 2 ^ fxBits) * 2 ^ fxBits / (m + 2 ^ fxBits)
  2 * atanhSum (z * z / 2 ^ fxBits) 300 1 z

/-- An inexact value that is known to lie above a fixed-point number and below its successor: halfway, so that no grid or
tie point meets it. -/
def sticky (neg : Bool) (q : Nat) (k : Int) : Num :=
  let r := scaled (2 * q + 1) (k - 1)
  .fin neg r.1 r.2

/-- 2^x for a rational x that is no integer, |x| < 4,096: n + f gives 2^n × e^(f ln 2). -/
def exp2Num (neg : Bool) (num den : Nat) : Num :=
  let x : Int := sgn neg num
  let n := x / (den : Int)
  let f := ((x - n * den) * (2 ^ fxBits : Nat) / den).toNat
  sticky false (expFx (f * ln2 / 2 ^ fxBits)) (n - fxBits)

/-- e^x in fixed point with its exponent, for |x| < 4,096, x given with the fraction bits of the series: (q, n) for
q × 2^(n − fxBits). -/
def expNum (x : Int) : Nat × Int :=
  let n := x / (ln2 : Int)
  (expFx (x - n * ln2).toNat, n)

/-- What a special function gives: the exact or sticky value, whether it is exact, the flags of R270. -/
abbrev Special := Num × Bool × FpFlags

/-- √(num/den). -/
def sqrtNum (num den : Nat) : Num × Bool :=
  let n := num * den * 2 ^ 1200
  let s := isqrt n
  if s * s = n then (.fin false s (den * 2 ^ 600), true)
  else (.fin false (2 * s + 1) (2 * den * 2 ^ 600), false)

/-- VSQRT (R270). -/
def fSqrt : Num → Special
  | .nan => (.nan, true, 0#5)
  | .inf n => if n then (.nan, true, fNV) else (.inf false, true, 0#5)
  | .fin n a b =>
    if a = 0 then (.fin n 0 1, true, 0#5)
    else if n then (.nan, true, fNV)
    else ((sqrtNum a b).1, (sqrtNum a b).2, 0#5)

/-- VRCP (R270). -/
def fRcp : Num → Special
  | .nan => (.nan, true, 0#5)
  | .inf n => (.fin n 0 1, true, 0#5)
  | .fin n a b => if a = 0 then (.inf n, true, fDZ) else (.fin n b a, true, 0#5)

/-- VRSQ (R270). -/
def fRsq : Num → Special
  | .nan => (.nan, true, 0#5)
  | .inf n => if n then (.nan, true, fNV) else (.fin false 0 1, true, 0#5)
  | .fin n a b =>
    if a = 0 then (.inf n, true, fDZ)
    else if n then (.nan, true, fNV)
    else ((sqrtNum b a).1, (sqrtNum b a).2, 0#5)

/-- VEXP2 (R270). -/
def fExp2 : Num → Special
  | .nan => (.nan, true, 0#5)
  | .inf n => (if n then .fin false 0 1 else .inf false, true, 0#5)
  | .fin n a b =>
    if 4096 * b ≤ a then
      let r := scaled 1 (if n then -4096 else 4096)
      (.fin false r.1 r.2, decide (a % b = 0), 0#5)
    else if a % b = 0 then
      let r := scaled 1 (sgn n (a / b))
      (.fin false r.1 r.2, true, 0#5)
    else (exp2Num n a b, false, 0#5)

/-- VLOG2 (R270). -/
def fLog2 : Num → Special
  | .nan => (.nan, true, 0#5)
  | .inf n => if n then (.nan, true, fNV) else (.inf false, true, 0#5)
  | .fin n a b =>
    if a = 0 then (.inf true, true, fDZ)
    else if n then (.nan, true, fNV)
    else
      let e := ilog2 a b
      let m := if 0 ≤ e then a * 2 ^ fxBits / (b * 2 ^ e.toNat) else a * 2 ^ (-e).toNat * 2 ^ fxBits / b
      if m = 2 ^ fxBits then (ofRat false e 1, true, 0#5)
      else
        let l : Int := (lnFx m * 2 ^ 800 / ln2 : Nat)
        let v := e * ((2 ^ 800 : Nat) : Int) + l
        if 0 ≤ v then (sticky false v.toNat (-800), false, 0#5) else (sticky true ((-v).toNat - 1) (-800), false, 0#5)

/-- The fixed-point value of a rational. -/
def toFx (neg : Bool) (a b : Nat) : Int := sgn neg (a * 2 ^ fxBits / b)

/-- VTANH (R270): (1 − e^(−2x)) / (1 + e^(−2x)) for a positive x. -/
def fTanh : Num → Special
  | .nan => (.nan, true, 0#5)
  | .inf n => (.fin n 1 1, true, 0#5)
  | .fin n a b =>
    if a = 0 then (.fin n 0 1, true, 0#5)
    else if 256 * b ≤ a then (sticky n (2 ^ 600 - 1) (-600), false, 0#5)
    else if a * 2 ^ 110 < b then
      -- x − x³/3 lies within 2^-440 of tanh x, relative to x; both lie below x
      (.fin n (a * (3 * b * b - a * a)) (3 * b * b * b), false, 0#5)
    else
      let u := expNum (-2 * toFx false a b)
      let w : Nat := if 0 ≤ u.2 then u.1 * 2 ^ u.2.toNat else u.1 / 2 ^ (-u.2).toNat
      (sticky n ((2 ^ fxBits - w) * 2 ^ 700 / (2 ^ fxBits + w)) (-700), false, 0#5)

/-- VSIGM (R270): 1/(1 + e^(−x)). -/
def fSigm : Num → Special
  | .nan => (.nan, true, 0#5)
  | .inf n => (if n then .fin false 0 1 else .fin false 1 1, true, 0#5)
  | .fin n a b =>
    if a = 0 then (.fin false 1 2, true, 0#5)
    else if 512 * b ≤ a then (if n then sticky false 0 (-600) else sticky false (2 ^ 600 - 1) (-600), false, 0#5)
    else if a * 2 ^ 110 < b then
      -- 1/2 + x/4, whose distance from the value is below 2^-320
      (if n then sticky false (2 ^ 600 - 1) (-601) else sticky false (2 ^ 600) (-601), false, 0#5)
    else
      -- e^(−|x|) is at most 1
      let u := expNum (-toFx false a b)
      let w : Nat := if 0 ≤ u.2 then u.1 * 2 ^ u.2.toNat else u.1 / 2 ^ (-u.2).toNat
      if n then (sticky false (w * 2 ^ 850 / (2 ^ fxBits + w)) (-850), false, 0#5)
      else (sticky false (2 ^ fxBits * 2 ^ 850 / (2 ^ fxBits + w)) (-850), false, 0#5)

/-- Truncation toward zero to 40 significant bits (R269). -/
def trunc40 : Num → Num
  | .fin n a b =>
    if a = 0 then .fin n a b
    else
      let k := ilog2 a b - 39
      let q := if 0 ≤ k then a / (b * 2 ^ k.toNat) else a * 2 ^ (-k).toNat / b
      let r := scaled q k
      .fin n r.1 r.2
  | x => x

/-- THE RESULT OF A SPECIAL FUNCTION (R269): correctly rounded in 16 bits or fewer; in binary32 the 40-bit truncation
converted; NX unless the exact value is representable and is the result. -/
def specialResult (v : Special) (f : Fmt) (rm : Rm) (nsat : Bool) (r : Nat) : Nat × FpFlags :=
  match f with
  | .fp 24 8 =>
    let c := convert (trunc40 v.1) f rm nsat r
    let exactRep := v.2.1 && decide ((convert v.1 f .rtz true 0).2 &&& fNX = 0#5)
    (c.1, v.2.2 ||| (c.2 &&& ~~~fNX) ||| (if exactRep && decide (c.2 &&& fNX = 0#5) then 0#5 else fNX))
  | _ =>
    let c := convert v.1 f rm nsat r
    (c.1, v.2.2 ||| c.2 ||| (if v.2.1 then 0#5 else fNX))

end Sys2Proof.Machine
end

