-- ==== Sys2Proof/Machine/Operands.lean ====
section
/-! DEFINITION. The operand forms of the scalar instructions: sizes, immediates, addresses (R109, R110, R161, R163), and the
integer results of OPR and XALU (R141, R284). -/

namespace Sys2Proof.Machine

/-- The bytes of an access size (R110). -/
def szN : Size → Nat
  | .b => 1
  | .h => 2
  | .w => 4
  | .d => 8

/-- The bytes of a strong access (R110): SZ8. -/
def szBytes (d8 : Bool) : Nat := if d8 then 8 else 4

/-- A signed immediate (R9). -/
def simm {w : Nat} (v : BitVec w) : DWord := v.signExtend 64

/-- The effective address or pad offset of the AM format (R161, R163). -/
def eaOf (base : DWord) (pi : Bool) (off : BitVec 8) : DWord := if pi then base else base + simm off

/-- The high half of the signed product (R141). -/
def mulHi (x y : DWord) : DWord := BitVec.ofInt 64 (x.toInt * y.toInt / 2 ^ 64)

/-- The high half of the unsigned product. -/
def mulHiU (x y : DWord) : DWord := BitVec.ofNat 64 (x.toNat * y.toNat / 2 ^ 64)

/-- The signed quotient, rounded toward zero; -1 for a zero divisor (R141). -/
def divS {w : Nat} (x y : BitVec w) : BitVec w := if y = 0#w then BitVec.allOnes w else x.sdiv y

/-- The unsigned quotient; all ones for a zero divisor. -/
def divU {w : Nat} (x y : BitVec w) : BitVec w := if y = 0#w then BitVec.allOnes w else x.udiv y

/-- The signed remainder; the dividend for a zero divisor. -/
def remS (x y : DWord) : DWord := if y = 0#64 then x else x.srem y

/-- The unsigned remainder. -/
def remU (x y : DWord) : DWord := if y = 0#64 then x else x.umod y

/-- The smaller of two, signed. -/
def minS {w : Nat} (x y : BitVec w) : BitVec w := if x.slt y then x else y

/-- The larger of two, signed. -/
def maxS {w : Nat} (x y : BitVec w) : BitVec w := if x.slt y then y else x

/-- The smaller of two, unsigned. -/
def minU {w : Nat} (x y : BitVec w) : BitVec w := if x.ult y then x else y

/-- The larger of two, unsigned. -/
def maxU {w : Nat} (x y : BitVec w) : BitVec w := if x.ult y then y else x

/-- The amount of a scalar shift: the low six bits (R141). -/
def shAmt (y : DWord) : Nat := (y.extractLsb' 0 6).toNat

/-- Leading zeros among the bits below position n. -/
def clzFrom (x : DWord) : Nat → Nat
  | 0 => 0
  | n + 1 => if x.getLsbD n then 0 else 1 + clzFrom x n

/-- One bits below position n. -/
def popFrom (x : DWord) : Nat → Nat
  | 0 => 0
  | n + 1 => (if x.getLsbD n then 1 else 0) + popFrom x n

/-- CLZ (R141). -/
def clzW (x : DWord) : DWord := BitVec.ofNat 64 (clzFrom x 64)

/-- POPC (R141). -/
def popcW (x : DWord) : DWord := BitVec.ofNat 64 (popFrom x 64)

/-- The value of n bytes as a register holds it, zero-extended. -/
def ofBytes (bs : List Byte) : DWord := BitVec.ofNat 64 (leNat bs)

/-- The value of n bytes sign-extended (R161). -/
def ofBytesS (bs : List Byte) : DWord :=
  BitVec.ofInt 64 (BitVec.ofNat (8 * bs.length) (leNat bs)).toInt

/-- The low n bytes of a register. -/
def toBytes (n : Nat) (v : DWord) : List Byte := leBytes n v.toNat

/-- The new value of an atomic operation (R167) at a width. -/
def amoNew {w : Nat} (op : StrongOp) (old opd : BitVec w) : BitVec w :=
  match op with
  | .add => old + opd
  | .and => old &&& opd
  | .or => old ||| opd
  | .xor => old ^^^ opd
  | .min => minS old opd
  | .max => maxS old opd
  | .minu => minU old opd
  | .maxu => maxU old opd
  | .swap => opd
  | .load | .cas | .store => opd

end Sys2Proof.Machine
end

