-- ==== Sys2Proof/Machine/Links.lean ====
section
/-! DEFINITION. The peer links (R421 to R424) and the die bridge (R425 to R427): routes, flits, requests to and from other
devices, link recovery, and the modules' states. -/

namespace Sys2Proof.Machine

/-! ### Peer links -/

/-- The route entry of a slot (R424). -/
def routeOf (s : State) (slot : Nat) : BitVec 16 := mget 0#16 s.routes slot

/-- The port of a route entry. -/
def routePort (e : BitVec 16) : Nat := (e.extractLsb' 0 3).toNat

/-- A peer port. -/
def State.peer (s : State) (p : Nat) : Peer := mget {} s.peers p

/-- Replaces a peer port. -/
def State.setPeer (s : State) (p : Nat) (x : Peer) : State := { s with peers := mset s.peers p x }

/-- Whether the route to a slot is not down (R423): its entry is valid and its port up or training. -/
def routeUp (s : State) (slot : Nat) : Bool :=
  (routeOf s slot).getLsbD 8 && decide ((s.peer (routePort (routeOf s slot))).st ≠ 0)

/-- One step of CRC-32 for one bit, the least significant first. -/
def crcBit (r : BitVec 32) (b : Bool) : BitVec 32 :=
  let x := r >>> 1
  if (r.getLsbD 0 != b) then x ^^^ 0xEDB88320#32 else x

/-- The CRC-32 of IEEE 802.3 (R421). -/
def crc32 (l : List Byte) : BitVec 32 :=
  ~~~(l.foldl (fun r b => (List.range 8).foldl (fun r i => crcBit r (b.getLsbD i)) r) 0xFFFFFFFF#32)

/-- Bytes [251:0] of a flit (R421). -/
def flitText (f : Flit) : List Byte :=
  leBytes 1 f.type ++ leBytes 1 (f.dst % 64) ++ leBytes 1 (f.src % 64) ++ leBytes 1 (f.via % 64 + 64 * bit f.viaV)
    ++ leBytes 2 (f.seq % 4096) ++ leBytes 2 (f.ack % 4096 + 0x8000 * bit f.nak) ++ (f.data ++ List.replicate 244 0#8).take 244

/-- The 256 bytes of a flit (R421). -/
def flitBytes (f : Flit) : List Byte := flitText f ++ leBytes 4 f.crc.toNat

/-- Whether the CRC of a flit is right (R422). -/
def Flit.good (f : Flit) : Bool := decide (f.crc = crc32 (flitText f))

/-- A flit with its CRC. -/
def sealFlit (f : Flit) : Flit := { f with crc := crc32 (flitText f) }

/-- Sends the flits of a port that wait, as long as it is up and its replay buffer has room: each takes the next link sequence number
and stays in the replay buffer (R422). The first argument bounds their number. -/
def pumpTx : Nat → Nat → State → State
  | 0, _, s => s
  | n + 1, p, s =>
    let x := s.peer p
    match x.txq with
    | [] => s
    | f :: t =>
      if x.st ≠ 2 ∨ 1024 ≤ x.replay.length then s
      else
        let f1 := sealFlit { f with seq := (x.txSeq + 1) % 4096, ack := x.rxSeq, nak := false }
        let s1 := s.setPeer p { x with txSeq := (x.txSeq + 1) % 4096, replay := x.replay ++ [f1], txq := t }
        pumpTx n p { s1 with out := s1.out ++ [.flit p f1] }

/-- The port sends what waits and can be sent. -/
def pump (s : State) (p : Nat) : State := pumpTx (s.peer p).txq.length p s

/-- Sends a flit on a port, after those that wait. -/
def sendOn (s : State) (p : Nat) (f : Flit) : State :=
  pump (s.setPeer p { s.peer p with txq := (s.peer p).txq ++ [f] }) p

/-- A message as bytes: the length of each number in bytes, then the number (the model's own form). -/
def wire (l : List Nat) : List Byte :=
  l.flatMap fun n =>
    let k := if n = 0 then 0 else Nat.log2 n / 8 + 1
    leBytes 1 k ++ leBytes k n

/-- The numbers of a message. The first argument bounds them. -/
def unwire : Nat → List Byte → List Nat
  | 0, _ => []
  | _ + 1, [] => []
  | n + 1, k :: t => leNat (t.take k.toNat) :: unwire n (t.drop k.toNat)

/-- The payloads of a message (R421): each holds the count of its bytes, in bit 15 whether it is the last, and up to 242 bytes (the
model's own form). The first argument bounds them. -/
def payloads : Nat → List Byte → List (List Byte)
  | 0, _ => []
  | n + 1, b =>
    if b.length ≤ 242 then [leBytes 2 (b.length + 0x8000) ++ b ++ List.replicate (242 - b.length) 0#8]
    else (leBytes 2 242 ++ b.take 242) :: payloads n (b.drop 242)

/-- The flits of a message to a slot along its route, before they are sent. -/
def flitsOf (s : State) (type slot : Nat) (data : List Nat) : List Flit :=
  let e := routeOf s slot
  let b := wire data
  (payloads (b.length / 242 + 1) b).map fun p =>
    { type := type, dst := slot, src := s.record.slot, via := (e.extractLsb' 10 6).toNat, viaV := e.getLsbD 9, data := p }

/-- Sends a request (type 1) or response (type 2) to a slot along its route (R423). -/
def sendFlit (s : State) (type slot : Nat) (data : List Nat) : State :=
  (flitsOf s type slot data).foldl (fun s f => sendOn s (routePort (routeOf s slot)) f) s

/-- Sends a response; where its route is down it is lost, and counted (R423). -/
def sendBack (s : State) (slot : Nat) (data : List Nat) : State :=
  if routeUp s slot then sendFlit s 2 slot data else { s with flitDrop := s.flitDrop + 1 }

/-- The new contents and the value returned of a strong operation of a size on the bytes at an address (R86, R167, R168);
none where nothing is written. -/
def strongApply (op : StrongOp) (n : Nat) (old a b : DWord) : Option DWord :=
  match op with
  | .load => none
  | .store => some a
  | .cas => if (if n = 4 then old.setWidth 32 = b.setWidth 32 else old = b) then some a else none
  | _ =>
    if n = 4 then some ((amoNew op (old.setWidth 32 : BitVec 32) (a.setWidth 32)).setWidth 64)
    else some (amoNew op old a)

/-- Performs a strong operation on the device's memory at a physical address: the old value and the new state. -/
def strongAt (s : State) (op : StrongOp) (pa n : Nat) (a b : DWord) : DWord × State :=
  let old := ofBytes (memN s pa n)
  match strongApply op n old a b with
  | none => (old, s)
  | some v => (old, putN s pa (toBytes n v))

/-- The number of a strong operation in a request. -/
def StrongOp.num : StrongOp → Nat
  | .load => 0 | .store => 1 | .cas => 2 | .add => 3 | .and => 4 | .or => 5 | .xor => 6 | .min => 7 | .max => 8
  | .minu => 9 | .maxu => 10 | .swap => 11

/-- The strong operation of a number. -/
def StrongOp.ofNum (n : Nat) : StrongOp :=
  match n with
  | 0 => .load | 1 => .store | 2 => .cas | 3 => .add | 4 => .and | 5 => .or | 6 => .xor | 7 => .min | 8 => .max
  | 9 => .minu | 10 => .maxu | _ => .swap

/-- Ends the wait of a context for its strong access of another device: the old value, or none for a failure. -/
def strongAnswer (s : State) (ag : Nat) (v : Option DWord) : State :=
  let c := s.ctx ag
  if c.wait = .remote then
    s.setCtx ag { c with ans := some (match v with
                    | some x => .value x
                    | none => .refused) }
  else s

/-- A request of this device is answered: [number, status, value or row …] (the model's own form). -/
def peerResponse (s : State) (data : List Nat) : State :=
  match data with
  | id :: st :: rest =>
    match s.preqs.find? (fun q => decide (q.id = id)) with
    | none => s
    | some q =>
      let s1 := { s with preqs := s.preqs.filter fun q => decide (q.id ≠ id) }
      match q.ag, q.gath with
      | some ag, _ => strongAnswer s1 ag (if st = 0 then some (BitVec.ofNat 64 (rest.headD 0)) else none)
      | none, some (core, cmd, el) => { s1 with gathRet := s1.gathRet ++ [(core, cmd, el, st, rest)] }
      | none, none => s1
  | _ => s

/-- A request of another device to this one (the model's own form): a strong access of this device's memory, [number, 0, offset,
size, operation, operands] (R86); a gather request, whose kind is 1 to 3 (R338, R348, R349), waits for its owner's engine. -/
def peerRequest (s : State) (src : Nat) (data : List Nat) : State :=
  match data with
  | [id, 0, off, n, op, a, b] =>
    if 0xC000000000 < off + n then sendBack s src [id, 7, 7]
    else
      let r := strongAt s (StrongOp.ofNum op) off n (BitVec.ofNat 64 a) (BitVec.ofNat 64 b)
      sendBack r.2 src [id, 0, r.1.toNat]
  | _ :: k :: _ =>
    if 1 ≤ k ∧ k ≤ 3 then { s with gathIn := s.gathIn ++ [(src, data)] } else { s with flitDrop := s.flitDrop + 1 }
  | _ => { s with flitDrop := s.flitDrop + 1 }

/-- The flits of a replay buffer after a sequence number has been acknowledged (R422). -/
def afterAck (a : Nat) (l : List Flit) : List Flit :=
  if l.any (fun f => decide (f.seq = a)) then (l.dropWhile fun f => decide (f.seq ≠ a)).drop 1 else l

/-- A port retrains (R422). -/
def peerRetrain (s : State) (p : Nat) : State :=
  let x := s.peer p
  s.setPeer p { x with st := 1, since := s.cycle, retrains := min (x.retrains + 1) 0xFFFF, resends := 0 }

/-- A flit with a bad CRC or out of order is discarded, and a NAK names the last good one (R422). -/
def peerBadFlit (s : State) (p : Nat) (f : Flit) : State :=
  let x := s.peer p
  let s1 := s.setPeer p { x with crcs := if f.good then x.crcs else x.crcs + 1, nakSent := true }
  { s1 with out := s1.out ++ [.flit p (sealFlit { type := 3, src := s.record.slot, ack := x.rxSeq, nak := true })] }

/-- The part of a message that a payload carries, and whether it is the last. -/
def payloadOf (f : Flit) : List Byte × Bool :=
  let n := leNat (f.data.take 2)
  ((f.data.drop 2).take (n % 0x8000), decide (0x8000 ≤ n))

/-- A flit for this device is consumed: the message of a request or response is complete with its last part. -/
def peerConsume (s : State) (f : Flit) : State :=
  let k := f.type * 64 + f.src % 64
  let x := payloadOf f
  let b := mget [] s.parts k ++ x.1
  if !x.2 then { s with parts := mset s.parts k b }
  else
    let s1 := { s with parts := mdel s.parts k }
    let m := unwire b.length b
    if f.type = 1 then peerRequest s1 f.src m else if f.type = 2 then peerResponse s1 m else s1

/-- A good flit in order is consumed, forwarded on the direct route to its slot, or dropped and counted (R423). -/
def peerDeliver (s : State) (f : Flit) : State :=
  if f.dst = s.record.slot then peerConsume s f
  else if f.viaV ∧ f.via = s.record.slot ∧ routeUp s f.dst ∧ !(routeOf s f.dst).getLsbD 9 then
    sendOn s (routePort (routeOf s f.dst)) f
  else { s with flitDrop := s.flitDrop + 1 }

/-- The flits that the far end has received leave the replay buffer, and those that wait take their place (R422). -/
def ackFlits (s : State) (p a : Nat) : State :=
  let x := s.peer p
  let l := afterAck a x.replay
  pump (s.setPeer p { x with replay := l, resends := if l = x.replay then x.resends else 0 }) p

/-- PEER_FLIT_RECEIVE (R421 to R423). Idle and link-control flits are not sequenced; a flit out of order after a NAK is discarded
without another. -/
def execPeerFlitReceive (s : State) : Out1 :=
  let p := s.arg.port
  let f := s.arg.flit
  let x := s.peer p
  if x.st ≠ 2 then .next s
  else if !f.good then .next (peerBadFlit s p f)
  else if f.nak then .next s
  else if f.type = 0 ∨ f.type = 3 then .next (ackFlits s p f.ack)
  else if f.seq ≠ (x.rxSeq + 1) % 4096 then .next (if x.nakSent then s else peerBadFlit s p f)
  else .next (peerDeliver (ackFlits (s.setPeer p { x with rxSeq := f.seq, nakSent := false }) p f.ack) f)

/-- PEER_NAK (R422): the flits after the last good one are sent again; after 8 resends of one flit the port retrains. -/
def execPeerNak (s : State) : Out1 :=
  let p := s.arg.port
  let f := s.arg.flit
  let x := s.peer p
  if x.st ≠ 2 then .next s
  else if !f.good then .next (peerBadFlit s p f)
  else if !f.nak then .next s
  else
    let l := afterAck f.ack x.replay
    let n := if l.length < x.replay.length then 1 else x.resends + 1
    let s1 := s.setPeer p { x with replay := l, resends := n, retries := min (x.retries + l.length) 0xFFFFFFFF }
    if l = [] then .next (pump s1 p)
    else if 8 < n then .next (peerRetrain s1 p)
    else .next (pump { s1 with out := s1.out ++ l.map fun f => .flit p f } p)

/-- The first port whose retrain has failed to end within 10 ms. -/
def lateRetrain (s : State) : Option Nat :=
  mfind (fun _ x => decide (x.st = 1 ∧ x.since + 15000000 ≤ s.cycle)) s.peers

/-- PEER_RETRAIN_TIMEOUT (R422): the port is down. -/
def execPeerRetrainTimeout (s : State) : Out1 :=
  match lateRetrain s with
  | none => .next s
  | some p => .next (s.setPeer p { s.peer p with st := 0 })

/-- PEER_TRAINING_DONE (R422): the port is up, and sends its replay buffer again. -/
def execPeerTrainingDone (s : State) : Out1 :=
  let p := s.arg.port
  let x := s.peer p
  if x.st = 2 ∨ 8 ≤ p then .next s
  else
    let s1 := s.setPeer p { x with st := 2, resends := 0, nakSent := false }
    .next (pump { s1 with out := s1.out ++ x.replay.map fun f => .flit p f } p)

/-- The first request to another device that has failed: its route is down, or it has had no response for 2^20 cycles
(R423); gather elements are left to PEER_UNREACHABLE. -/
def deadReq (s : State) : Option PeerReq :=
  s.preqs.find? fun q => decide (q.ag ≠ none) && (!routeUp s q.slot || decide (q.at_ + 2 ^ 20 ≤ s.cycle))

/-- PEER_REQUEST_TIMEOUT (R423): a strong access fails with No Memory. -/
def execPeerRequestTimeout (s : State) : Out1 :=
  match deadReq s with
  | none => .next s
  | some q =>
    let s1 := { s with preqs := s.preqs.filter fun x => decide (x.id ≠ q.id) }
    match q.ag with
    | some ag => .next (strongAnswer s1 ag none)
    | none => .next s1

/-- PLRDATA_WRITE (R424): the route entry that PLROUTE of the writer's die selects takes the written fields. -/
def execPlrdataWrite (s : State) : Out1 :=
  match s.csrq with
  | (ag, 0x923, v) :: t =>
    .next { s with csrq := t, routes := mput 0#16 s.routes (s.die (agDie ag)).plroute (v.setWidth 16 &&& 0xFF07#16) }
  | _ => .next s

/-! ### The die bridge -/

/-- A bridge module. -/
def State.brMod (s : State) (m : Nat) : BrMod := mget {} s.bridge m

/-- Replaces a bridge module. -/
def State.setBrMod (s : State) (m : Nat) (x : BrMod) : State := { s with bridge := mset s.bridge m x }

/-- The first other module than m that is ACTIVE and not pausing. -/
def otherActive (s : State) (m : Nat) : Option Nat :=
  (List.range 32).find? fun k => decide (k ≠ m ∧ (s.brMod k).st = 0 ∧ (s.brMod k).busy = none)

/-- A module whose COUNT has reached THR sets its HIT bit, and each Director gets a Bridge event (R426). -/
def brThreshold (s : State) (m : Nat) : State :=
  if s.brThr ≤ (s.brMod m).count ∧ ¬ s.brHit.getLsbD m then
    let s1 := { s with brHit := s.brHit ||| BitVec.twoPow 32 m }
    raiseEvent (raiseEvent s1 0 5 0xFFFF (leBytes 8 s1.brHit.toNat)) 1 5 0xFFFF (leBytes 8 s1.brHit.toNat)
  else s

/-- Every module is tested against THR (a write of BRTHR). -/
def brThresholds (s : State) : State := (List.range 32).foldl brThreshold s

/-- BRIDGE_FLIT_RETRY (R425, R426): a flit of module `arg.port` had a bad CRC and awaits its retry; or, where `ok` says so, the
retry of one has got across. -/
def execBridgeFlitRetry (s : State) : Out1 :=
  let m := s.arg.port % 32
  let x := s.brMod m
  if x.st ≠ 0 then .next s
  else if s.arg.ok then .next (s.setBrMod m { x with held := x.held - 1 })
  else .next (brThreshold (s.setBrMod m { x with count := min (x.count + 1) 0xFFFFFFFF, held := x.held + 1,
                                                 crcerr := min (x.crcerr + 1) 0xFFFFFFFF }) m)

/-- Refuses a BRCTL operation: ERR is set and nothing else changes (R427). -/
def brRefuse (s : State) (m : Nat) : State := s.setBrMod m { s.brMod m with err := true }

/-- A byte of a repair map. -/
def mapByte (map : BitVec 32) (i : Nat) : Nat := (map.extractLsb' (8 * i) 8).toNat

/-- Whether a repair map is one that RETRAIN refuses at a width (R427). -/
def badMap (map : BitVec 32) (width : Nat) : Bool :=
  let used := (List.range 4).filter fun i => decide (128 ≤ mapByte map i)
  used.any (fun i =>
    let lane := mapByte map i % 64
    decide (lane / 32 ≠ i / 2) || decide (width = 1 ∧ 32 ≤ lane) || decide (width = 2 ∧ lane < 32)
      || used.any (fun k => decide (k ≠ i ∧ mapByte map k % 64 = lane)))

/-- The BRCTL write that waits, if its operation is the given one: the module, the width, the rest (R426). -/
def brctlHead (s : State) (op : Nat) : Option (Nat × Nat × List (Nat × Nat × DWord)) :=
  match s.csrq with
  | (ag, 0x904, v) :: t =>
    if (v.extractLsb' 0 3).toNat = op then some ((s.die (agDie ag)).brsel, (v.extractLsb' 4 2).toNat, t) else none
  | _ => none

/-- BRCTL_PAUSE (R427): flits that await retry on the module are resent on another. A PAUSE of a module whose PAUSE is under way is
refused (14_director.md, the bridge routine's outcomes). -/
def execBrctlPause (s : State) : Out1 :=
  match brctlHead s 1 with
  | none => .next s
  | some (m, _, t) =>
    let s1 := { s with csrq := t }
    let x := s1.brMod m
    match otherActive s1 m with
    | none => .next (brRefuse s1 m)
    | some k =>
      if x.st ≠ 0 ∨ x.busy.isSome then .next (brRefuse s1 m)
      else
        let s2 := s1.setBrMod k { s1.brMod k with held := (s1.brMod k).held + x.held }
        .next (s2.setBrMod m { x with err := false, held := 0, busy := some (false, s.cycle) })

/-- BRCTL_RESUME (R427). -/
def execBrctlResume (s : State) : Out1 :=
  match brctlHead s 2 with
  | none => .next s
  | some (m, _, t) =>
    let s1 := { s with csrq := t }
    let x := s1.brMod m
    if x.st ≠ 1 then .next (brRefuse s1 m)
    else .next (s1.setBrMod m { x with err := false, st := 0 })

/-- BRCTL_RETRAIN (R427). -/
def execBrctlRetrain (s : State) : Out1 :=
  match brctlHead s 3 with
  | none => .next s
  | some (m, w, t) =>
    let s1 := { s with csrq := t }
    let x := s1.brMod m
    if w = 3 ∨ (x.st ≠ 1 ∧ x.st ≠ 3) ∨ badMap x.repair w then .next (brRefuse s1 m)
    else .next (s1.setBrMod m { x with err := false, st := 2, width := w, busy := some (true, s.cycle) })

/-- BRREPAIR_WRITE (R427): only while PAUSED or DOWN; otherwise ignored, with ERR. -/
def execBrrepairWrite (s : State) : Out1 :=
  match s.csrq with
  | (ag, 0x903, v) :: t =>
    let s1 := { s with csrq := t }
    let m := (s.die (agDie ag)).brsel
    let x := s1.brMod m
    if x.st = 1 ∨ x.st = 3 then .next (s1.setBrMod m { x with repair := v.setWidth 32 &&& 0xBFBFBFBF#32 })
    else .next (brRefuse s1 m)
  | _ => .next s

/-- The first module whose PAUSE has had its 400 cycles. -/
def pauseDone (s : State) : Option Nat :=
  mfind (fun _ x => match x.busy with
    | some (false, t) => decide (t + 400 ≤ s.cycle)
    | _ => false) s.bridge

/-- BRIDGE_PAUSE_DONE (R427). -/
def execBridgePauseDone (s : State) : Out1 :=
  match pauseDone s with
  | none => .next s
  | some m => .next (s.setBrMod m { s.brMod m with st := 1, busy := none })

/-- The first module whose RETRAIN has had its 30,000 cycles. -/
def trainDone (s : State) : Option Nat :=
  mfind (fun _ x => match x.busy with
    | some (true, t) => decide (t + 30000 ≤ s.cycle)
    | _ => false) s.bridge

/-- BRIDGE_TRAINING_DONE (R427): PAUSED, or DOWN if training fails; whether the lanes train is a free value. -/
def execBridgeTrainingDone (s : State) : Out1 :=
  match trainDone s with
  | none => .next s
  | some m =>
    let x := s.brMod m
    let sp := (List.range 4).foldl (fun n i => if 128 ≤ mapByte x.repair i then n + 2 ^ i else n) 0
    .next ({ s with free := s.free + 1 }.setBrMod m
      { x with st := if Config.freeBit s.free then 1 else 3, spares := sp, busy := none })

end Sys2Proof.Machine
end

