-- ==== Sys2Proof/Machine/Memory.lean ====
section
/-! DEFINITION. Loads and stores (R161 to R164), strong accesses (R165 to R168), fences (R169), and the device steps that
complete them: page walks, returning loads, performed stores, strong accesses of other devices. -/

namespace Sys2Proof.Machine

/-- Lets an instruction go on with the physical addresses of an access; a miss starts walks and waits, a failure is a Memory
Fault (R161, R185). -/
def withAccess (s : State) (ea n : Nat) (w sys : Bool) (k : List Nat → Res) : Res :=
  match xlateN s s.cur ea n w sys with
  | .ok pas => k pas
  | .fail m va => .trap 6 (BitVec.ofNat 64 va) m
  | .miss vas => .wait (startWalks s vas)

/-- Records an outstanding load whose register is still to be written (R138); one of a0 is outstanding too (R140). -/
def addLoad (s : State) (rd : Nat) (v : DWord) : State :=
  s.setMe { s.me with loads := (if rd = 0 then s.me.loads else orphan rd s.me.loads) ++ [{ rd := rd, val := some v }] }

/-- The post-increment of the AM format. -/
def postInc (s : State) (rb : BitVec 5) (pi : Bool) (off : BitVec 8) : State :=
  if pi then setR s rb.toNat (getR s rb.toNat + simm off) else s

/-- LD (R161). -/
def execLd (r : Ring) (rd rb : BitVec 5) (sz : Size) (pi sx : Bool) (off : BitVec 8) (s : State) : Out1 :=
  issue (.ld r rd rb sz pi sx off) r .any (fun s =>
    let ea := (eaOf (getR s rb.toNat) pi off).toNat
    if 16 ≤ s.me.loads.length then .wait s
    else withAccess s ea (szN sz) false false fun pas =>
      match poisonAt s pas with
      | some u => .poison u false
      | none =>
        let bs := pas.map (viewByte s s.cur)
        .ok (postInc (addLoad s rd.toNat (if sx then ofBytesS bs else ofBytes bs)) rb pi off)) s

/-- The tag under which the issuing context acts (R463); 0 outside a software-pipelined loop. -/
def myTag (s : State) : Nat := (tagOf s.myCore (agEng s.cur).num).getD 0

/-- ST (R161): the bytes are held as an ordinary store (R79). -/
def execSt (r : Ring) (rs rb : BitVec 5) (sz : Size) (pi : Bool) (off : BitVec 8) (s : State) : Out1 :=
  issue (.st r rs rb sz pi off) r .any (fun s =>
    let ea := (eaOf (getR s rb.toNat) pi off).toNat
    if 32 ≤ s.me.stores.length then .wait s
    else withAccess s ea (szN sz) true false fun pas =>
      let st : Store := { tag := myTag s, bytes := pas.zip (toBytes (szN sz) (getR s rs.toNat)) }
      .ok (postInc (s.setMe { s.me with stores := s.me.stores ++ [st] }) rb pi off)) s

/-! ### The pad -/

/-- Whether a pad line lies inside the buffer of an open stream port (R164, R192). -/
def inOpenBuffer (c : Core) (off : Nat) : Bool :=
  c.ports.any fun p => decide (p.2.st ≠ .closed ∧ p.2.banks ≠ 0 ∧ p.2.fbank * 8192 ≤ off
    ∧ off < (p.2.fbank + p.2.banks) * 8192)

/-- Whether an access of n bytes at an offset leaves the pad (R66, R163). -/
def padBad (off n : Nat) : Bool := decide (0x200000 < off + n)

/-- LDP, plain form (R163). -/
def execLdp (r : Ring) (rd rb : BitVec 5) (sz : Size) (pi : Bool) (off : BitVec 8) (s : State) : Out1 :=
  issue (.ldp r rd rb sz pi off) r .noDir (fun s =>
    let o := (eaOf (getR s rb.toNat) pi off).toNat
    if padBad o (szN sz) then .trap 7 (BitVec.ofNat 64 o) 0
    else
      match padPoison s.myCore o (szN sz) with
      | some u => .poison u true
      | none => .ok (postInc (setR s rd.toNat (ofBytes (s.myCore.padN o (szN sz)))) rb pi off)) s

/-- STP, plain form (R163). -/
def execStp (r : Ring) (rs rb : BitVec 5) (sz : Size) (pi : Bool) (off : BitVec 8) (s : State) : Out1 :=
  issue (.stp r rs rb sz pi off) r .noDir (fun s =>
    let o := (eaOf (getR s rb.toNat) pi off).toNat
    if padBad o (szN sz) then .trap 7 (BitVec.ofNat 64 o) 0
    else
      let c := wroteEv s.myCore (agEng s.cur).num
      .ok (postInc (s.setMyCore (c.putPad o (toBytes (szN sz) (getR s rs.toNat)))) rb pi off)) s

/-- The traps of the full/empty forms, in the order of R185: Pad State, Misaligned, Pad Range. -/
def feTrap (c : Core) (o n : Nat) : Option Nat :=
  if inOpenBuffer c (o / 64 * 64) then some 8
  else if o % n ≠ 0 then some 5
  else if padBad o n then some 7
  else none

/-- LDP.F (R164). -/
def execLdpF (r : Ring) (rd rb : BitVec 5) (sz : Size) (off : BitVec 8) (s : State) : Out1 :=
  issue (.ldpF r rd rb sz off) r .noDir (fun s =>
    let o := (eaOf (getR s rb.toNat) false off).toNat
    match feTrap s.myCore o (szN sz) with
    | some code => .trap code (BitVec.ofNat 64 o) 0
    | none =>
      if !s.myCore.feOf (o / 64 * 64) then .wait s
      else
        match padPoison s.myCore o (szN sz) with
        | some u => .poison u true
        | none =>
          let s1 := setR s rd.toNat (ofBytes (s.myCore.padN o (szN sz)))
          .ok (if (o + (szN sz)) % 64 = 0 then s1.setMyCore (s1.myCore.setFe (o / 64 * 64) false) else s1)) s

/-- STP.E (R164). -/
def execStpE (r : Ring) (rs rb : BitVec 5) (sz : Size) (off : BitVec 8) (s : State) : Out1 :=
  issue (.stpE r rs rb sz off) r .noDir (fun s =>
    let o := (eaOf (getR s rb.toNat) false off).toNat
    match feTrap s.myCore o (szN sz) with
    | some code => .trap code (BitVec.ofNat 64 o) 0
    | none =>
      if s.myCore.feOf (o / 64 * 64) then .wait s
      else
        let c := (wroteEv s.myCore (agEng s.cur).num).putPad o (toBytes (szN sz) (getR s rs.toNat))
        .ok (s.setMyCore (if (o + (szN sz)) % 64 = 0 then c.setFe (o / 64 * 64) true else c))) s

/-! ### Publish points and strong accesses -/

/-- A port as its last queued SOPEN, if any, leaves it. -/
def queuedPort (c : Core) (n : Nat) : Port :=
  match c.strq.reverse.findSome? (fun x => match x.2 with
    | .opn m v => if m = n then some v else none
    | _ => none) with
  | some v => v
  | none => mget {} c.ports n

/-- Whether a port is a direct drain of an agent (R79, R191). -/
def ownDrain (ag : Nat) (p : Port) : Bool := decide (p.owner = ag ∧ p.src = .pad ∧ p.dst = .glob)

/-- Whether commands of the issuing member that a publish point waits for are still to be performed (R79): its SCAT, SCATA
and GSYNC commands, and its direct drains, also one whose SGO has issued and not yet taken effect. -/
def pubBusy (s : State) : Bool :=
  match agEng s.cur with
  | .dir => false
  | _ =>
    s.myCore.gcmds.any (fun g => decide (g.ag = s.cur) && (match g.op with
      | .scat _ | .scata _ | .sync => true
      | _ => false))
    || s.myCore.ports.any (fun p => ownDrain s.cur p.2 && decide (p.2.st = .run ∨ p.2.st = .fault))
    || s.myCore.strq.any (fun x => match x.2 with
      | .go n => ownDrain s.cur (queuedPort s.myCore n)
      | _ => false)

/-- A publish point (R79): it waits for the member's commands, and performs its held stores. -/
def atPublish (s : State) (k : State → Res) : Res := if pubBusy s then .wait s else k (publish s)

/-- Whether an order makes a strong access a publish point (R89). -/
def isRelease (o : Ord) : Bool := decide (o = .rel ∨ o = .ar)

/-- A strong access (R86, R165 to R168): alignment, translation, and, in the device's own memory, the operation at once on
what the member's own stores have left (R87); on memory of another slot a request, whose answer ends the instruction. -/
def strongOp (op : StrongOp) (rd : Nat) (ea : DWord) (sc : Scope) (d8 : Bool) (rel : Bool) (a b : DWord) (s : State) : Res :=
  let n := szBytes d8
  let w := decide (op ≠ .load)
  if ea.toNat % n ≠ 0 then .trap 5 ea 0
  else if s.me.wait = .remote then
    match s.me.ans with
    | some (.value v) => .ok (if op = .store then s else addLoad s rd v)
    | some _ => .trap 6 ea 7
    | none => .wait s
  else if (op ≠ .store ∧ 16 ≤ s.me.loads.length) ∨ (w = true ∧ 32 ≤ s.me.stores.length) then .wait s
  else
    withAccess s ea.toNat n w (decide (sc = .sys)) fun pas =>
      let go (s : State) : Res :=
        let pa := pas.headD 0
        if pa / 2 ^ 40 ≠ s.record.slot then
          .wait (s.setMe { s.me with wait := .remote, ans := none, strong := some (pa, n, op, a, b) })
        else
          match poisonAt s pas with
          | some u => .poison u false
          | none =>
            let r := strongAt (publish s) op pa n a b
            let s1 := irrevMe r.2
            .ok (if op = .store then s1 else addLoad s1 rd r.1)
      if rel then atPublish s go else go s

/-- LDA (R165, R166). -/
def execLda (r : Ring) (rd rb : BitVec 5) (ord : Ord) (sc : Scope) (d8 : Bool) (s : State) : Out1 :=
  issue (.lda r rd rb ord sc d8) r .any
    (fun s => strongOp .load rd.toNat (getR s rb.toNat) sc d8 false 0#64 0#64 s) s

/-- STL (R165, R166). -/
def execStl (r : Ring) (rb rs : BitVec 5) (ord : Ord) (sc : Scope) (d8 : Bool) (s : State) : Out1 :=
  issue (.stl r rb rs ord sc d8) r .any
    (fun s => strongOp .store 0 (getR s rb.toNat) sc d8 (isRelease ord) (getR s rs.toNat) 0#64 s) s

/-- AMO.op (R167). -/
def amo (op : StrongOp) (i : Instr) (r : Ring) (rd rb rs : BitVec 5) (ord : Ord) (sc : Scope) (d8 : Bool) (s : State) :
    Out1 :=
  issue i r .any (fun s => strongOp op rd.toNat (getR s rb.toNat) sc d8 (isRelease ord) (getR s rs.toNat) 0#64 s) s

/-- AMO.ADD (R167). -/
def execAmoAdd (r : Ring) (rd rb rs : BitVec 5) (ord : Ord) (sc : Scope) (d8 : Bool) (s : State) : Out1 :=
  amo .add (.amoAdd r rd rb rs ord sc d8) r rd rb rs ord sc d8 s

/-- AMO.AND (R167). -/
def execAmoAnd (r : Ring) (rd rb rs : BitVec 5) (ord : Ord) (sc : Scope) (d8 : Bool) (s : State) : Out1 :=
  amo .and (.amoAnd r rd rb rs ord sc d8) r rd rb rs ord sc d8 s

/-- AMO.OR (R167). -/
def execAmoOr (r : Ring) (rd rb rs : BitVec 5) (ord : Ord) (sc : Scope) (d8 : Bool) (s : State) : Out1 :=
  amo .or (.amoOr r rd rb rs ord sc d8) r rd rb rs ord sc d8 s

/-- AMO.XOR (R167). -/
def execAmoXor (r : Ring) (rd rb rs : BitVec 5) (ord : Ord) (sc : Scope) (d8 : Bool) (s : State) : Out1 :=
  amo .xor (.amoXor r rd rb rs ord sc d8) r rd rb rs ord sc d8 s

/-- AMO.MIN (R167). -/
def execAmoMin (r : Ring) (rd rb rs : BitVec 5) (ord : Ord) (sc : Scope) (d8 : Bool) (s : State) : Out1 :=
  amo .min (.amoMin r rd rb rs ord sc d8) r rd rb rs ord sc d8 s

/-- AMO.MAX (R167). -/
def execAmoMax (r : Ring) (rd rb rs : BitVec 5) (ord : Ord) (sc : Scope) (d8 : Bool) (s : State) : Out1 :=
  amo .max (.amoMax r rd rb rs ord sc d8) r rd rb rs ord sc d8 s

/-- AMO.MINU (R167). -/
def execAmoMinU (r : Ring) (rd rb rs : BitVec 5) (ord : Ord) (sc : Scope) (d8 : Bool) (s : State) : Out1 :=
  amo .minu (.amoMinU r rd rb rs ord sc d8) r rd rb rs ord sc d8 s

/-- AMO.MAXU (R167). -/
def execAmoMaxU (r : Ring) (rd rb rs : BitVec 5) (ord : Ord) (sc : Scope) (d8 : Bool) (s : State) : Out1 :=
  amo .maxu (.amoMaxU r rd rb rs ord sc d8) r rd rb rs ord sc d8 s

/-- AMO.SWAP (R167). -/
def execAmoSwap (r : Ring) (rd rb rs : BitVec 5) (ord : Ord) (sc : Scope) (d8 : Bool) (s : State) : Out1 :=
  amo .swap (.amoSwap r rd rb rs ord sc d8) r rd rb rs ord sc d8 s

/-- CAS (R168): the expected value is in RD, the new one in RS2. -/
def execCas (r : Ring) (rd rb rs : BitVec 5) (ord : Ord) (sc : Scope) (d8 : Bool) (s : State) : Out1 :=
  issue (.cas r rd rb rs ord sc d8) r .any
    (fun s => strongOp .cas rd.toNat (getR s rb.toNat) sc d8 (isRelease ord) (getR s rs.toNat) (getR s rd.toNat) s) s

/-- FENCE (R90, R169): every order but acquire is a publish point. -/
def execFence (r : Ring) (ord : Ord) (sc : Scope) (s : State) : Out1 :=
  issue (.fence r ord sc) r .any
    (fun s => if ord = .acq then .ok (irrevMe s) else atPublish s fun s => .ok (irrevMe s)) s

/-- PHASE (R79, R80, R169). -/
def execPhase (r : Ring) (sc : Scope) (s : State) : Out1 :=
  issue (.phase r sc) r .any (fun s => atPublish s fun s => .ok (irrevMe s)) s

/-! ### The device steps that complete accesses -/

/-- The first agent whose context meets a test. -/
def findAg (s : State) (p : Ctx → Bool) : Option Nat := mfind (fun _ c => p c) s.ctxs

/-- The first context whose oldest load has its data. -/
def loadReady (s : State) : Option Nat :=
  findAg s fun c => match c.loads with
    | { val := some _, .. } :: _ => true
    | _ => false

/-- LOAD_DATA_RETURN (R139, R140): the oldest load of the first context that has one writes its register. -/
def execLoadDataReturn (s : State) : Out1 :=
  match loadReady s with
  | none => .next s
  | some ag =>
    let c := s.ctx ag
    match c.loads with
    | { rd := rd, val := some v } :: t =>
      .next ((recvAt s ag rd v).setCtx ag { c with regs := if rd = 0 then c.regs else mput 0#64 c.regs rd v, loads := t })
    | _ => .next s

/-- The first context that holds a store. -/
def storeHeld (s : State) : Option Nat := findAg s fun c => decide (c.stores ≠ [])

/-- STORE_PERFORMED (R79, R97, R140): the oldest held store of the first context that has one reaches memory. -/
def execStorePerformed (s : State) : Out1 :=
  match storeHeld s with
  | none => .next s
  | some ag =>
    let c := s.ctx ag
    match c.stores with
    | [] => .next s
    | st :: t => .next ((putBytes s st.bytes).setCtx ag
        { c with stores := t, veil := c.veil.filter fun v => st.bytes.all fun p => decide (p.1 % 2 ^ 40 ≠ v.pa) })

/-- The first walk that is not finished, and what is before and after it. -/
def splitWalks : List Walk → Option (List Walk × Walk × List Walk)
  | [] => none
  | k :: t =>
    match k.res with
    | none => some ([], k, t)
    | some _ =>
      match splitWalks t with
      | none => none
      | some (a, x, b) => some (k :: a, x, b)

/-- PAGE_WALK_COMPLETE (R67 to R70, R75): a walk ends; a translation fills the buffers and the access finds it there; a failure
is left for the access that waits. -/
def execPageWalkComplete (s : State) : Out1 :=
  match splitWalks s.walks with
  | none => .next s
  | some (a, k, b) =>
    match walk s k.ctx k.gen k.va with
    | .inr t => .next (k.ags.foldl (fun s ag => tlbFill s (agCore ag) t) { s with walks := a ++ b })
    | .inl m => .next { s with walks := a ++ { k with res := some m } :: b }

/-- The first context whose strong access of another device is still to be sent (R423). -/
def strongToSend (s : State) : Option Nat :=
  findAg s fun c => match c.strong with
    | some _ => true
    | none => false

/-- REMOTE_STRONG_ACCESS (R86, R423): the access is sent to the device that owns the slot, or fails when its route is down. -/
def execRemoteStrongAccess (s : State) : Out1 :=
  match strongToSend s with
  | none => .next s
  | some ag =>
    let c := s.ctx ag
    match c.strong with
    | none => .next s
    | some (pa, n, op, a, b) =>
      let slot := pa / 2 ^ 40
      let s1 := s.setCtx ag { c with strong := none }
      if !routeUp s slot then .next (strongAnswer s1 ag none)
      else
        let q : PeerReq := { id := s.preqCtr, slot := slot, at_ := s.cycle, ag := some ag, gath := none,
                             ctx := if 1536 ≤ ag then none else some (ctxOf s ag).1 }
        .next (sendFlit { s1 with preqs := s1.preqs ++ [q], preqCtr := s1.preqCtr + 1 } 1 slot
          [q.id, 0, pa % 2 ^ 40, n, op.num, a.toNat, b.toNat])

end Sys2Proof.Machine
end

