-- ==== Sys2Proof/Machine/Sched.lean ====
section
/-! DEFINITION. What a step does: time passes, a device step that is due happens, or the next running context fetches,
decodes and issues. -/

namespace Sys2Proof.Machine

/-- The signals of an agent that had no room enter their queues as far as there is room now (R17), whatever the agent does. -/
def flushOf (s : State) (ag : Nat) : State :=
  let c := s.ctx ag
  if c.sigs = [] then s
  else
    let f := flushSigs (s.core (agCore ag)) (agEng ag).num c.sigs
    (s.setCore (agCore ag) f.1).setCtx ag { c with sigs := f.2 }

/-- The same for every agent. -/
def flushAll (s : State) : State :=
  if s.ctxs.all fun p => decide (p.2.sigs = []) then s else (mkeys s.ctxs).foldl flushOf s

/-- TIME runs on the frequency correction for one cycle of 2/3 ns (R419): once that has gathered a nanosecond TIME gains it, or loses it
in a cycle in which TIME would go on by one. -/
def slewTime (s : State) : State :=
  let x := s.ptp.frac + 2 * s.ptp.freq
  if 3000000000 ≤ x then { s with timeOfs := s.timeOfs + 1, ptp := { s.ptp with frac := x - 3000000000 } }
  else if x ≤ -3000000000 ∧ s.cycle * 2 / 3 < (s.cycle + 1) * 2 / 3 then
    { s with timeOfs := s.timeOfs - 1, ptp := { s.ptp with frac := x + 3000000000 } }
  else { s with ptp := { s.ptp with frac := x } }

/-- One cycle passes: TIME goes on, and signals that had no room enter their queues. -/
def tick (s0 : State) : State :=
  let s := flushAll s0
  let s1 := if s.ptp.freq = 0 then s else slewTime s
  { s1 with cycle := s1.cycle + 1 }

/-- Whether an agent may issue now: it runs, its module has power, and no rollback of its engines is due (R470, R475). -/
def mayIssue (s : State) (ag : Nat) (c : Ctx) : Bool :=
  decide (c.run = .run) && decide (s.phase ≠ .off ∧ (s.phase ≠ .adjourned ∨ (1536 ≤ ag ∧ s.byCmd = true)))
    && (decide (1536 ≤ ag) || decide ((s.core (agCore ag)).upset = []))
    && (match (s.core (agCore ag)).rb.pending with
        | none => true
        | some t => decide (1536 ≤ ag) || decide ((t.eng = 3) ≠ (ag % 4 = 3)) || midway c)

/-- The next context to issue: the first after the one that issued last, in the order of the agents' numbers, round and
round. -/
def pick (s : State) : Option Nat :=
  match mfind (fun ag c => decide (s.cur < ag) && mayIssue s ag c) s.ctxs with
  | some ag => some ag
  | none => mfind (fun ag c => mayIssue s ag c) s.ctxs

/-- The instruction word of an agent at an address (R107): its own instruction memory. -/
def imemWord (s : State) (ag addr : Nat) : Word :=
  match agEng ag with
  | .dir => mget 0#32 (s.die (agDie ag)).imem addr
  | e => mget 0#32 (s.core (agCore ag)).imem (e.num * 16384 + addr)

/-- Word 2 for a fetch at an address: 0 past the end. -/
def word2At (s : State) (ag addr : Nat) : Word := if addr = 16383 then 0#32 else imemWord s ag (addr + 1)

/-- The instruction that an agent fetches at its pc. -/
def fetched (s : State) (ag : Nat) : Option Instr :=
  decode (agEng ag).isa (imemWord s ag (s.ctx ag).pc) (word2At s ag (s.ctx ag).pc)

/-- Whether a word of an agent's instruction memory holds an uncorrectable error. -/
def wordBad (s : State) (ag addr : Nat) : Bool :=
  match agEng ag with
  | .dir => (s.die (agDie ag)).ibad.contains addr
  | e => (s.core (agCore ag)).ibad.contains (e.num * 16384 + addr)

/-- Whether a word is a CSRR or CSRW of a number that only a Director may name (R99): Privileged Instruction comes before the checks
of its other bits (R185). -/
def csrWordPriv (e : Eng) (w : Word) : Bool :=
  let major := (w.extractLsb' 22 6).toNat
  decide (e ≠ .dir ∧ e.isa = .a ∧ (major = 0x0E ∨ major = 0x0F) ∧ 0x800 ≤ (w.extractLsb' 0 12).toNat)

/-- The cause that a fetch itself meets, with its EVAL (R99, R107, R108, R185, R187): a fall-through past word 16,383, a word with
an uncorrectable error, a two-word instruction at 16,383, a system cell or a CSR number of the Director outside it, a word that
decodes to nothing. -/
def fetchTrap (s : State) (ag : Nat) : Option (Nat × DWord) :=
  let pc := (s.ctx ag).pc
  let w := imemWord s ag pc
  let e := agEng ag
  let major := (w.extractLsb' 22 6).toNat
  if 16383 < pc then some (3, 16384#64)
  else if wordBad s ag pc then some (4, BitVec.ofNat 64 pc)
  else if pc < 16383 ∧ isTwo e.isa w ∧ wordBad s ag (pc + 1) then some (4, BitVec.ofNat 64 (pc + 1))
  else if pc = 16383 ∧ isTwo e.isa w then some (3, 16384#64)
  else if e.isa = .a ∧ e ≠ .dir ∧ 0x38 ≤ major ∧ major ≤ 0x3D then some (2, w.setWidth 64)
  else if csrWordPriv e w then some (2, w.setWidth 64)
  else if fetched s ag = none then some (1, w.setWidth 64)
  else none

end Sys2Proof.Machine
end

