-- ==== Sys2Proof/Machine/Sync.lean ====
section
/-! DEFINITION. The cluster synchroniser (R237 to R254): named barriers and semaphores. -/

namespace Sys2Proof.Machine

/-- The Sync State trap (R253) with its reason and number; a claim already made stays. -/
def syncState (s : State) (reason num : Nat) : Res := .trapS s 0x13 (BitVec.ofNat 64 (reason * 256 + num))

/-- Delivery of floating-point flags before an instruction of EX (R292). -/
def fpFirst (s : State) (k : State → Res) : Res :=
  if agEng s.cur = .ex ∧ fpDelivers s.myCore then .imp s 0x0E (s.myCore.fpacc.setWidth 64) else k s

/-! ### Barriers -/

/-- A barrier of a device cluster. -/
def State.bar (s : State) (cl b : Nat) : Barrier := mget {} (s.clus cl).bars b

/-- Replaces a barrier. -/
def State.setBar (s : State) (cl b : Nat) (x : Barrier) : State :=
  s.setClus cl { s.clus cl with bars := mset (s.clus cl).bars b x }

/-- Whether a context waits at a barrier: in BARW for it, or in BARWA with a mask that names it (R238). -/
def waitsAt (c : Ctx) (b : Nat) : Bool :=
  (c.pend && decide (c.run = .run ∧ c.pnum = b))
    || (match c.wait with
        | .barwa base m => decide (base ≤ b ∧ b < base + 8) && m.testBit (b - base)
        | _ => false)

/-- WAITERS (R238). -/
def waiters (s : State) (cl b : Nat) : Nat :=
  (s.ctxs.filter fun p => decide (p.1 < 1536 ∧ devCluster (agCore p.1) = cl) && waitsAt p.2 b).length

/-- Whether a member of a context may not use a barrier (R239). -/
def notOwned (x : Barrier) (ctx : Nat) : Bool := !x.free && decide (x.owner ≠ ctx)

/-- Claims a barrier for the issuing member (R239); one that has an owner stays as it is. -/
def claim (s : State) (b : Nat) : State :=
  let cl := devCluster (agCore s.cur)
  let x := s.bar cl b
  if x.free then s.setBar cl b { x with free := false, owner := (ctxOf s s.cur).1 } else s

/-- The arrival of R240: the reason it fails, or the generation counted in. -/
def arrive (s : State) (b c : Nat) : Nat ⊕ (BitVec 16 × State) :=
  let cl := devCluster (agCore s.cur)
  let x := s.bar cl b
  let want := if x.expect = 0 then (if c ≠ 0 then c else x.defcnt) else x.expect
  if want = 0 then .inl 3
  else if x.expect ≠ 0 ∧ c ≠ 0 ∧ c ≠ x.expect then .inl 2
  else if x.arr + 1 = want then
    .inr (x.gen, s.setBar cl b { x with gen := x.gen + 1#16, arr := 0, expect := 0 })
  else .inr (x.gen, s.setBar cl b { x with arr := x.arr + 1, expect := want })

/-- What BARA and BARW share: ownership and claim, the value check, the publish stall, the arrival. -/
def arriving (s : State) (ra num : BitVec 5) (k : State → BitVec 16 → Res) : Res :=
  let b := num.toNat
  let c := getR s ra.toNat
  if notOwned (s.bar (devCluster (agCore s.cur)) b) (ctxOf s s.cur).1 then syncState s 1 b
  else
    let s1 := claim s b
    if 255 < c.toNat then syncState s1 4 b
    else atPublish s1 fun s2 =>
      match arrive s2 b c.toNat with
      | .inl e => syncState s2 e b
      | .inr (g, s3) => k (irrevMe s3) g

/-- BARA (R244). -/
def execBara (r : Ring) (ra num : BitVec 5) (s : State) : Out1 :=
  issue (.bara r ra num) r .sync (fun s => fpFirst s fun s => arriving s ra num fun s g =>
    .ok (s.setMe { s.me with seen := mput 0#16 s.me.seen num.toNat g })) s

/-- BARW (R244). -/
def execBarw (r : Ring) (ra num rb : BitVec 5) (s : State) : Out1 :=
  issue (.barw r ra num rb) r .sync (fun s => fpFirst s fun s =>
    let b := num.toNat
    let c := s.me
    if c.pend ∧ c.pnum = b then
      let g := (s.bar (devCluster (agCore s.cur)) b).gen
      if g = c.pgen then .wait s
      else .ok (setR (s.setMe { c with pend := false, seen := mput 0#16 c.seen b g }) rb.toNat (c.pgen.setWidth 64))
    else arriving s ra num fun s g =>
      .wait (s.setMe { s.me with pend := true, pnum := b, pgen := g })) s

/-- The barriers of a BARWA mask, as offsets from its base. -/
def maskBits (m : Nat) : List Nat := (List.range 8).filter fun i => m.testBit i

/-- The offset that BARWA picks (R245). -/
def barwaPick (s : State) (base m : Nat) : Option Nat :=
  let c := s.me
  let done (i : Nat) := decide ((s.bar (devCluster (agCore s.cur)) (base + i)).gen ≠ mget 0#16 c.seen (base + i))
  ((List.range 8).map fun k => (c.rot + 1 + k) % 8).find? fun i => m.testBit i && done i

/-- BARWA (R245). -/
def execBarwa (r : Ring) (ra : BitVec 5) (base : BitVec 2) (rb : BitVec 5) (s : State) : Out1 :=
  issue (.barwa r ra base rb) r .sync (fun s => fpFirst s fun s =>
    let b0 := base.toNat * 8
    let v := getR s ra.toNat
    let m := v.toNat % 256
    match (maskBits m).find? fun i => notOwned (s.bar (devCluster (agCore s.cur)) (b0 + i)) (ctxOf s s.cur).1 with
    | some i => syncState s 1 (b0 + i)
    | none =>
      let s1 := (maskBits m).foldl (fun s i => claim s (b0 + i)) s
      if m = 0 ∨ 255 < v.toNat then syncState s1 4 b0
      else
        match barwaPick s1 b0 m with
        | none => .wait (s1.setMe { s1.me with wait := .barwa b0 m })
        | some i =>
          let g := (s1.bar (devCluster (agCore s1.cur)) (b0 + i)).gen
          .ok (irrevMe (setR (s1.setMe { s1.me with rot := i, seen := mput 0#16 s1.me.seen (b0 + i) g })
            rb.toNat (BitVec.ofNat 64 (b0 + i))))) s

/-- BARINIT (R246). -/
def execBarinit (r : Ring) (ra num : BitVec 5) (s : State) : Out1 :=
  issue (.barinit r ra num) r .sync (fun s =>
    let cl := devCluster (agCore s.cur)
    let b := num.toNat
    let v := getR s ra.toNat
    if notOwned (s.bar cl b) (ctxOf s s.cur).1 then syncState s 1 b
    else
      let s1 := claim s b
      if 255 < v.toNat then syncState s1 4 b
      else if (s1.bar cl b).arr ≠ 0 ∨ waiters s1 cl b ≠ 0 then syncState s1 5 b
      else .ok (irrevMe (s1.setBar cl b { s1.bar cl b with defcnt := v.toNat }))) s

/-- BARINIT.FREE (R246). -/
def execBarinitFree (r : Ring) (num : BitVec 5) (s : State) : Out1 :=
  issue (.barinitFree r num) r .sync (fun s =>
    let cl := devCluster (agCore s.cur)
    let b := num.toNat
    if notOwned (s.bar cl b) (ctxOf s s.cur).1 then syncState s 1 b
    else
      let s1 := claim s b
      if (s1.bar cl b).arr ≠ 0 ∨ waiters s1 cl b ≠ 0 then syncState s1 5 b
      else .ok (irrevMe (s1.setBar cl b { s1.bar cl b with free := true, owner := 0, defcnt := 0, expect := 0 }))) s

/-- Whether nothing before its effect keeps an instruction of an agent from issuing: signals without room, ring waits, loads that
have not come. -/
def unhindered (s : State) (ag : Nat) (r : Ring) : Bool :=
  let c := s.ctx ag
  decide (c.sigs = []) && (c.gOn || decide (c.gRem = 0)) && c.loads.all (fun l => l.val.isSome)
    && (ringWaits (agEng ag) r).all fun q => decide ((s.core (agCore ag)).toks q ≠ 0)

/-- Whether a context waits in BARW or BARWA for a generation that has completed. -/
def released (s : State) (ag : Nat) : Bool :=
  let c := s.ctx ag
  let cl := devCluster (agCore ag)
  decide (ag < 1536) && mayIssue s ag c &&
    (match fetched s ag, c.wait with
     | some (.barwa r _ _ _), .barwa base m =>
       unhindered s ag r && (maskBits m).any fun i => decide ((s.bar cl (base + i)).gen ≠ mget 0#16 c.seen (base + i))
     | some (.barw r _ num _), _ =>
       unhindered s ag r && c.pend && decide (c.pnum = num.toNat ∧ (s.bar cl c.pnum).gen ≠ c.pgen)
     | _, _ => false)

/-- The first context that BARRIER_RELEASE lets go on. -/
def toRelease (s : State) : Option Nat := (mkeys s.ctxs).find? fun ag => released s ag && (fetchTrap s ag).isNone

/-- BARRIER_RELEASE (R244, R245, R254): a waiting BARW or BARWA issues after its generation completed. -/
def execBarrierRelease (s : State) : Out1 :=
  match toRelease s with
  | none => .next s
  | some ag =>
    let s1 := { s with cur := ag }
    match fetched s ag with
    | some (.barw r ra num rb) => execBarw r ra num rb s1
    | some (.barwa r ra base rb) => execBarwa r ra base rb s1
    | _ => .next s

/-- BARSTATE_WRITE (R238, R436): the selected barrier takes the written fields; contexts that wait for another generation
are released by what GEN then is. -/
def execBarstateWrite (s : State) : Out1 :=
  match s.csrq with
  | (ag, 0x851, v) :: t =>
    let d := s.die (agDie ag)
    .next (({ s with csrq := t }).setBar (agDie ag * 24 + d.barsel / 256) (d.barsel % 32)
      { gen := v.extractLsb' 48 16, arr := (v.extractLsb' 40 8).toNat, expect := (v.extractLsb' 32 8).toNat,
        defcnt := (v.extractLsb' 24 8).toNat, free := v.getLsbD 7, owner := (v.extractLsb' 0 6).toNat })
  | _ => .next s

/-! ### Semaphores -/

/-- The physical semaphore of a virtual number in a context (R247). -/
def physSem (s : State) (ctx v : Nat) : Option Nat :=
  let e := ((s.ctxEnt ctx).sem.extractLsb' (5 * v) 5).toNat
  if 16 ≤ e then some (e - 16) else none

/-- A physical semaphore. -/
def State.sem (s : State) (core p : Nat) : Sem := mget {} (s.core core).sems p

/-- Replaces a physical semaphore. -/
def State.setSem (s : State) (core p : Nat) (x : Sem) : State :=
  s.setCore core { s.core core with sems := mset (s.core core).sems p x }

/-- The amount of a semaphore instruction (R248). -/
def semAmt (v : DWord) : Nat := if v = 0#64 then 1 else v.toNat

/-- Records a change of a count in the event log (R464); kind 7 raised, 8 lowered. -/
def semLog (s : State) (core eng kind p n : Nat) : State := s.setCore core (logEv (s.core core) eng kind p [n])

/-- SEMS (R248, R251). -/
def execSems (r : Ring) (ra : BitVec 5) (v : BitVec 4) (s : State) : Out1 :=
  issue (.sems r ra v) r .sync (fun s =>
    let core := agCore s.cur
    let n := semAmt (getR s ra.toNat)
    match physSem s (ctxOf s s.cur).1 v.toNat with
    | none => syncState s 7 v.toNat
    | some p =>
      if 65535 < n then syncState s 4 v.toNat
      else if 65535 < (s.sem core p).count + n then syncState s 6 v.toNat
      else
        let s1 := publish s
        .ok (semLog (s1.setSem core p { s1.sem core p with count := (s1.sem core p).count + n })
          core (agEng s1.cur).num 7 p n)) s

/-- Takes n from a semaphore for a member (R248). -/
def semTake (s : State) (core eng p n : Nat) : State :=
  semLog (s.setSem core p { s.sem core p with count := (s.sem core p).count - n }) core eng 8 p n

/-- Whether a wait for n is met at once: the line is empty and the count is enough. -/
def semReady (x : Sem) (n : Nat) : Bool := decide (x.line = [] ∧ n ≤ x.count)

/-- Joins the line of a semaphore (R250). -/
def semJoin (s : State) (core p m n : Nat) : State :=
  s.setSem core p { s.sem core p with line := (s.sem core p).line ++ [(m, n)] }

/-- SEMW (R248, R250). -/
def execSemw (r : Ring) (ra : BitVec 5) (v : BitVec 4) (s : State) : Out1 :=
  issue (.semw r ra v) r .sync (fun s =>
    let core := agCore s.cur
    match s.me.wait with
    | .sem _ => if s.me.ans = some .granted then .ok s else .wait s
    | _ =>
      let n := semAmt (getR s ra.toNat)
      match physSem s (ctxOf s s.cur).1 v.toNat with
      | none => syncState s 7 v.toNat
      | some p =>
        if 65535 < n then syncState s 4 v.toNat
        else if (s.sem core p).ovf then syncState s 6 v.toNat
        else if semReady (s.sem core p) n then .ok (semTake s core (agEng s.cur).num p n)
        else .wait ((semJoin s core p s.cur n).setMe { s.me with wait := .sem p })) s

/-- SEMWT (R248, R250). -/
def execSemwt (r : Ring) (ra : BitVec 5) (v : BitVec 4) (rb : BitVec 5) (s : State) : Out1 :=
  issue (.semwt r ra v rb) r .sync (fun s =>
    let core := agCore s.cur
    match s.me.wait with
    | .semt _ _ =>
      match s.me.ans with
      | some .granted => .ok (setR s ra.toNat 1#64)
      | some .timeout => .ok (setR s ra.toNat 0#64)
      | _ => .wait s
    | _ =>
      let n := semAmt (getR s ra.toNat)
      let t := (getR s rb.toNat).toNat
      match physSem s (ctxOf s s.cur).1 v.toNat with
      | none => syncState s 7 v.toNat
      | some p =>
        if 65535 < n ∨ 2 ^ 32 ≤ t then syncState s 4 v.toNat
        else if (s.sem core p).ovf then syncState s 6 v.toNat
        else if semReady (s.sem core p) n then .ok (setR (semTake s core (agEng s.cur).num p n) ra.toNat 1#64)
        else if t = 0 then .ok (setR s ra.toNat 0#64)
        else .wait ((semJoin s core p s.cur n).setMe { s.me with wait := .semt p (s.cycle + t) })) s

/-- A core and a semaphore whose first waiter finds enough count. -/
def toGrant (s : State) : Option (Nat × Nat) :=
  let ready (x : Sem) := match x.line with
    | (_, n) :: _ => decide (n ≤ x.count)
    | [] => false
  match mfind (fun _ c => c.sems.any fun p => ready p.2) s.cores with
  | none => none
  | some core => (mfind (fun _ x => ready x) (s.core core).sems).map fun p => (core, p)

/-- SEMAPHORE_GRANT (R248 to R250): the first waiter in line takes its amount; the matrix queue's head has its wait met. -/
def execSemaphoreGrant (s : State) : Out1 :=
  match toGrant s with
  | none => .next s
  | some (core, p) =>
    let x := s.sem core p
    match x.line with
    | [] => .next s
    | (m, n) :: t =>
      let s1 := s.setSem core p { x with line := t }
      if m = 4096 then
        let s2 := s1.setSem core p { s1.sem core p with count := (s1.sem core p).count - n }
        let c := s2.core core
        match c.mx.queue with
        | q :: qs =>
          let c1 := logAs c q.ptag 8 p [n]
          .next (s2.setCore core { c1 with mx := { c1.mx with queue := { q with waited := true, inLine := false } :: qs } })
        | [] => .next s2
      else
        let s2 := semTake s1 core (agEng m).num p n
        .next (s2.setCtx m { s2.ctx m with ans := some .granted })

/-- The first context whose SEMWT has had its cycles. -/
def lateSemwt (s : State) : Option Nat :=
  mfind (fun _ c => match c.wait with
    | .semt _ t => decide (c.ans = none ∧ t ≤ s.cycle)
    | _ => false) s.ctxs

/-- SEMWT_TIMEOUT (R248): it leaves the line with result 0; one that can be satisfied is granted instead. -/
def execSemwtTimeout (s : State) : Out1 :=
  match toGrant s, lateSemwt s with
  | none, some ag =>
    match (s.ctx ag).wait with
    | .semt p _ =>
      let x := s.sem (agCore ag) p
      let s1 := s.setSem (agCore ag) p { x with line := x.line.filter fun e => decide (e.1 ≠ ag) }
      .next (s1.setCtx ag { s1.ctx ag with ans := some .timeout })
    | _ => .next s
  | _, _ => .next s

/-- SEMSTATE_WRITE (R435, R436): COUNT is set, and OVF cleared where a 1 is written. -/
def execSemstateWrite (s : State) : Out1 :=
  match s.csrq with
  | (ag, 0x853, v) :: t =>
    let d := s.die (agDie ag)
    let core := d.semsel / 256
    let p := d.semsel % 16
    let s1 := { s with csrq := t }
    let x := s1.sem core p
    .next (s1.setSem core p { x with count := (v.extractLsb' 0 16).toNat, ovf := x.ovf && !v.getLsbD 16 })
  | _ => .next s

end Sys2Proof.Machine
end

