-- ==== Sys2Proof/Machine/Csr.lean ====
section
/-! DEFINITION. CSRR and CSRW (R147) over the system registers: R3, R12, R28, R55, R100, R101, R123, R182, R183, R378, R383,
R396, R399, R401, R418, R424, R426, R435, R483; and the writes that are steps of their own. -/

namespace Sys2Proof.Machine

/-- A number as a 64-bit register value. -/
def dw (n : Nat) : DWord := BitVec.ofNat 64 n

/-- QSTAT of a core (R28). DEDUCED (log 62): a STEER entry counts from its issue on, also while the Second has not matched it; it
occupies its queue (R20). -/
def qstat (c : Core) : DWord :=
  let steers (sa : Bool) : Nat := (c.steerP.filter fun x => decide (x.2.1 = sa)).length
  dw (c.mx.queue.length * 2 ^ 59 + c.scq.length * 2 ^ 50 + (c.resv.length + c.rpl.length) * 2 ^ 44
    + (c.steerS.length + steers true) * 2 ^ 41 + (c.steerL.length + steers false) * 2 ^ 38 + c.toks 5 * 2 ^ 25 + c.toks 4 * 2 ^ 20 + c.toks 3 * 2 ^ 15
    + c.toks 2 * 2 ^ 10 + c.toks 1 * 2 ^ 5 + c.toks 0)

/-- GSTATE of a context (R123). -/
def gstate (c : Ctx) : DWord := dw ((if c.gOn then 16 else 0) + c.gRem)

/-- The state word of a barrier (R238). -/
def barWord (x : Barrier) (w : Nat) : DWord :=
  dw (x.gen.toNat * 2 ^ 48 + x.arr * 2 ^ 40 + x.expect * 2 ^ 32 + x.defcnt * 2 ^ 24 + w * 2 ^ 16
    + (if x.free then 128 else 0) + x.owner)

/-- A system register as an agent reads it. -/
def csrRead (s : State) (ag n : Nat) : DWord :=
  let c := s.ctx ag
  let die := agDie ag
  let d := s.die die
  let e := s.ctxEnt d.ctxsel
  let m := s.brMod d.brsel
  let p := s.peer d.plsel
  let mon : Mon := mget {} d.mons d.monsel
  match n with
  | 0x010 => 0x7A48C76801000000#64
  | 0x011 => coreId ag
  | 0x012 => ctxId s ag
  | 0x013 => jobId s ag
  | 0x014 => dw s.time
  | 0x015 => dw (s.cycle - s.cycBase)
  | 0x016 => qstat (s.core (agCore ag))
  | 0x017 => (s.core (agCore ag)).lfsr.setWidth 64
  | 0x018 => gstate c
  | 0x019 => dw (s.ctxEnt (ctxOf s ag).1).spbound
  | 0x020 => c.cause
  | 0x021 => c.epc
  | 0x022 => c.eval
  | 0x800 => dw d.ageQ
  | 0x801 => dw d.delta
  | 0x802 => dw d.dtvec
  | 0x810 => dw ((if s.clkErr then 2 ^ 63 else 0) + s.clkIdx)
  | 0x820 => dw (s.ptp.stepthr * 2 ^ 32 + s.ptp.port * 64 + s.ptp.profile * 16 + (if s.ptp.en then 1 else 0))
  | 0x821 => dw (s.ptp.syncs * 256 + s.ptp.actport * 8 + s.ptp.lock)
  | 0x822 => BitVec.ofInt 64 s.ptp.ofs
  | 0x830 => dw d.ctxsel
  | 0x831 => dw ((if e.v then 2 ^ 63 else 0) + e.gen.toNat * 2 ^ 32 + e.spbound)
  | 0x832 => dw e.root
  | 0x833 => dw ((e.nslot - e.used.length) * 2 ^ 48 + e.pool)
  | 0x834 => dw (e.nslot * 2 ^ 16 + e.slotsz)
  | 0x835 => (e.sem.extractLsb' 0 40).setWidth 64
  | 0x836 => (e.sem.extractLsb' 40 40).setWidth 64
  | 0x840 => dw (d.evBase + (if d.evEn then 1 else 0))
  | 0x841 => d.evHead.setWidth 64
  | 0x842 => d.evTail.setWidth 64
  | 0x843 => dw d.evStalls
  | 0x850 => dw d.barsel
  | 0x851 =>
    let cl := die * 24 + d.barsel / 256
    barWord (s.bar cl (d.barsel % 32)) (waiters s cl (d.barsel % 32))
  | 0x852 => dw d.semsel
  | 0x853 =>
    let x := s.sem (d.semsel / 256) (d.semsel % 16)
    dw ((if x.ovf then 2 ^ 16 else 0) + x.count)
  | 0x900 => dw d.brsel
  | 0x901 => dw (m.spares * 256 + m.width * 16 + (if m.err then 8 else 0) + m.st)
  | 0x902 => dw (m.crcerr * 2 ^ 32 + m.count)
  | 0x903 => m.repair.setWidth 64
  | 0x905 => dw s.brThr
  | 0x906 => s.brHit.setWidth 64
  | 0x920 => dw d.plsel
  | 0x921 => dw (p.retrains * 2 ^ 48 + p.retries * 2 ^ 16 + p.st)
  | 0x922 => dw (d.plroute * 256)
  | 0x923 => (routeOf s d.plroute).setWidth 64
  | 0xA00 => dw d.monsel
  | 0xA01 => mon.cfg
  | 0xA02 => mon.edge
  | _ => if 0x811 ≤ n ∧ n ≤ 0x818 then s.clkRec.extractLsb' ((n - 0x811) * 64) 64 else 0#64

/-- The bits of a number that a W1C write leaves (R9). -/
def w1c (old : Nat) (v : BitVec 32) : Nat := (BitVec.ofNat 32 old &&& ~~~v).toNat

/-- The largest sub-selector of a monitor source, with 7 allowed for source 3 (R484); none for an unlisted source. -/
def monSubOk (src sub : Nat) : Bool :=
  match src with
  | 0 | 1 | 2 | 4 | 8 | 9 => decide (sub = 0)
  | 3 => decide (sub ≤ 3 ∨ sub = 7)
  | 5 => decide (sub ≤ 4)
  | 6 => decide (sub ≤ 1)
  | 7 => decide (sub ≤ 2)
  | _ => false

/-- Whether the value written raises Illegal Instruction (R435, R483). -/
def csrBadValue (die n : Nat) (v : DWord) : Bool :=
  match n with
  | 0x850 => decide (24 ≤ (v.extractLsb' 8 5).toNat)
  | 0x852 => decide ((v.extractLsb' 8 9).toNat / 192 ≠ die)
  | 0xA01 =>
    let core := (v.extractLsb' 23 9).toNat
    !monSubOk (v.extractLsb' 8 8).toNat (v.extractLsb' 20 3).toNat || decide (core ≠ 0x1FF ∧ core / 192 ≠ die)
  | _ => false

/-- Replaces dword k of CLKREC. -/
def setRec (x : BitVec 512) (k : Nat) (v : DWord) : BitVec 512 :=
  (x &&& ~~~((0xFFFFFFFFFFFFFFFF#64).setWidth 512 <<< (64 * k))) ||| (v.setWidth 512 <<< (64 * k))

/-- The servo without discipline (EN 0, R418): TIME runs free at its nominal rate, and what had been measured counts no more. -/
def undisciplined (p : Ptp) : Ptp := { p with lock := 0, syncs := 0, good := 0, bad := 0, freq := 0, frac := 0, ports := [] }

/-- A Director's own register, or a shared one, takes a written value (R9: read-only bits are ignored). -/
def csrStore (s : State) (die n : Nat) (v : DWord) : State :=
  let d := s.die die
  let f (lo w : Nat) : Nat := (v.extractLsb' lo w).toNat
  match n with
  | 0x800 => s.setDie die { d with ageQ := if f 0 32 = 0 then 1 else f 0 32 }
  | 0x801 => s.setDie die { d with delta := f 0 4 }
  | 0x802 => s.setDie die { d with dtvec := f 0 14 }
  | 0x810 => { s with clkIdx := f 0 6 }
  | 0x820 =>
    let p := { s.ptp with stepthr := f 32 32, port := if f 6 2 = 3 then 2 else f 6 2, profile := if 2 ≤ f 4 2 then 0 else f 4 2,
                          en := v.getLsbD 0 }
    { s with ptp := if p.en then p else undisciplined p }
  | 0x830 => s.setDie die { d with ctxsel := f 0 6 }
  | 0x840 => s.setDie die { d with evBase := f 14 32 * 16384, evEn := v.getLsbD 0 }
  | 0x843 => s.setDie die { d with evStalls := w1c d.evStalls (v.setWidth 32) }
  | 0x850 => s.setDie die { d with barsel := f 8 5 * 256 + f 0 5 }
  | 0x852 => s.setDie die { d with semsel := f 8 9 * 256 + f 0 4 }
  | 0x900 => s.setDie die { d with brsel := f 0 5 }
  | 0x902 =>
    let m := s.brMod d.brsel
    s.setBrMod d.brsel { m with crcerr := w1c m.crcerr (v.extractLsb' 32 32), count := w1c m.count (v.setWidth 32) }
  | 0x905 => brThresholds { s with brThr := f 0 32 }
  | 0x906 => { s with brHit := s.brHit &&& ~~~(v.setWidth 32) }
  | 0x920 => s.setDie die { d with plsel := f 0 3 }
  | 0x921 =>
    let p := s.peer d.plsel
    s.setPeer d.plsel { p with retrains := w1c p.retrains ((v.extractLsb' 48 16).setWidth 32),
                               retries := w1c p.retries (v.extractLsb' 16 32) }
  | 0x922 => s.setDie die { d with plroute := f 8 6 }
  | 0xA00 => s.setDie die { d with monsel := f 0 6 }
  | _ => if 0x811 ≤ n ∧ n ≤ 0x818 then { s with clkRec := setRec s.clkRec (n - 0x811) v } else s

/-- The registers whose writing is a step of its own. -/
def csrQueued (n : Nat) (v : DWord) : Bool :=
  match n with
  | 0x017 | 0x841 | 0x851 | 0x853 | 0x903 | 0x923 | 0xA01 | 0xA02 => true
  | 0x904 => decide (1 ≤ (v.extractLsb' 0 3).toNat ∧ (v.extractLsb' 0 3).toNat ≤ 3)
  | 0x819 => decide (1 ≤ (v.extractLsb' 0 2).toNat)
  | _ => false

/-- CSRW's write: at once, or queued for the step that performs it; another operation of BRCTL is refused (R426). -/
def csrWrite (s : State) (n : Nat) (v : DWord) : State :=
  if csrQueued n v then { s with csrq := s.csrq ++ [(s.cur, n, v)] }
  else if n = 0x904 then brRefuse s (s.die (agDie s.cur)).brsel
  else csrStore s (agDie s.cur) n v

/-- CSRR (R147). -/
def execCsrr (r : Ring) (rd : BitVec 5) (csr : BitVec 12) (s : State) : Out1 :=
  issue (.csrr r rd csr) r .any (fun s => .ok (setR s rd.toNat (csrRead s s.cur csr.toNat))) s

/-- CSRW (R147). -/
def execCsrw (r : Ring) (rs : BitVec 5) (csr : BitVec 12) (s : State) : Out1 :=
  issue (.csrw r rs csr) r .any (fun s =>
    let v := getR s rs.toNat
    if csrBadValue (agDie s.cur) csr.toNat v then .trap 1 (word1 (.csrw r rs csr)) 0
    else .ok (csrWrite s csr.toNat v)) s

/-- LFSR_WRITE (R55, R56): the generator of the writer's core; 1 for zero. -/
def execLfsrWrite (s : State) : Out1 :=
  match s.csrq with
  | (ag, 0x017, v) :: t =>
    let x : BitVec 32 := v.setWidth 32
    .next (({ s with csrq := t }).setCore (agCore ag) { s.core (agCore ag) with lfsr := if x = 0#32 then 1#32 else x })
  | _ => .next s

/-- EVHEAD_WRITE (R435, R437): the consumed count; entries before it are free. -/
def execEvheadWrite (s : State) : Out1 :=
  match s.csrq with
  | (ag, 0x841, v) :: t =>
    .next (({ s with csrq := t }).setDie (agDie ag) { s.die (agDie ag) with evHead := v.setWidth 32 })
  | _ => .next s

/-- MONCFG_WRITE (R483, R486): the selected monitor is configured and its data cleared; the periods of the level sources count
from the first that is enabled. -/
def execMoncfgWrite (s : State) : Out1 :=
  match s.csrq with
  | (ag, 0xA01, v) :: t =>
    let d := s.die (agDie ag)
    let m : Mon := mget {} d.mons d.monsel
    let level := d.mons.any fun p => p.2.cfg.getLsbD 0 && decide (5 ≤ (p.2.cfg.extractLsb' 8 8).toNat)
    .next (({ s with csrq := t }).setDie (agDie ag)
      { d with mons := mset d.mons d.monsel { cfg := v &&& 0xFFF0FF03#64, edge := m.edge }, tick := if level then d.tick else s.cycle })
  | _ => .next s

/-- MONEDGE_WRITE (R483, R486): a width of 0 is stored as 1. -/
def execMonedgeWrite (s : State) : Out1 :=
  match s.csrq with
  | (ag, 0xA02, v) :: t =>
    let d := s.die (agDie ag)
    let m : Mon := mget {} d.mons d.monsel
    .next (({ s with csrq := t }).setDie (agDie ag)
      { d with mons := mset d.mons d.monsel { cfg := m.cfg, edge := if v.extractLsb' 0 32 = 0#32 then v + 1#64 else v } })
  | _ => .next s

end Sys2Proof.Machine
end

