-- ==== Sys2Proof/Machine/Port.lean ====
section
/-! DEFINITION. The buffers of stream ports (R48 to R51, R191, R192, R201, R204): where an element lies, its code and its value,
which elements a consumer may take and where a filler may write; the range checker (R29 to R31). -/

namespace Sys2Proof.Machine

/-- Elements in a 64-byte line of a bank format (R48); bytes for raw. -/
def epl (code : Nat) : Nat :=
  match code with
  | 3 | 4 => 128
  | 5 | 7 | 8 => 32
  | 6 | 9 => 16
  | 0x40 => 60
  | 0x41 => 120
  | _ => 64

/-- The bits of an element of a bank format. -/
def elBits (code : Nat) : Nat :=
  match code with
  | 3 | 4 | 0x41 => 4
  | 5 | 7 | 8 => 16
  | 6 | 9 => 32
  | _ => 8

/-- Whether a format is an embedding line (R49). -/
def isEmb (code : Nat) : Bool := decide (code = 0x40 ∨ code = 0x41)

/-- A port of a core. -/
def Core.port (c : Core) (n : Nat) : Port := mget {} c.ports n

/-- Replaces a port of a core; a port in its state at reset is not listed. -/
def Core.setPort (c : Core) (n : Nat) (p : Port) : Core := { c with ports := mput {} c.ports n p }

/-- The port that holds a port's buffer: the parent of a fork (R211). -/
def bufPort (c : Core) (n : Nat) : Nat := if (c.port n).fork then (c.port n).parent else n

/-- The port with a port's buffer and fill side. -/
def buf (c : Core) (n : Nat) : Port := c.port (bufPort c n)

/-- The state that a port reports (R189). -/
def portState (c : Core) (n : Nat) : PState := if (c.port n).st = .closed then .closed else (buf c n).st

/-- Whether a port is open; one that SCLOSE is still draining is closed for every later command. -/
def isOpen (c : Core) (n : Nat) : Bool := decide ((c.port n).st ≠ .closed) && !(c.port n).closing

/-- The fork of a port, if it has one (R211). -/
def forkOf (c : Core) (n : Nat) : Option Nat :=
  mfind (fun _ q => decide (q.st ≠ .closed) && q.fork && decide (q.parent = n)) c.ports

/-- The code of a bank's format register (R47). -/
def Core.bankFmt (c : Core) (b : Nat) : Nat := (mget 0#8 c.bfmt b).toNat

/-- The element format of a port's buffer, or of the region of a direct transfer (R191, R208). -/
def fmtOf (c : Core) (n : Nat) : Nat :=
  let p := buf c n
  if p.banks = 0 then c.bankFmt (p.param.toNat % 0x200000 / 8192) else c.bankFmt p.fbank

/-- The lines of a port's buffer (R191). -/
def bufLines (p : Port) : Nat := 128 * p.banks

/-- The pad offset of the line of element e: in the buffer, or from the offset of a direct region on. -/
def lineOff (p : Port) (fmt e : Nat) : Nat :=
  if p.banks = 0 then p.param.toNat % 0x200000 + e / epl fmt * 64
  else p.fbank * 8192 + e / epl fmt % bufLines p * 64

/-- The code of element i of a line (R43). -/
def lineEl (c : Core) (off fmt i : Nat) : Nat :=
  match elBits fmt with
  | 4 => leNat (c.padN (off + i / 2) 1) / 2 ^ (4 * (i % 2)) % 16
  | 16 => leNat (c.padN (off + 2 * i) 2)
  | 32 => leNat (c.padN (off + 4 * i) 4)
  | _ => leNat (c.padN (off + i) 1)

/-- Writes the code of element i of a line. -/
def putLineEl (c : Core) (off fmt i code : Nat) : Core :=
  match elBits fmt with
  | 4 =>
    let b := leNat (c.padN (off + i / 2) 1)
    let v := if i % 2 = 0 then b / 16 * 16 + code % 16 else code % 16 * 16 + b % 16
    c.putPad (off + i / 2) [BitVec.ofNat 8 v]
  | 16 => c.putPad (off + 2 * i) (leBytes 2 code)
  | 32 => c.putPad (off + 4 * i) (leBytes 4 code)
  | _ => c.putPad (off + i) (leBytes 1 code)

/-- The code of element e of a port. -/
def elCode (c : Core) (n e : Nat) : Nat :=
  let f := fmtOf c n
  lineEl c (lineOff (buf c n) f e) f (e % epl f)

/-- Writes the code of element e of a port. -/
def putEl (c : Core) (n e code : Nat) : Core :=
  let f := fmtOf c n
  putLineEl c (lineOff (c.port n) f e) f (e % epl f) code

/-- The exact value of an embedding code with SCALE and OFFSET (R49). DESIGN CHOICE (log 62): the sign of a zero result, which the
rule does not state, is that of IEEE 754: −0 where both the product and OFFSET are −0, else +0. -/
def embValue (code sc off : Num) : Num :=
  match sc, off with
  | .nan, _ => .nan
  | _, .nan => .nan
  | s, o => ((code.mul s).1.add false o).1

/-- The exact value of element i of 64 bytes in a bank format. -/
def lineValue (line : List Byte) (fmt i : Nat) : Num :=
  let at_ (k n : Nat) : Nat := leNat ((line.drop k).take n)
  let four := at_ (i / 2) 1 / 2 ^ (4 * (i % 2)) % 16
  let h (k : Nat) : Num := (Fmt.fp 11 5).decode (at_ k 2)
  match fmt with
  | 0x40 => embValue ((Fmt.int 8 true).decode (at_ i 1)) (h 60) (h 62)
  | 0x41 => embValue ((Fmt.int 4 true).decode four) (h 60) (h 62)
  | _ =>
    match codeFmt fmt with
    | none => .fin false (at_ i 1) 1
    | some f =>
      match f.bits with
      | 4 => f.decode four
      | 8 => f.decode (at_ i 1)
      | 16 => f.decode (at_ (2 * i) 2)
      | _ => f.decode (at_ (4 * i) 4)

/-- The exact value of element e of a port. -/
def elValue (c : Core) (n e : Nat) : Num :=
  let f := fmtOf c n
  lineValue (c.padN (lineOff (buf c n) f e) 64) f (e % epl f)

/-- The pad bytes that element e of a port's buffer or region is read from: an embedding line whole, with its SCALE and OFFSET (R49). -/
def elSpan (p : Port) (f e : Nat) : Nat × Nat :=
  if isEmb f then (lineOff p f e, 64) else (lineOff p f e + e % epl f * elBits f / 8, max 1 (elBits f / 8))

/-- The pad line of element e of a port, if it is poisoned (R465). -/
def elPoison (c : Core) (n e : Nat) : Option Nat :=
  let x := elSpan (buf c n) (fmtOf c n) e
  padPoison c x.1 x.2

/-- The elements lo to hi − 1 of a port's buffer or region are poisoned if the data written there was (R465). -/
def taintEls (c : Core) (bad : Bool) (n lo hi : Nat) : Core :=
  if bad then (List.range (hi - lo)).foldl (fun c i =>
    let x := elSpan (c.port n) (fmtOf c n) (lo + i)
    taintPad c true x.1 x.2) c
  else c

/-! ### What a consumer may take, where a filler may write -/

/-- The first position at or after one that is not padding (R204). -/
def skipGap (g : List (Nat × Nat)) (pos : Nat) : Nat :=
  match g.find? fun x => decide (x.1 ≤ pos ∧ pos < x.1 + x.2) with
  | some x => x.1 + x.2
  | none => pos

/-- The positions of the next n elements, and the position after them. -/
def positions (g : List (Nat × Nat)) : Nat → Nat → List Nat × Nat
  | pos, 0 => ([], pos)
  | pos, n + 1 =>
    let e := skipGap g pos
    let r := positions g (e + 1) n
    (e :: r.1, r.2)

/-- The elements in a span of positions, padding left out. -/
def elementsIn (g : List (Nat × Nat)) (lo hi : Nat) : Nat :=
  (hi - lo) - (g.map fun x => min hi (x.1 + x.2) - max lo x.1).sum

/-- The elements that wait for a port's drain position, counted in FW (R231). -/
def waiting (c : Core) (n : Nat) : Nat := elementsIn (buf c n).gaps (c.port n).dp (buf c n).fw

/-- The elements that a port's consumer can take and read now (R192, R202). -/
def ready (c : Core) (n : Nat) : Nat := elementsIn (buf c n).gaps (c.port n).dp (buf c n).wr

/-- Whether the fill side has ended and everything it counted is written. -/
def fillOver (c : Core) (n : Nat) : Bool := (buf c n).fend && decide ((buf c n).wr = (buf c n).fw)

/-- The position below which every line is empty: the lowest of what the port's consumer and its fork's have taken (R192). -/
def emptiedTo (c : Core) (n : Nat) : Nat :=
  match forkOf c n with
  | some f => min (c.port n).dp (c.port f).dp
  | none => (c.port n).dp

/-- The position below which the fill side may write: lines that are empty and whose elements have been read. -/
def freedTo (c : Core) (n : Nat) : Nat :=
  match forkOf c n with
  | some f => min (c.port n).rd (c.port f).rd
  | none => (c.port n).rd

/-- Whether the lines of the next k elements of a port's fill side are empty. -/
def roomFor (c : Core) (n k : Nat) : Bool :=
  let p := c.port n
  let f := fmtOf c n
  decide (k = 0 ∨ (p.fw + k - 1) / epl f < freedTo c n / epl f + bufLines p)

/-- The head of a message queue whose lines are empty up to an element position: padding goes with the first line after it
(R205). -/
def queueHead (p : Port) (fmt upto : Nat) : Nat :=
  let h := upto / epl fmt
  match p.gaps.find? fun g => decide ((g.1 + g.2) / epl fmt = h ∧ p.head ≤ g.1 / epl fmt) with
  | some g => g.1 / epl fmt
  | none => max p.head h

/-- The lines of a message queue that are freed follow its consumer and that of its fork (R205, R211). -/
def freeQueue (c : Core) (m : Nat) : Core :=
  let p := c.port m
  if p.src = .msgq ∧ p.dst ≠ .hdl then
    let h := queueHead p (fmtOf c m) (freedTo c m)
    c.setPort m { p with head := h, msgs := p.msgs.filter fun m => decide (h < m.first + m.lines) }
  else c

/-- A consumer takes k elements and reads them at once: their positions, and the core after it. -/
def takeEls (c : Core) (n k : Nat) : List Nat × Core :=
  let p := c.port n
  let r := positions (buf c n).gaps p.dp k
  (r.1, if k = 0 then c else freeQueue (c.setPort n { p with dp := r.2, rd := r.2 }) (bufPort c n))

/-- A consumer takes k elements that it reads later: DP alone advances. -/
def claimEls (c : Core) (n k : Nat) : Core :=
  let p := c.port n
  c.setPort n { p with dp := (positions (buf c n).gaps p.dp k).2 }

/-- A consumer reads k elements that it took earlier. -/
def readEls (c : Core) (n k : Nat) : List Nat × Core :=
  let p := c.port n
  let r := positions (buf c n).gaps p.rd k
  (r.1, if k = 0 then c else freeQueue (c.setPort n { p with rd := r.2 }) (bufPort c n))

/-- Writes codes at the fill side of a port from the next unwritten element on; FW is already counted or grows with them. -/
def pushCodes (c : Core) (n : Nat) : List Nat → Core
  | [] => c
  | v :: t =>
    let p := c.port n
    let c1 := putEl c n p.wr v
    pushCodes (c1.setPort n { p with wr := p.wr + 1, fw := max p.fw (p.wr + 1) }) n t

/-- The units of a port's buffer that k elements of a width in bits take: elements, or bytes of a raw buffer (R194). -/
def unitsOf (fmt bits k : Nat) : Nat := if fmt = 0 then (k * bits + 7) / 8 else k

/-- Little-endian bytes grouped into values of a width in bits: 8, 16, 32, or 4 (two in a byte). -/
def groupBytes (bits : Nat) (bs : List Byte) : List Nat :=
  if bits = 4 then bs.flatMap fun b => [b.toNat % 16, b.toNat / 16]
  else (List.range (bs.length * 8 / bits)).map fun i => leNat ((bs.drop (i * (bits / 8))).take (bits / 8))

/-- Values of a width in bits as bytes: the inverse of `groupBytes`; the upper half of a last byte of one 4-bit value is
zero. -/
def ungroup (bits : Nat) (vs : List Nat) : List Byte :=
  if bits = 4 then
    (List.range ((vs.length + 1) / 2)).map fun i =>
      BitVec.ofNat 8 (vs.getD (2 * i) 0 % 16 + vs.getD (2 * i + 1) 0 % 16 * 16)
  else vs.flatMap fun v => leBytes (bits / 8) v

/-! ### The range checker (R29 to R31) -/

/-- A range widened to whole lines. -/
def widen (r : Nat × Nat) : Nat × Nat := (r.1 / 64 * 64, (r.2 + 63) / 64 * 64)

/-- A range cut at the end of the pad. -/
def clipRange (r : Nat × Nat) : Nat × Nat := (min r.1 0x200000, min r.2 0x200000)

/-- Whether two ranges share a line. -/
def overlaps (a b : Nat × Nat) : Bool :=
  decide (a.1 < a.2 ∧ b.1 < b.2 ∧ (widen a).1 < (widen b).2 ∧ (widen b).1 < (widen a).2)

/-- Whether two sets share a line. -/
def setsMeet (a b : List (Nat × Nat)) : Bool := a.any fun x => b.any fun y => overlaps x y

/-- Whether a command must wait for an earlier one (R30), or for an SBFMT on a bank that it touches (R233). -/
def rngBlocked (c : Core) (id : Nat) : Bool :=
  match c.rngs.find? fun r => decide (r.id = id) with
  | none => false
  | some r =>
    (c.strq.any fun x => match x.2 with
      | .bfmt b _ => decide (x.1 < id) && setsMeet (r.rd ++ r.wr) [(b * 8192, (b + 1) * 8192)]
      | _ => false)
    || (c.rngs.takeWhile fun e => decide (e.id ≠ id)).any fun e =>
      setsMeet r.wr e.rd || setsMeet r.wr e.wr || setsMeet r.rd e.wr

/-- A performed command leaves the checker. -/
def rngDone (c : Core) (id : Nat) : Core := { c with rngs := c.rngs.filter fun r => decide (r.id ≠ id) }

/-- The ports of a merge: its inputs and its enabled outputs. -/
def Merge.ports (m : Merge) : List Nat :=
  [m.ka, m.kb] ++ (if m.eok then [m.ok] else []) ++ (if m.eoa then [m.oa] else []) ++ (if m.eob then [m.ob] else [])

/-- The ports that a stream command touches (R190). -/
def strPorts : StrCmd → List Nat
  | .go p | .mark p _ _ _ | .rew p _ | .close p | .lev p _ _ _ | .src p _ | .rem p _ | .opn p _ | .save p _ _ _ | .rest p _ _ _ _
  | .flush p _ => [p]
  | .fork p f _ => [p, f]
  | .ind p i _ => [p, i]
  | .merge m => m.ports
  | .bfmt _ _ => []

/-- Whether the stream command queue holds a command on a port (R190). -/
def pendingOn (c : Core) (n : Nat) : Bool := c.strq.any fun x => (strPorts x.2).contains n

end Sys2Proof.Machine
end

