-- ==== Sys2Proof/Machine/StrCmd.lean ====
section
/-! DEFINITION. What stream commands do to the ports when they take effect (R189 to R191, R197, R199, R209 to R211, R230), and the
save record of a port (R214, R215). -/

namespace Sys2Proof.Machine

/-- The image that a core has loaded (R36). -/
def imageOf (s : State) (core : Nat) : Option Image :=
  match (s.core core).img with
  | none => none
  | some (n, r) => s.images.find? fun i => decide (i.img = n ∧ i.reg = r)

/-- An instance of the nest table (R380). -/
def instOf (s : State) (nix : Nat) : Option Inst := s.insts.find? fun i => decide (i.nix = nix)

/-- The registered image of a number: the latest registration (R415). -/
def imageNow (s : State) (img : Nat) : Option Image :=
  (s.images.filter fun i => decide (i.img = img)).foldl (fun b i =>
    match b with
    | none => some i
    | some x => if x.reg < i.reg then some i else some x) none

/-- The image that a deque entry runs: its instance's (R415), or for a saved job the one that its number names now (R450). -/
def entImage (s : State) (e : DqEnt) : Option (Nat × Nat) :=
  match instOf s e.nix with
  | none => none
  | some i =>
    match e.area with
    | none => some (i.img, i.reg)
    | some _ => some (i.img, match imageNow s i.img with
      | some x => x.reg
      | none => i.reg)

/-- Whether a core has popped a tile of another image than the one it holds, so that a copy is under way (R36). -/
def copying (s : State) (core : Nat) : Bool :=
  match (s.core core).next with
  | none => false
  | some (e, _) => decide ((s.core core).img ≠ entImage s e)

/-- The stream-buffer record of a port in an image (R133): first bank and count. -/
def bufRec (i : Option Image) (p : Nat) : Option (Nat × Nat) :=
  match i with
  | none => none
  | some i => (i.bufs.find? fun x => decide (x.1 = p)).map fun x => x.2

/-- Whether a port's kinds make it a direct transfer (R208). -/
def isDirect (p : Port) : Bool := decide (p.src = .pad ∨ p.dst = .pad)

/-- The stride and the extent of a level (R197). -/
def Port.lev (p : Port) (l : Nat) : Int × Nat := (mget 0 p.stride l, mget 1 p.extent l)

/-- The items of one run of the pattern. -/
def patSize (p : Port) : Nat := (p.lev 0).2 * (p.lev 1).2 * (p.lev 2).2 * (p.lev 3).2

/-- The address of item k of the pattern from a base (R197). -/
def patAddr (p : Port) (base : Int) (k : Nat) : Nat :=
  let (s0, e0) := p.lev 0
  let (s1, e1) := p.lev 1
  let (s2, e2) := p.lev 2
  let (s3, e3) := p.lev 3
  let i0 := k % e0
  let i1 := k / e0 % e1
  let i2 := k / e0 / e1 % e2
  let i3 := k / e0 / e1 / e2 % e3
  (BitVec.ofInt 64 (base + i0 * s0 + i1 * s1 + i2 * s2 + i3 * s3)).toNat

/-- The bytes of an item of a memory format (R197). -/
def itemSize (mf : Nat) : Nat :=
  match mf with
  | 0 | 3 | 4 => 1
  | 0x40 | 0x41 => 64
  | f => elBits f / 8

/-- The bytes that raw memory gives for one group of elements of a buffer, and the elements of the group (R201). -/
def rawGroup (bf : Nat) : Nat × Nat :=
  if isEmb bf then (64, epl bf) else if elBits bf = 4 then (1, 2) else (elBits bf / 8, 1)

/-- The item that holds element e of a buffer, and how many of its elements stand before e (R210). -/
def itemAt (dcmp : Bool) (mf bf e : Nat) : Nat × Nat :=
  if dcmp then
    let epi := if bf = 0 then 64 else if mf = 0 then 64 / (rawGroup bf).1 * (rawGroup bf).2 else epl mf
    (e / epi, e % epi)
  else if bf = 0 then (e / itemSize mf, e % itemSize mf)
  else if mf = 0 then (e / (rawGroup bf).2 * (rawGroup bf).1, e % (rawGroup bf).2)
  else if isEmb mf then (e / epl mf, e % epl mf)
  else if elBits mf = 4 then (e / 2, e % 2)
  else (e, 0)

/-- The elements that a number of items gives a buffer or a region (R201). -/
def elemsOf (mf bf items : Nat) : Nat :=
  if bf = 0 then items * itemSize mf
  else if mf = 0 then (items + (rawGroup bf).1 - 1) / (rawGroup bf).1 * (rawGroup bf).2
  else if isEmb mf then items * epl mf
  else if elBits mf = 4 then items * 2
  else items

/-- The bytes of the region of a direct transfer (R208). -/
def regionSize (mf bf items : Nat) : Nat :=
  let n := elemsOf mf bf items
  if isEmb bf then (n + epl bf - 1) / epl bf * 64 else (n * elBits bf + 7) / 8

/-- Whether element m of a port's buffer is still held (R192). -/
def stillHeld (c : Core) (n m : Nat) : Bool :=
  let b := buf c n
  decide ((b.fw - 1) / epl (fmtOf c n) < m / epl (fmtOf c n) + bufLines b)

/-- Rewinds a port's drain position to m (R210), by a refetch at once if `force`; none where that is refused. The lines of a message
queue from m on become full again. DESIGN CHOICE (log 64): the items that a drain toward memory has written stay counted, so that the elements that
it takes again go to the items that follow. The first argument bounds the chain of index ports. -/
def rewindBy (fuel : Nat) (force : Bool) (c : Core) (n m : Nat) : Option Core :=
  match fuel with
  | 0 => none
  | k + 1 =>
    let p := c.port n
    let b := buf c n
    if !force && stillHeld c n m then
      some (c.setPort n { p with dp := m, rd := m, head := if p.src = .msgq then min p.head (m / epl (fmtOf c n)) else p.head,
                                 st := if p.st = .order then (if b.fend then .done else .run) else p.st })
    else if (p.src = .glob ∨ p.src = .dcmp) ∧ !p.fork ∧ forkOf c n = none then
      let i := itemAt (decide (p.src = .dcmp)) p.mfmt (fmtOf c n) m
      let p1 := { p with fw := m, wr := m, dp := m, rd := m, fp := i.1, fp0 := if p.src = .glob then i.1 else 0, skipEl := i.2, fend := false, part := [],
                         index := none, block := none, dpos := 0, dskip := if p.src = .dcmp then i.1 else 0,
                         st := if p.st = .fault then .fault else .run }
      let c1 := c.setPort n p1
      if p.ind then rewindBy k false c1 p.iport (p.ip0 + i.1 / patSize p) else some c1
    else none

/-- Rewinds a port's drain position to m (R210). -/
def rewindTo (fuel : Nat) (c : Core) (n m : Nat) : Option Core := rewindBy fuel false c n m

/-- Rewinds a port to one of its marks (R210). -/
def rewindMark (c : Core) (n m : Nat) : Option Core :=
  match (c.port n).marks.find? fun x => decide (x.1 = m) with
  | none => none
  | some x => rewindTo 33 c n x.2

/-- Every line of a buffer becomes empty (R192). -/
def emptyLines (c : Core) (p : Port) : Core :=
  { c with fe := c.fe.filter fun x => decide (x.1 < p.fbank * 128 ∨ (p.fbank + p.banks) * 128 ≤ x.1) }

/-- The lines of a port's buffer as its counts leave them (R192): those that are full and not yet empty. -/
def markLines (c : Core) (n : Nat) : Core :=
  let p := c.port n
  let f := fmtOf c n
  let lo := emptiedTo c n / epl f
  let hi := if p.fend then (p.wr + epl f - 1) / epl f else p.wr / epl f
  (List.range (if p.fend ∧ p.wr ≤ emptiedTo c n then 0 else hi - lo)).foldl
    (fun c i => c.setFe ((p.fbank * 128 + (lo + i) % bufLines p) * 64) true) (emptyLines c p)

/-- A port goes: a direct transfer leaves the range checker and a binding to the scale queue ends (R174, R189, R230). -/
def endPort (c : Core) (n : Nat) : Core :=
  let c1 := match (c.port n).rng with
    | some id => rngDone c id
    | none => c
  { c1.setPort n {} with sqBind := if c1.sqBind = some n then none else c1.sqBind }

/-- A port is closed, its fork with it, its lines empty (R189, R192, R211, R230). -/
def closePort (c : Core) (n : Nat) : Core :=
  let p := c.port n
  let c1 := match forkOf c n with
    | some f => endPort c f
    | none => c
  endPort (if p.fork then c1 else emptyLines c1 p) n

/-- SSAVE's closing of a port (R215): its buffer stays as it is, and so does a fork, which is saved after it. -/
def leavePort (c : Core) (n : Nat) : Core :=
  endPort (if (c.port n).fork ∨ isDirect (c.port n) then c else markLines c n) n

/-- Whether the drain side of a port stands in FAULT (R212). -/
def drainFault (p : Port) : Bool :=
  decide (p.st = .fault) && (decide (p.faultSide = 2 ∨ p.faultSide = 4)
    || (match p.fault2 with
        | some (x, _) => decide (x = 2 ∨ x = 4)
        | none => false))

/-- Whether the fill side, or a direct transfer, stands in FAULT. -/
def fillFault (p : Port) : Bool :=
  decide (p.st = .fault) && (decide (p.faultSide = 0 ∨ p.faultSide = 1 ∨ p.faultSide = 3)
    || (match p.fault2 with
        | some (x, _) => decide (x = 0 ∨ x = 1 ∨ x = 3)
        | none => false))

/-! ### The save record (R214, R215) -/

/-- The number of a state. -/
def PState.num : PState → Nat
  | .closed => 0 | .set => 1 | .run => 2 | .fault => 3 | .order => 4 | .done => 5

/-- The state of a number. -/
def pstateOf : Nat → PState
  | 1 => .set | 2 => .run | 3 => .fault | 4 => .order | 5 => .done | _ => .closed

/-- The code of a fill side (R194). -/
def srcNum : Src → Nat
  | .glob => 0 | .msgq => 1 | .dcmp => 2 | .gath => 3 | .mx => 4 | .ex => 5 | .merge => 6 | .pad => 7

/-- The fill side of a code. -/
def srcOf : Nat → Src
  | 0 => .glob | 1 => .msgq | 2 => .dcmp | 3 => .gath | 4 => .mx | 5 => .ex | 6 => .merge | _ => .pad

/-- The code of a drain side (R194). -/
def dstNum : Dst → Nat
  | .ex => 0 | .glob => 1 | .remote => 2 | .scale => 3 | .mxb => 4 | .mxa => 5 | .index => 6 | .merge => 7 | .hdl => 8
  | .pad => 9

/-- The drain side of a code. -/
def dstOf : Nat → Dst
  | 0 => .ex | 1 => .glob | 2 => .remote | 3 => .scale | 4 => .mxb | 5 => .mxa | 6 => .index | 7 => .merge | 8 => .hdl
  | _ => .pad

/-- The code of a rounding mode (R53). -/
def rmNum : Rm → Nat
  | .rne => 0 | .rtz => 1 | .rup => 2 | .rdn => 3 | .rsr => 4

/-- The rounding mode of a code. -/
def rmOf : Nat → Rm
  | 0 => .rne | 1 => .rtz | 2 => .rup | 3 => .rdn | _ => .rsr

/-- The four bits of a table of marks. -/
def fourBits (p : Nat → Bool) : Nat := bit (p 0) + 2 * bit (p 1) + 4 * bit (p 2) + 8 * bit (p 3)

/-- Whether mark m of a port is set. -/
def markSet (p : Port) (m : Nat) : Bool := p.marks.any fun x => decide (x.1 = m)

/-- A signed number as n bytes. -/
def leInt (n : Nat) (v : Int) : List Byte := leBytes n (v % 2 ^ (8 * n)).toNat

/-- Whether the FP field of a port's record holds the items its drain has written, its fill side reading no items (R214). -/
def countsDrain (p : Port) : Bool := decide (p.dst = .glob)

/-- The state that a port's record holds: a fork's is its parent's as long as that is open (R189, R215). -/
def recState (c : Core) (n : Nat) : PState := if (buf c n).st = .closed then (c.port n).st else portState c n

/-- The 192-byte record of a port (R214). -/
def saveRec (c : Core) (n : Nat) (keep : Bool) : List Byte :=
  let p := c.port n
  let ctl := (recState c n).num + srcNum p.src * 2 ^ 4 + dstNum p.dst * 2 ^ 8 + p.mfmt * 2 ^ 12 + rmNum p.rm * 2 ^ 20
    + bit p.sm * 2 ^ 23 + p.qn * 2 ^ 24 + bit keep * 2 ^ 27 + bit p.fend * 2 ^ 28 + bit p.ind * 2 ^ 29
    + p.iport * 2 ^ 30 + bit p.fork * 2 ^ 35 + p.parent * 2 ^ 36 + fourBits (markSet p) * 2 ^ 41
    + fourBits (fun m => mget false p.mauto m) * 2 ^ 45 + p.fbank * 2 ^ 49 + (p.banks - 1) * 2 ^ 57
  leBytes 8 ctl ++ leBytes 8 p.base ++ leBytes 4 p.len ++ leBytes 4 (if countsDrain p then p.di else p.fp) ++ leBytes 4 p.fw ++ leBytes 4 p.dp
    ++ (List.range 4).flatMap (fun l => leInt 8 (p.lev l).1) ++ (List.range 4).flatMap (fun l => leBytes 4 (p.lev l).2)
    ++ leInt 8 p.istride ++ leBytes 8 p.param.toNat ++ leBytes 8 p.remote.toNat
    ++ (List.range 4).flatMap (fun m => leBytes 4 (mget 0 p.marks m)) ++ leBytes 4 p.ip0 ++ leBytes 4 p.free
    ++ leBytes 8 (if p.st = .fault then p.faultVa.toNat else 0) ++ leBytes 1 (if p.st = .fault then p.faultSide else 0)
    ++ leBytes 1 (if p.st = .fault then p.faultMfc else 0) ++ leBytes 2 p.drop ++ leBytes 52 0

/-- The combinations of R195 that SOPEN refuses. -/
def badKinds (src : Src) (dst : Dst) : Bool :=
  (decide (src = .pad) && decide (dst ≠ .glob)) || (decide (dst = .pad) && decide (src ≠ .glob))
    || (decide (dst = .hdl) && decide (src ≠ .msgq)) || (decide (src = .glob ∨ src = .dcmp) && decide (dst = .glob))

/-- n bytes of a record from byte k on, as a number. -/
def recNat (r : List Byte) (k n : Nat) : Nat := leNat ((r.drop k).take n)

/-- n bytes of a record from byte k on, as a signed number. -/
def recInt (r : List Byte) (k n : Nat) : Int := (BitVec.ofNat (8 * n) (recNat r k n)).toInt

/-- Whether a record is one that SREST refuses for its own content (R229): reserved bits, reserved or illegal codes, another
buffer than the image's. -/
def recBad (img : Option Image) (n : Nat) (r : List Byte) : Bool :=
  let ctl := recNat r 0 8
  let f (lo w : Nat) : Nat := ctl / 2 ^ lo % 2 ^ w
  let src := srcOf (f 4 4)
  let dst := dstOf (f 8 4)
  let direct := decide (src = .pad ∨ dst = .pad)
  decide (f 63 1 ≠ 0 ∨ f 0 4 = 0 ∨ 5 < f 0 4 ∨ 7 < f 4 4 ∨ 9 < f 8 4 ∨ 4 < f 20 3)
    || !isBankCode (f 12 8) || (if f 35 1 = 0 then badKinds src dst else badKinds src dst || decide (dst = .glob ∨ dst = .pad))
    || decide ((r.drop 140).any (fun b => b ≠ 0#8) = true) || decide (recNat r 96 8 / 2 ^ 39 ≠ 0)
    || (f 35 1 == 0 && (if direct then false else decide (bufRec img n ≠ some (f 49 8, f 57 6 + 1))))

/-- The port that a record restores, before what KEEP decides. -/
def recPort (r : List Byte) (owner ctx : Nat) (gen : BitVec 16) : Port :=
  let ctl := recNat r 0 8
  let f (lo w : Nat) : Nat := ctl / 2 ^ lo % 2 ^ w
  let src := srcOf (f 4 4)
  let dst := dstOf (f 8 4)
  let direct := decide (src = .pad ∨ dst = .pad) || decide (f 35 1 = 1)
  { st := pstateOf (f 0 4), src := src, dst := dst, mfmt := f 12 8, rm := rmOf (f 20 3), sm := decide (f 23 1 = 1),
    qn := f 24 3, fend := decide (f 28 1 = 1), ind := decide (f 29 1 = 1), iport := f 30 5, fork := decide (f 35 1 = 1),
    parent := f 36 5,
    marks := ((List.range 4).filter fun m => decide (f (41 + m) 1 = 1)).map fun m => (m, recNat r (104 + 4 * m) 4),
    mauto := ((List.range 4).filter fun m => decide (f (45 + m) 1 = 1)).map fun m => (m, true),
    fbank := if direct then 0 else f 49 8, banks := if direct then 0 else f 57 6 + 1,
    base := recNat r 8 8, len := recNat r 16 4, fp := recNat r 20 4, fw := recNat r 24 4, wr := recNat r 24 4,
    dp := recNat r 28 4, rd := recNat r 28 4,
    stride := (List.range 4).map fun l => (l, recInt r (32 + 8 * l) 8),
    extent := (List.range 4).map fun l => (l, recNat r (64 + 4 * l) 4),
    istride := recInt r 80 8, param := BitVec.ofNat 64 (recNat r 88 8), remote := BitVec.ofNat 64 (recNat r 96 8),
    hasRem := decide (recNat r 96 8 ≠ 0), ip0 := recNat r 120 4, free := recNat r 124 4,
    faultVa := BitVec.ofNat 64 (recNat r 128 8), faultSide := recNat r 136 1, faultMfc := recNat r 137 1,
    drop := recNat r 138 2, owner := owner, octx := ctx, ogen := gen }

/-- The lowest of DP and the set marks of a port (R215). -/
def rewindPoint (p : Port) : Nat := (p.marks.map fun x => x.2).foldl min p.dp

/-- The elements, the items and the bytes of each item that a drain toward memory takes at a time (R197, R201). -/
def drainUnit (mf bf : Nat) : Nat × Nat × Nat :=
  if bf = 0 then (itemSize mf, 1, itemSize mf)
  else if mf = 0 then ((rawGroup bf).2, (rawGroup bf).1, 1)
  else if isEmb mf then (epl mf, 1, 64)
  else if elBits mf = 4 then (2, 1, 1)
  else (1, 1, elBits mf / 8)

/-- An integer value. -/
def numInt : Num → Int
  | .fin neg n _ => sgn neg n
  | _ => 0

/-- Where the bytes of the element at FW stand in the buffer or the region (R201). -/
def partOff (c : Core) (n : Nat) : Nat :=
  let p := c.port n
  let f := fmtOf c n
  lineOff p f p.wr + (if isEmb f then 0 else p.wr % epl f * (elBits f / 8))

/-- A restored port of a core with what its record holds only implicitly (R197 to R201, R207, R208, R215): the items that its
drain has written; at a place inside an item, the elements of it that the buffer has; for a decompressing fill, the lines
to pass over; where the buffer is kept, the bytes of an incomplete element and the index whose rows are under way. -/
def resumePort (c : Core) (n : Nat) : Core :=
  let p := c.port n
  let f := fmtOf c n
  let i := itemAt (decide (p.src = .dcmp)) p.mfmt f p.fw
  c.setPort n { p with
    di := if countsDrain p then p.fp else 0
    skipEl := if i.1 = p.fp then i.2 else 0
    dskip := if p.src = .dcmp then p.fp else 0
    part := if p.src = .glob ∧ p.mfmt = 0 ∧ f ≠ 0 then c.padN (partOff c n) (p.fp % (rawGroup f).1) else []
    index := if p.ind ∧ p.fp % patSize p ≠ 0 ∧ isOpen c p.iport then some (numInt (elValue c p.iport (p.ip0 + p.fp / patSize p)))
             else none }

/-- The range-checker entry of a direct transfer that a record resumes (R208, R215). -/
def recRng (c : Core) (r : List Byte) (id : Nat) : Option Rng :=
  let p := recPort r 0 0 0#16
  if isDirect p ∧ (p.st = .run ∨ p.st = .fault) then
    let reg := [(p.param.toNat, p.param.toNat + regionSize p.mfmt (c.bankFmt (p.param.toNat / 8192)) p.len)]
    some { id := id, rd := if p.src = .pad then reg else [], wr := if p.src = .pad then [] else reg }
  else none

/-- Whether a record is that of a message queue whose number an open port holds (R203). -/
def recQueueUsed (c : Core) (r : List Byte) : Bool :=
  let p := recPort r 0 0 0#16
  decide (p.src = .msgq) && !p.fork
    && c.ports.any fun x => decide (x.2.st ≠ .closed ∧ x.2.src = .msgq ∧ x.2.qn = p.qn) && !x.2.fork

/-- Restores a port from a record that passes `recBad` (R215), `id` its item; none for reason 0x08. -/
def restoreRec (c : Core) (n : Nat) (r : List Byte) (owner ctx : Nat) (gen : BitVec 16) (id : Nat) : Option Core :=
  let keep := decide (recNat r 0 8 / 2 ^ 27 % 2 = 1)
  let p := { recPort r owner ctx gen with inst := id }
  if p.fork then
    if !isOpen c p.parent ∨ forkOf c p.parent ≠ none then none
    else some (c.setPort n { p with st := .run, mfmt := 0 })
  else if keep ∨ isDirect p then
    let c1 := (if isDirect p then c else emptyLines c p).setPort n p
    let f := fmtOf c1 n
    some (resumePort (c1.setPort n { p with
      head := if p.src = .msgq then p.dp / epl f else 0, tail := if p.src = .msgq then p.fw / epl f else 0,
      rng := if c.rngs.any fun e => decide (e.id = id) then some id else none }) n)
  else
    let rp := rewindPoint p
    let refetch := decide (p.src = .glob ∨ p.src = .dcmp)
    if rp < p.fw ∧ !refetch then none
    else
      let c1 := (emptyLines c p).setPort n p
      let f := fmtOf c1 n
      let i := itemAt (decide (p.src = .dcmp)) p.mfmt f rp
      let d := ((resumePort c1 n).port n).di
      let c2 := c1.setPort n { p with st := .run, fw := rp, wr := rp, fp := i.1, fp0 := if p.src = .glob then i.1 else 0,
                                      skipEl := i.2, di := d,
                                      fend := if refetch then false else p.fend, faultVa := 0#64, faultSide := 0, faultMfc := 0,
                                      dskip := if p.src = .dcmp then i.1 else 0,
                                      head := if p.src = .msgq then rp / epl f else 0, tail := if p.src = .msgq then rp / epl f else 0 }
      if p.ind then
        if !isOpen c2 p.iport then none else rewindTo 33 c2 p.iport (p.ip0 + i.1 / patSize p)
      else some c2

/-- Restores a port from its record with what it needs of the range checker (R215, R452); none for a record that is refused. -/
def restorePort (c : Core) (img : Option Image) (n : Nat) (r : List Byte) (owner ctx : Nat) (gen : BitVec 16) : Option Core :=
  if recBad img n r then none
  else restoreRec { c with nextId := c.nextId + 1, rngs := c.rngs ++ (recRng c r c.nextId).toList } n r owner ctx gen c.nextId

/-! ### The effects of stream commands (R190) -/

/-- Whether a port's drain toward memory or other cores goes on after its fill side has stopped (R216, R230); `hold`: also one that stands in
FAULT. -/
def drainsOut (p : Port) (hold : Bool) : Bool :=
  decide (p.dst = .glob ∨ p.dst = .remote) && !isDirect p && (hold || !drainFault p)
    && decide (p.st = .run ∨ p.st = .done ∨ p.st = .fault ∨ (p.st = .set ∧ (p.dst = .glob ∨ p.hasRem)))

/-- SCLOSE's effect (R211, R216, R230): a glob or remote port first drains what it holds, also one still in SET, into which its
target has pushed; a fork toward other cores does so before its parent goes. `hold`: the end-of-job drain, which a drain side in FAULT holds. -/
def startClose (hold : Bool) (c : Core) (n : Nat) : Core :=
  let shut (c : Core) (k : Nat) : Core :=
    let p := c.port k
    c.setPort k { p with fend := if p.fork then p.fend else true, flush := some (buf c k).fw, closing := true }
  let p := c.port n
  let c1 := match forkOf c n with
    | some f => if drainsOut (c.port f) hold then shut c f else endPort c f
    | none => c
  if drainsOut p hold then shut c1 n
  else if (forkOf c1 n).isSome then
    let c2 := shut c1 n
    c2.setPort n { c2.port n with dp := p.fw, rd := p.fw }
  else closePort c1 n

/-- Whether elements that a port counts as taken or written are still on their way (R202, R262). -/
def itemsOut (c : Core) (n : Nat) : Bool :=
  let p := c.port n
  decide (p.rd ≠ p.dp) || (!p.fork && decide (p.wr ≠ p.fw))

/-- The targets of a message of a remote port: how many there are (R206, R224). -/
def targetCount (p : Port) : Nat :=
  if p.remote.getLsbD 38 then ((List.range 8).filter fun i => p.remote.getLsbD (9 + i)).length else 1

/-- Whether a target has reserved lines for a message of a port that is still to be sent; a request that no target has accepted can be
withdrawn. -/
def messageOut (p : Port) : Bool :=
  match p.sending with
  | some (_, l) => !drainFault p && decide (l.length < targetCount p)
  | none => false

/-- Whether something of a port is still in flight (R215). -/
def inFlight (c : Core) (n : Nat) : Bool := itemsOut c n || messageOut (c.port n)

/-- SFLUSH's effect on its port (R207, R232): what the fill side has written goes out. -/
def flushPort (c : Core) (n : Nat) : Core :=
  let p := c.port n
  c.setPort n { p with flush := some (max (p.flush.getD 0) (buf c n).fw) }

/-- What an SFLUSH that takes effect waits for (R232): the opening of its port and the elements written by then. For a direct transfer it is 1
while it has still to drain its region: a direct fill has written its elements to the region already. -/
def flushGoal (c : Core) (n : Nat) : Nat × Nat :=
  let p := c.port n
  (p.inst, if isDirect p then (if p.src = .pad ∧ p.st ≠ .set then 1 else 0) else (buf c n).fw)

/-- Whether everything up to a goal has left a port's drain side, or the opening has ended (R232). -/
def drained (c : Core) (n : Nat) (goal : Nat × Nat) : Bool :=
  let p := c.port n
  !isOpen c n || decide (p.inst ≠ goal.1)
    || (if isDirect p then decide (goal.2 = 0 ∨ p.st = .done)
        else decide (elementsIn (buf c n).gaps p.rd goal.2 = 0) && p.sending.isNone)

/-- The effect of a stream command on the ports; `id` is its item. A rewind, or a restoring, that passed its checks at issue and has
become impossible changes nothing (R190, R210; DESIGN CHOICE, log 64). A fork toward other cores has no SREMOTE: its REMOTE word is 0. -/
def applyStr (c : Core) (id : Nat) : StrCmd → Core
  | .opn n v =>
    let c1 := match forkOf c n with
      | some f => endPort c f
      | none => c
    emptyLines (c1.setPort n { v with inst := id }) v
  | .lev n l s e =>
    let p := c.port n
    c.setPort n { p with stride := mset p.stride l s, extent := mset p.extent l e }
  | .ind n i s => c.setPort n { c.port n with ind := true, iport := i, istride := s }
  | .src n v => c.setPort n { c.port n with param := v }
  | .rem n v => c.setPort n { c.port n with remote := v, hasRem := true }
  | .go n =>
    let p := c.port n
    c.setPort n { p with st := if p.fend then .done else .run, ip0 := if p.ind then (c.port p.iport).dp else 0,
                         rng := if c.rngs.any fun r => decide (r.id = id) then some id else none }
  | .fork n f d =>
    let p := c.port n
    c.setPort f { st := .run, src := p.src, dst := d, fork := true, parent := n, dp := p.dp, rd := p.dp, rm := p.rm,
                  sm := p.sm, owner := p.owner, octx := p.octx, ogen := p.ogen, inst := id }
  | .mark n m clr auto =>
    let p := c.port n
    if clr then c.setPort n { p with marks := mdel p.marks m, mauto := mdel p.mauto m }
    else c.setPort n { p with marks := mset p.marks m p.dp, mauto := if auto then mset p.mauto m true else mdel p.mauto m }
  | .rew n m => (rewindMark c n m).getD c
  | .close n => if isOpen c n then startClose false c n else c
  | .bfmt b k => { c with bfmt := mput 0#8 c.bfmt b (BitVec.ofNat 8 k) }
  | .save n off keep ag => leavePort ((wroteEv c (agEng ag).num).putPad off (saveRec c n keep)) n
  | .rest n r ag ctx gen => (restoreRec c n r ag ctx gen id).getD c
  | .flush n _ => flushPort c n
  | .merge m => { c with merge := some (id, m) }

/-- Whether a port that is only draining before it closes holds something of a pad range (R230). -/
def closingOver (c : Core) (r : Nat × Nat) : Bool :=
  c.ports.any fun x => x.2.closing && !x.2.fork && setsMeet [r] [(x.2.fbank * 8192, (x.2.fbank + x.2.banks) * 8192)]

/-- Whether the command at the head of the queue can take effect: the Second has matched it (R27, R190); SOPEN, SFORK and SREST
find the port closed, and what they or a direct transfer need of the pad free of a port that is still closing; SREW finds every consumption
performed (R210); SBFMT no earlier range-checker entry on its bank (R233); SSAVE nothing in flight (R215). -/
def strReady (c : Core) : Bool :=
  match c.strq with
  | [] => false
  | (id, cmd) :: _ =>
    matched c id &&
    (match cmd with
     | .opn n v => decide ((c.port n).st = .closed) && !closingOver c (v.fbank * 8192, (v.fbank + v.banks) * 8192)
     | .rest n r _ _ _ =>
       let v := recPort r 0 0 0#16
       decide ((c.port n).st = .closed) && !closingOver c (v.fbank * 8192, (v.fbank + v.banks) * 8192)
     | .fork n f _ => decide ((c.port f).st = .closed ∧ forkOf c n = none)
     | .go n => !isDirect (c.port n) || !(c.rngs.any fun r => decide (r.id = id) && (r.rd ++ r.wr).any (closingOver c))
     | .rew n _ => decide ((c.port n).rd = (c.port n).dp)
     | .save n _ _ _ => !inFlight c n
     | .bfmt b _ => !(c.rngs.any fun r => decide (r.id < id) && setsMeet (r.rd ++ r.wr) [(b * 8192, (b + 1) * 8192)])
         && !closingOver c (b * 8192, (b + 1) * 8192)
     | _ => true)

/-- The core as every stream command issued so far leaves it (R190): the queue's commands applied, and the ports that only
drain before they close taken as closed. -/
def projected (c : Core) : Core :=
  let shut (c : Core) : Core := { c with ports := c.ports.filter fun x => !x.2.closing }
  c.strq.foldl (fun c x => shut (applyStr c x.1 x.2)) (shut c)

end Sys2Proof.Machine
end

