-- ==== Sys2Proof/Machine/Streams.lean ====
section
/-! DEFINITION. The stream instructions (R188 to R190, R218 to R234): their checks, and the commands they queue. -/

namespace Sys2Proof.Machine

/-- The Stream State trap (R218). -/
def strTrap (reason port : Nat) : Res := .trap 0x11 (dw (reason * 256 + port)) 0

/-- A stream command enters the queue (R190). The member's earlier stores are performed before its engine can read them (R94). -/
def strPush (s : State) (cmd : StrCmd) : State :=
  let s1 := publish s
  let r := newItem s1.myCore
  irrevMe (s1.setMyCore { r.2 with strq := r.2.strq ++ [(r.1, cmd)] })

/-- Queues a stream command (R190); a seventeenth does not issue. -/
def strIssue (s : State) (cmd : StrCmd) : Res :=
  if 16 ≤ s.myCore.strq.length then .wait s else .ok (strPush s cmd)

/-- Queues a stream command whose context waits for more than its issue (R229, R232). -/
def strHold (s : State) (cmd : StrCmd) (w : Wait) : Res :=
  if 16 ≤ s.myCore.strq.length then .wait s
  else
    let s1 := strPush s cmd
    .wait (s1.setMe { s1.me with wait := w, ans := none })

/-- Goes on with the projected core and a port, which must be open (reason 0x02). -/
def onOpen (s : State) (n : Nat) (k : Core → Port → Res) : Res :=
  let c := projected s.myCore
  if (c.port n).st = .closed then strTrap 2 n else k c (c.port n)

/-- The same for a port that must be in SET and no fork (reasons 0x02, 0x04, 0x03; R211, R218). -/
def onSet (s : State) (n : Nat) (k : Core → Port → Res) : Res :=
  onOpen s n fun c p => if p.fork then strTrap 4 n else if p.st ≠ .set then strTrap 3 n else k c p

/-- The pad range of a port's buffer. -/
def bufRange (p : Port) : Nat × Nat := (p.fbank * 8192, (p.fbank + p.banks) * 8192)

/-- The pad region of an open direct transfer that has started (R208). -/
def regionOf (c : Core) (p : Port) : Nat × Nat :=
  (p.param.toNat, p.param.toNat + regionSize p.mfmt (c.bankFmt (p.param.toNat / 8192)) p.len)

/-- What an open port holds of the pad: its buffer, or its direct region. DESIGN CHOICE (log 64): a direct transfer holds its region from SGO
on, where R191 says "open". -/
def holds (c : Core) (p : Port) : List (Nat × Nat) :=
  if p.st = .closed ∨ p.fork then []
  else if isDirect p then (if p.st = .set then [] else [regionOf c p])
  else [bufRange p]

/-- Whether a pad range meets what an open port holds. -/
def meetsOpen (c : Core) (r : Nat × Nat) : Bool := c.ports.any fun x => setsMeet [r] (holds c x.2)

/-- Whether the banks that a pad range covers differ in format. -/
def mixedBanks (c : Core) (r : Nat × Nat) : Bool :=
  (List.range ((r.2 + 8191) / 8192 - r.1 / 8192)).any fun i => decide (c.bankFmt (r.1 / 8192 + i) ≠ c.bankFmt (r.1 / 8192))

/-- Whether a port would have to encode into an embedding line (R201): at its fill side or toward memory. -/
def badEncode (src : Src) (dst : Dst) (mf bf : Nat) : Bool :=
  (isEmb bf && ((decide (src = .glob ∨ src = .dcmp) && decide (mf ≠ 0 ∧ mf ≠ bf))
      || decide (src = .mx ∨ src = .ex ∨ src = .merge ∨ src = .gath)))
    || (decide (dst = .glob) && isEmb mf && decide (bf ≠ 0 ∧ bf ≠ mf))

/-- SOPEN (R191, R195, R196, R201, R203, R220). -/
def execSopen (r : Ring) (port rs1 rs2 : BitVec 5) (src : Src) (dst : Dst) (mfmt : BitVec 8) (rm : Rm) (sm : Bool)
    (qn : BitVec 3) (s : State) : Out1 :=
  issue (.sopen r port rs1 rs2 src dst mfmt rm sm qn) r .noDir (fun s =>
    let c := projected s.myCore
    let n := port.toNat
    let mf := mfmt.toNat
    let len := (getR s rs2.toNat).toNat
    let img := imageOf s (agCore s.cur)
    let p0 : Port := { st := .set, src := src, dst := dst, mfmt := mf, rm := rm, sm := sm, qn := qn.toNat,
                       base := (getR s rs1.toNat).toNat, len := len, owner := s.cur, octx := (ctxOf s s.cur).1,
                       ogen := (ctxOf s s.cur).2 }
    let direct := isDirect p0
    if (c.port n).st ≠ .closed then strTrap 1 n
    else if src = .msgq ∧ c.ports.any (fun x => decide (x.2.st ≠ .closed ∧ x.2.src = .msgq ∧ !x.2.fork ∧ x.2.qn = qn.toNat)) then
      strTrap 1 n
    else if badKinds src dst ∨ ((src = .msgq ∨ ¬(src = .glob ∨ src = .dcmp ∨ dst = .glob)) ∧ mf ≠ 0) then strTrap 4 n
    else if 2 ^ 32 ≤ len then strTrap 6 n
    else if !isBankCode mf then .trap 0x10 (dw mf) 0
    else if direct then strIssue s (.opn n p0)
    else
      match bufRec img n with
      | none => strTrap 5 n
      | some (fb, k) =>
        let p1 := { p0 with fbank := fb, banks := k }
        if meetsOpen c (bufRange p1) ∨ mixedBanks c (bufRange p1) ∨ badEncode src dst mf (c.bankFmt fb) then strTrap 5 n
        else strIssue s (.opn n p1)) s

/-- SLEV (R221). -/
def execSlev (r : Ring) (port rs1 rs2 : BitVec 5) (level : BitVec 2) (imm : Bool) (ext : BitVec 27) (s : State) : Out1 :=
  issue (.slev r port rs1 rs2 level imm ext) r .noDir (fun s =>
    onSet s port.toNat fun _ _ =>
      let e := if imm then ext.toNat else (getR s rs2.toNat).toNat
      if e = 0 ∨ 2 ^ 32 ≤ e then strTrap 6 port.toNat
      else strIssue s (.lev port.toNat level.toNat (getR s rs1.toNat).toInt e)) s

/-- SIND (R199, R222). -/
def execSind (r : Ring) (port iport rs2 : BitVec 5) (s : State) : Out1 :=
  issue (.sind r port iport rs2) r .noDir (fun s =>
    let n := port.toNat
    let i := iport.toNat
    let c := projected s.myCore
    if (c.port n).st = .closed then strTrap 2 n
    else if (c.port i).st = .closed then strTrap 2 i
    else onSet s n fun c p =>
      if p.src ≠ .glob ∨ i = n then strTrap 4 n
      else if (c.port i).dst ≠ .index then strTrap 4 i
      else if ¬(1 ≤ fmtOf c i ∧ fmtOf c i ≤ 6) then strTrap 5 i
      else strIssue s (.ind n i (getR s rs2.toNat).toInt)) s

/-- SSRC (R223). -/
def execSsrc (r : Ring) (port rs1 : BitVec 5) (s : State) : Out1 :=
  issue (.ssrc r port rs1) r .noDir (fun s =>
    let n := port.toNat
    let v := getR s rs1.toNat
    onSet s n fun _ p =>
      if p.src ≠ .dcmp ∧ ¬isDirect p then strTrap 4 n
      else if p.src = .dcmp ∧ 1 < v.toNat then strTrap 6 n
      else if isDirect p ∧ (0x200000 ≤ v.toNat ∨ v.toNat % 64 ≠ 0) then strTrap 6 n
      else strIssue s (.src n v)) s

/-- SREMOTE (R224): the REMOTE word of R214. -/
def execSremote (r : Ring) (port rs1 rs2 : BitVec 5) (he : Bool) (queue : BitVec 3) (hpc : BitVec 14) (mc : Bool)
    (ch : BitVec 3) (s : State) : Out1 :=
  issue (.sremote r port rs1 rs2 he queue hpc mc ch) r .noDir (fun s =>
    let n := port.toNat
    let t := (getR s rs1.toNat).toNat
    let m := (getR s rs2.toNat).toNat
    onSet s n fun _ p =>
      if p.dst ≠ .remote then strTrap 4 n
      else if (if mc then m = 0 ∨ 255 < m else 383 < t) then strTrap 6 n
      else strIssue s (.rem n (dw ((if mc then 0 else t) + (if mc then m else 0) * 2 ^ 9 + queue.toNat * 2 ^ 17
        + bit he * 2 ^ 20 + hpc.toNat * 2 ^ 21 + ch.toNat * 2 ^ 35 + bit mc * 2 ^ 38)))) s

/-- The first of the base and the strides that is no multiple of the item size (R197). DESIGN CHOICE (log 64): ISTRIDE (R199), no stride of a level, is not
checked. -/
def misItem (p : Port) : Option DWord :=
  if p.src = .glob ∨ p.dst = .glob then
    ((p.base : Int) :: (List.range 4).map fun l => (p.lev l).1).find? (fun v : Int => decide (v % (itemSize p.mfmt : Int) ≠ 0))
      |>.map (BitVec.ofInt 64)
  else none

/-- SGO (R197, R200, R208, R225). -/
def execSgo (r : Ring) (port : BitVec 5) (s : State) : Out1 :=
  issue (.sgo r port) r .noDir (fun s =>
    let n := port.toNat
    onSet s n fun c p =>
      let reg := regionOf c p
      if p.src = .dcmp ∧ (List.range 4).any (fun l => decide (p.lev l ≠ (0, 1))) then strTrap 4 n
      else if p.dst = .remote ∧ !p.hasRem then strTrap 4 n
      else if isDirect p ∧ (mixedBanks c (clipRange reg) ∨ meetsOpen { c with ports := c.ports.filter fun x => !isDirect x.2 } reg
          ∨ badEncode p.src p.dst p.mfmt (c.bankFmt (reg.1 / 8192))
          ∨ (isEmb (c.bankFmt (reg.1 / 8192)) ∧ p.dst = .pad ∧ p.mfmt ≠ 0 ∧ p.mfmt ≠ c.bankFmt (reg.1 / 8192))) then strTrap 5 n
      else
        match misItem p with
        | some v => .trap 5 v 0
        | none =>
          if isDirect p then
            if p.len = 0 ∨ 0x200000 < reg.2 then .trap 7 p.param 0
            else if 64 ≤ s.myCore.rngs.length ∨ 16 ≤ s.myCore.strq.length then .wait s
            else
              let k := s.myCore
              let e : Rng := { id := k.nextId, rd := if p.src = .pad then [reg] else [], wr := if p.src = .pad then [] else [reg] }
              strIssue (s.setMyCore { k with rngs := k.rngs ++ [e] }) (.go n)
          else strIssue s (.go n)) s

/-- SFORK (R211, R226). -/
def execSfork (r : Ring) (port fork : BitVec 5) (dst : Dst) (s : State) : Out1 :=
  issue (.sfork r port fork dst) r .noDir (fun s =>
    let n := port.toNat
    let f := fork.toNat
    onOpen s n fun c p =>
      if (c.port f).st ≠ .closed then strTrap 1 f
      else if p.fork ∨ forkOf c n ≠ none then strTrap 3 n
      else if dst = .glob ∨ dst = .pad ∨ isDirect p ∨ badKinds p.src dst then strTrap 4 n
      else strIssue s (.fork n f dst)) s

/-- SMARK (R209, R227). -/
def execSmark (r : Ring) (port : BitVec 5) (clr auto : Bool) (m : BitVec 2) (s : State) : Out1 :=
  issue (.smark r port clr auto m) r .noDir (fun s =>
    onOpen s port.toNat fun _ _ => strIssue s (.mark port.toNat m.toNat clr auto)) s

/-- SREW (R210, R228). -/
def execSrew (r : Ring) (port : BitVec 5) (m : BitVec 2) (s : State) : Out1 :=
  issue (.srew r port m) r .noDir (fun s =>
    onOpen s port.toNat fun c _ =>
      if (rewindMark c port.toNat m.toNat).isNone then strTrap 7 port.toNat
      else strIssue s (.rew port.toNat m.toNat)) s

/-- SCLOSE (R230). -/
def execSclose (r : Ring) (port : BitVec 5) (s : State) : Out1 :=
  issue (.sclose r port) r .noDir (fun s => onOpen s port.toNat fun _ _ => strIssue s (.close port.toNat)) s

/-- The checks of a record's offset (R218, R229): Misaligned, Pad Range, reason 0x05. -/
def recOffset (c : Core) (n : Nat) (off : DWord) (k : Res) : Res :=
  if off.toNat % 64 ≠ 0 then .trap 5 off 0
  else if 0x200000 < off.toNat + 192 then .trap 7 off 0
  else if c.ports.any (fun x => decide (x.2.st ≠ .closed) && !x.2.fork && !isDirect x.2
      && setsMeet [(off.toNat, off.toNat + 192)] [bufRange x.2]) then strTrap 5 n
  else k

/-- SSAVE (R214, R215, R229): its context waits until the record has been written. -/
def execSsave (r : Ring) (port rs : BitVec 5) (keep : Bool) (s : State) : Out1 :=
  issue (.ssave r port rs keep) r .noDir (fun s =>
    let n := port.toNat
    let off := getR s rs.toNat
    if s.me.wait = .rec_ n then (if s.me.ans = none then .wait s else .ok s)
    else onOpen s n fun c _ => recOffset c n off (strHold s (.save n off.toNat keep s.cur) (.rec_ n))) s

/-- SREST (R203, R215, R229): its context waits until the record has been read. -/
def execSrest (r : Ring) (port rs : BitVec 5) (s : State) : Out1 :=
  issue (.srest r port rs) r .noDir (fun s =>
    let n := port.toNat
    let off := getR s rs.toNat
    let c := projected s.myCore
    if s.me.wait = .rec_ n then (if s.me.ans = none then .wait s else if s.me.ans = some .refused then strTrap 8 n else .ok s)
    else if (c.port n).st ≠ .closed then strTrap 1 n
    else recOffset c n off (
      let k := s.myCore
      let rec_ := k.padN off.toNat 192
      let (x, gen) := ctxOf s s.cur
      if recQueueUsed c rec_ then strTrap 1 n
      else if recBad (imageOf s (agCore s.cur)) n rec_ ∨ restoreRec c n rec_ s.cur x gen k.nextId = none then strTrap 8 n
      else
        let e := (recRng c rec_ k.nextId).toList
        if e ≠ [] ∧ 64 ≤ k.rngs.length then .wait s
        else strHold (if 16 ≤ k.strq.length then s else s.setMyCore { k with rngs := k.rngs ++ e }) (.rest n rec_ s.cur x gen) (.rec_ n))) s

/-- SSTAT's word (R231). -/
def sstatWord (c : Core) (n : Nat) : DWord :=
  if !isOpen c n then 0#64
  else
    let p := c.port n
    let b := buf c n
    let f := fmtOf c n
    let m := bufPort c n
    let top := b.wr / epl f + (if b.fend ∧ b.wr % epl f ≠ 0 then 1 else 0)
    let full := if b.fend ∧ b.wr ≤ emptiedTo c m then 0 else top - emptiedTo c m / epl f
    let fr := if b.src = .msgq then bufLines b - (b.tail - b.head) else bufLines b - full
    dw (waiting c n % 2 ^ 32 * 2 ^ 32 + (portState c n).num * 2 ^ 28 + (if b.st = .fault then b.faultMfc else 0) * 2 ^ 24
      + bit b.fend * 2 ^ 23 + bit p.short * 2 ^ 22 + bit p.fork * 2 ^ 21 + min p.drop 31 * 2 ^ 16 + fr)

/-- Whether the stream command queue holds a command that SSTAT of a port is to reflect: on the port, its parent or its fork (R231). -/
def pendingFor (c : Core) (n : Nat) : Bool :=
  pendingOn c n || pendingOn c (bufPort c n) || (match forkOf c n with
    | some f => pendingOn c f
    | none => false)

/-- SSTAT (R231). -/
def execSstat (r : Ring) (port rd : BitVec 5) (s : State) : Out1 :=
  issue (.sstat r port rd) r .noDir (fun s =>
    if pendingFor s.myCore port.toNat then .wait s
    else .ok (setR s rd.toNat (sstatWord s.myCore port.toNat))) s

/-- SFLUSH (R207, R232): it waits until the elements written when it took effect are drained, or the port is closed. -/
def execSflush (r : Ring) (port : BitVec 5) (s : State) : Out1 :=
  issue (.sflush r port) r .noDir (fun s =>
    let n := port.toNat
    if s.me.wait = .port n then
      (if s.me.ans ≠ none ∧ drained s.myCore n s.me.fl then .ok s else .wait s)
    else onOpen s n fun _ _ => strHold s (.flush n s.cur) (.port n)) s

/-- The lowest-numbered port whose buffer, or open direct region, holds a line of a bank (R233). -/
def bankHolder (c : Core) (b : Nat) : Option Nat :=
  mfind (fun _ p => setsMeet [(b * 8192, (b + 1) * 8192)] (holds c p)) c.ports

/-- SBFMT (R233). -/
def execSbfmt (r : Ring) (rs : BitVec 5) (code : BitVec 8) (s : State) : Out1 :=
  issue (.sbfmt r rs code) r .noDir (fun s =>
    let b := getR s rs.toNat
    if !isBankCode code.toNat then .trap 0x10 (code.setWidth 64) 0
    else if 255 < b.toNat then .trap 7 b 0
    else
      match bankHolder (projected s.myCore) b.toNat with
      | some n => strTrap 5 n
      | none => strIssue s (.bfmt b.toNat code.toNat)) s

/-- Whether no two of some ports are the same. -/
def allDiffer : List Nat → Bool
  | [] => true
  | x :: t => !t.contains x && allDiffer t

/-- SMERGE (R234). -/
def execSmerge (r : Ring) (ok ka kb oa : BitVec 5) (uni strict : Bool) (ob : BitVec 5) (eoa eob eok : Bool)
    (tag : BitVec 16) (s : State) : Out1 :=
  issue (.smerge r ok ka kb oa uni strict ob eoa eob eok tag) r .noDir (fun s =>
    let c := projected s.myCore
    let ins := [ka.toNat, kb.toNat]
    let outs := (if eok then [ok.toNat] else []) ++ (if eoa then [oa.toNat] else []) ++ (if eob then [ob.toNat] else [])
    match (ins ++ outs).find? fun n => decide ((c.port n).st = .closed) with
    | some n => strTrap 2 n
    | none =>
      match ins.find? fun n => decide ((c.port n).dst ≠ .merge) with
      | some n => strTrap 4 n
      | none =>
        match outs.find? fun n => decide ((c.port n).src ≠ .merge) || (c.port n).fork with
        | some n => strTrap 4 n
        | none =>
          if !allDiffer (ins ++ outs) then strTrap 4 ka.toNat
          else
            match ins.find? fun n => decide (fmtOf c n < 1 ∨ 6 < fmtOf c n) with
            | some n => strTrap 5 n
            | none =>
              match outs.find? fun n => decide (6 < fmtOf c n) with
              | some n => strTrap 5 n
              | none =>
                let k := s.myCore
                if k.merge ≠ none ∨ k.strq.any (fun x => match x.2 with
                    | .merge _ => true
                    | _ => false) ∨ 16 ≤ k.strq.length ∨ 32 ≤ k.rpl.length + k.resv.length then .wait s
                else
                  let m : Merge := { ok := ok.toNat, ka := ka.toNat, kb := kb.toNat, oa := oa.toNat, ob := ob.toNat, eok := eok,
                                     eoa := eoa, eob := eob, uni := uni, strict := strict, tag := tag.toNat }
                  strIssue (s.setMyCore { k with resv := k.resv ++ [tag.toNat] }) (.merge m)) s

end Sys2Proof.Machine
end

