-- ==== Sys2Proof/Machine/StreamEv.lean ====
section
/-! DEFINITION. The device steps of the stream engine: stream commands that take effect (R190), items of fills and drains (R198
to R201, R207, R208), decompression (R200), the merge unit (R235, R236). -/

namespace Sys2Proof.Machine

/-- The first port of a core that passes a test, from the one after a number on and round (R217); ports that lists name alone
count. -/
def portAfter (c : Core) (at_ : Nat) (p : Core → Nat → Bool) : Option Nat :=
  match mfind (fun n _ => decide (at_ < n) && p c n) c.ports with
  | some n => some n
  | none => mfind (fun n _ => p c n) c.ports

/-- The first core with a port that passes a test, and that port. -/
def findPort (s : State) (from_ : Core → Nat) (p : Core → Nat → Bool) : Option (Nat × Nat) :=
  match mfind (fun _ c => (portAfter c (from_ c) p).isSome) s.cores with
  | none => none
  | some k => (portAfter (s.core k) (from_ (s.core k)) p).map fun n => (k, n)

/-- The context of a command that it waits for goes on, if it still does (R229, R232). -/
def tellCtx (s : State) (ag : Nat) (w : Wait) (a : Ans) (goal : Nat × Nat) : State :=
  if (s.ctx ag).wait = w then s.setCtx ag { s.ctx ag with ans := some a, fl := goal } else s

/-- The message requests of a core's ports that no longer wait for them are withdrawn (R206, R215). -/
def tidyMsgs (s : State) (core : Nat) : State :=
  let live (q : MsgReq) : Bool := match q.sport with
    | some (k, n) => decide (k ≠ core) || ((s.core core).port n).sending.isSome
    | none => true
  if s.cores.all fun p => p.2.msgs.all live then s
  else { s with cores := s.cores.map fun p => (p.1, { p.2 with msgs := p.2.msgs.filter live }) }

/-- STREAM_COMMAND_EFFECT (R190). -/
def execStreamCommandEffect (s : State) : Out1 :=
  match mfind (fun _ c => strReady c) s.cores with
  | none => .next s
  | some k =>
    let c := s.core k
    match c.strq with
    | [] => .next s
    | (id, cmd) :: t =>
      let s1 := s.setCore k { applyStr c id cmd with strq := t }
      .next (match cmd with
        | .save n _ _ ag => tellCtx (tidyMsgs s1 k) ag (.rec_ n) .accepted (0, 0)
        | .rest n r ag ctx gen =>
          tellCtx s1 ag (.rec_ n) (if (restoreRec c n r ag ctx gen id).isSome then .accepted else .refused) (0, 0)
        | .flush n ag => tellCtx s1 ag (.port n) .accepted (flushGoal c n)
        | _ => s1)

/-- The stream fault record (R213). -/
def streamRecord (s : State) (core n side va mfc cause item : Nat) : List Byte :=
  leBytes 8 va ++ leBytes 1 n ++ leBytes 1 side ++ leBytes 1 mfc ++ leBytes 1 cause ++ leBytes 4 item ++ leBytes 2 core
    ++ leBytes 2 ((s.core core).port n).octx ++ leBytes 4 0 ++ leBytes 8 (jobIdOf s core).toNat

/-- A side of a port stops in FAULT, and its record goes to the Director (R212). -/
def streamFault (s : State) (core n side va mfc cause item : Nat) : State :=
  let c := s.core core
  let p := c.port n
  let p1 := if p.st = .fault then { p with fault2 := some (side, va, mfc) }
    else { p with st := .fault, faultVa := dw va, faultSide := side, faultMfc := mfc }
  raiseEvent (s.setCore core (c.setPort n p1)) (coreDie core) 2 core (streamRecord s core n side va mfc cause item)

/-- A conversion by the stream engine or a pusher: the code, its flags, and the core after the draw (R52, R54). -/
def conv (c : Core) (v : Num) (f : Fmt) (rm : Rm) (sm : Bool) : (Nat × FpFlags) × Core :=
  let d := drawFor rm c.lfsr
  (convert v f rm sm d.1, { c with lfsr := d.2 })

/-- The format of a buffer that elements are encoded into; raw is a byte. -/
def bankCodec (code : Nat) : Fmt := (codeFmt code).getD (.int 8 false)

/-- Encodes values into a format, in order: the codes, the flags, the core after the draws. -/
def convAll (c : Core) (f : Fmt) (rm : Rm) (sm : Bool) : List Num → List Nat × FpFlags × Core
  | [] => ([], 0#5, c)
  | v :: t =>
    let r := conv c v f rm sm
    let q := convAll r.2 f rm sm t
    (r.1.1 :: q.1, r.1.2 ||| q.2.1, q.2.2)

/-- Writes a whole embedding line at the fill side (R49). -/
def pushLine (c : Core) (n : Nat) (bs : List Byte) : Core :=
  let p := c.port n
  let f := fmtOf c n
  let w := (p.wr / epl f + 1) * epl f
  (c.putPad (lineOff p f p.wr) bs).setPort n { p with wr := w, fw := max p.fw w }

/-- The fill side takes the bytes of one item, or of one decompressed line, into the buffer or the region (R201); `last` ends
a partial element with zeros. -/
def fillBytes (c : Core) (n : Nat) (bs : List Byte) (last : Bool) : Core :=
  let p := c.port n
  let bf := fmtOf c n
  let mf := p.mfmt
  let c0 := c.setPort n { p with skipEl := 0 }
  if bf = 0 then pushCodes c0 n ((bs.map BitVec.toNat).drop p.skipEl)
  else if mf = 0 then
    let u := (rawGroup bf).1
    let all := p.part ++ bs
    let k := if last then (all.length + u - 1) / u * u else all.length / u * u
    let now := (all ++ List.replicate u 0#8).take k
    let c1 := c0.setPort n { c0.port n with part := all.drop k }
    let c2 := if isEmb bf then (if k = 0 then c1 else pushLine c1 n now)
      else pushCodes c1 n ((groupBytes (elBits bf) now).drop p.skipEl)
    c2.putPad (partOff c2 n) (all.drop k)
  else if mf = bf then
    if isEmb bf then pushLine c0 n bs else pushCodes c0 n ((groupBytes (elBits bf) bs).drop p.skipEl)
  else
    let k := if isEmb mf then epl mf else bs.length * 8 / elBits mf
    let r := convAll c0 (bankCodec bf) p.rm p.sm (((List.range k).drop p.skipEl).map (lineValue bs mf))
    pushCodes r.2.2 n r.1

/-- The most elements that the next item of a fill writes. -/
def itemElems (p : Port) (bf : Nat) : Nat :=
  if p.src = .dcmp then (if bf = 0 then 64 else if p.mfmt = 0 then 64 / (rawGroup bf).1 * (rawGroup bf).2 else epl p.mfmt)
  else if bf = 0 then itemSize p.mfmt
  else if p.mfmt = 0 then (rawGroup bf).2
  else if isEmb p.mfmt then epl p.mfmt
  else if elBits p.mfmt = 4 then 2 else 1

/-- The fill side of a port has ended; one still in SET, into which a pusher ends, is DONE too (R236, R366). -/
def endFill (c : Core) (n : Nat) : Core :=
  let p := c.port n
  c.setPort n { p with fend := true, st := if p.st = .run ∨ p.st = .set then .done else p.st }

/-- Whether every item of a fill has come in (R198); a port restored behind its last item is so from the start (R215). -/
def fillSpent (p : Port) : Bool := decide (p.len ≠ 0 ∧ p.len ≤ p.fp)

/-- Whether a port's fill side goes on: in RUN, or in FAULT of its drain side. DESIGN CHOICE (log 64): it stops in ORDER, of which R189 says
nothing. -/
def filling (p : Port) : Bool :=
  !p.fork && !p.fend && !p.closing && decide (p.st = .run ∨ p.st = .fault) && !fillFault p

/-- Whether a direct transfer may access its region: its entry waits for no other (R30). -/
def rngFree (c : Core) (p : Port) : Bool :=
  match p.rng with
  | some id => !rngBlocked c id
  | none => false

/-- Whether a port's fill side has an item to bring in now, or its end to note. -/
def fillReady (c : Core) (n : Nat) : Bool :=
  let p := c.port n
  filling p &&
    (if fillSpent p then decide (p.src = .glob ∨ p.src = .dcmp)
     else if p.ind ∧ p.index = none then fillOver c p.iport && decide (ready c p.iport = 0)
     else if p.dst = .pad then rngFree c p
     else if p.src = .glob then roomFor c n (itemElems p (fmtOf c n) - p.skipEl)
     else if p.src = .dcmp then p.block.isSome && roomFor c n (itemElems p (fmtOf c n) - p.skipEl)
     else false)

/-- The fill side takes the bytes of one item, or of one decompressed line: what comes whole or in part from poisoned bytes is poisoned
(R465). DEDUCED (log 24): an item is one access, poisoned whole. -/
def fillTainted (c : Core) (n : Nat) (bs : List Byte) (last bad : Bool) : Core :=
  let p := c.port n
  let hurt := bad || (padPoison c (partOff c n) p.part.length).isSome
  let c1 := fillBytes c n bs last
  taintPad (taintEls c1 hurt n p.wr (c1.port n).wr) hurt (partOff c1 n) (c1.port n).part.length

/-- An item of a global fill or of a direct fill (R197 to R199, R208), or the end of an indirect one, whose partial element is
completed with zeros (R201). -/
def globItem (s : State) (core n : Nat) : State :=
  let c := s.core core
  let p := c.port n
  if p.ind ∧ p.index = none then
    let c1 := endFill (if p.part = [] then c else fillTainted c n [] true false) n
    s.setCore core (match p.rng with
      | some id => rngDone c1 id
      | none => c1)
  else
    let base : Int := p.base + (p.index.getD 0) * p.istride
    let k := p.fp
    let va := patAddr p base (if p.ind then k % patSize p else k)
    match xlateEngN s core p.octx p.ogen va (itemSize p.mfmt) false with
    | (.inl (m, v), s1) => streamFault s1 core n (if p.dst = .pad then 3 else 0) v m 0 (k - p.fp0)
    | (.inr pas, s1) =>
      let last := decide (p.len ≠ 0 ∧ p.len ≤ k + 1)
      let c1 := fillTainted (s1.core core) n (pas.map (memByte s1)) last (poisonAt s1 pas).isSome
      let p2 := c1.port n
      let c3 := c1.setPort n { p2 with fp := k + 1, index := if p.ind ∧ (k + 1) % patSize p = 0 then none else p.index }
      let c4 := if last then endFill c3 n else c3
      s1.setCore core (match last && decide (p.dst = .pad), p.rng with
        | true, some id => rngDone c4 id
        | _, _ => c4)

/-- An item of a decompressing fill: one line (R200). -/
def dcmpItem (s : State) (core n : Nat) : State :=
  let c := s.core core
  let p := c.port n
  match p.block with
  | none => s
  | some bs =>
    let last := decide (p.len ≠ 0 ∧ p.len ≤ p.fp + 1)
    let c1 := fillTainted c n bs last p.blockBad
    let c2 := c1.setPort n { c1.port n with fp := p.fp + 1, block := none, blockBad := false }
    s.setCore core (if last then endFill c2 n else c2)

/-- The fill side of a port ends with no further item; a direct transfer's ranges leave the checker (R198, R208). -/
def endSpent (s : State) (core n : Nat) : State :=
  let c := endFill (s.core core) n
  s.setCore core (match (c.port n).rng with
    | some id => rngDone c id
    | none => c)

/-- STREAM_FILL_ITEM (R198): the next port, in the order of R217. -/
def execStreamFillItem (s : State) : Out1 :=
  match findPort s (fun c => c.fillAt) fillReady with
  | none => .next s
  | some (core, n) =>
    let s1 := s.setCore core { s.core core with fillAt := n }
    .next (if fillSpent ((s.core core).port n) then endSpent s1 core n
           else if ((s.core core).port n).src = .dcmp then dcmpItem s1 core n else globItem s1 core n)

/-- Whether a decompressing port asks for its next block (R200). -/
def wantsBlock (c : Core) (n : Nat) : Bool :=
  let p := c.port n
  decide (p.src = .dcmp) && filling p && !fillSpent p && p.block.isNone

/-- The output line of a block: element by element of w bytes, the next packed one where the mask has a 1 (R200). -/
def expand (w : Nat) (mask : Nat) (n : Nat) : Nat → List Byte → List Byte
  | 0, _ => []
  | k + 1, bs =>
    if mask.testBit (n - (k + 1)) then bs.take w ++ expand w mask n k (bs.drop w)
    else List.replicate w 0#8 ++ expand w mask n k bs

/-- The port whose block is decompressed next: the cores of a cluster are served in turn (R200), the ports of a core in the order of
R217. -/
def nextBlock (s : State) : Option (Nat × Nat) :=
  let want (k : Nat) : Option Nat := portAfter (s.core k) (s.core k).dcAt wantsBlock
  match mfind (fun k _ => (want k).isSome) s.cores with
  | none => none
  | some k0 =>
    let q := devCluster k0
    match ((List.range 8).map fun i => clusterCore q (((s.clus q).dcmpAt + i) % 8)).find? fun k => (want k).isSome with
    | none => none
    | some k => (want k).map fun n => (k, n)

/-- DECOMPRESS_BLOCK (R200). -/
def execDecompressBlock (s : State) : Out1 :=
  match nextBlock s with
  | none => .next s
  | some (core, n) =>
    let q := devCluster core
    let s := (s.setClus q { s.clus q with dcmpAt := (corePos core + 1) % 8 }).setCore core { s.core core with dcAt := n }
    let p := (s.core core).port n
    let two := decide (p.param.toNat = 1)
    let mb := if two then 4 else 8
    let va := (p.base + p.dpos) % 2 ^ 64
    match xlateEngN s core p.octx p.ogen va mb false with
    | (.inl (m, v), s1) => .next (streamFault s1 core n 0 v m 0 (p.fp - p.dskip))
    | (.inr pas, s1) =>
      let mask := leNat (pas.map (memByte s1))
      let cnt := popFrom (dw mask) (if two then 32 else 64) * (if two then 2 else 1)
      let go (s : State) (data : List Byte) (bad : Bool) : State :=
        let c := s.core core
        let line := expand (if two then 2 else 1) mask (if two then 32 else 64) (if two then 32 else 64) data
        let p := c.port n
        s.setCore core (c.setPort n { p with dpos := p.dpos + mb + cnt, dskip := p.dskip - 1,
                                             block := if p.dskip = 0 then some line else none,
                                             blockBad := bad && decide (p.dskip = 0) })
      let badMask := (poisonAt s1 pas).isSome
      if cnt = 0 then .next (go s1 [] badMask)
      else
        match xlateEngN s1 core p.octx p.ogen ((va + mb) % 2 ^ 64) cnt false with
        | (.inl (m, v), s2) => .next (streamFault s2 core n 0 v m 0 (p.fp - p.dskip))
        | (.inr ds, s2) => .next (go s2 (ds.map (memByte s2)) (badMask || (poisonAt s2 ds).isSome))

/-! ### Drains -/

/-- The position up to which a drain toward memory or other cores may go now: whole lines; what is written where the fill side
has ended or a flush asks for it (R206, R207). -/
def drainLimit (c : Core) (n : Nat) : Nat :=
  let b := buf c n
  let f := fmtOf c n
  let lines := b.wr / epl f * epl f
  if fillOver c n then b.wr
  else match (c.port n).flush with
    | some t => max lines (min t b.wr)
    | none => lines

/-- Whether a port's drain side can run at all. -/
def drainOn (c : Core) (n : Nat) : Bool :=
  let p := c.port n
  (p.closing || decide (portState c n = .run ∨ portState c n = .done ∨ portState c n = .fault ∨ portState c n = .order)) && !drainFault p

/-- Whether a drain toward global memory has an item to write. -/
def globDrains (c : Core) (n : Nat) : Bool :=
  let p := c.port n
  decide (p.dst = .glob ∧ p.src ≠ .pad) && drainOn c n && decide (p.len = 0 ∨ p.di < p.len)
    && decide (elementsIn (buf c n).gaps p.dp (drainLimit c n) ≠ 0)

/-- Whether a direct drain has an item to write. -/
def directDrains (c : Core) (n : Nat) : Bool :=
  let p := c.port n
  decide (p.src = .pad ∧ p.st = .run) && rngFree c p

/-- The indirect fill that waits for an index of a port, if it has one to give (R199). -/
def indexFor (c : Core) (n : Nat) : Option Nat :=
  if (c.port n).dst = .index ∧ drainOn c n ∧ 1 ≤ ready c n then
    mfind (fun _ p => filling p && p.ind && decide (p.iport = n ∧ p.index = none) && !fillSpent p) c.ports
  else none

/-- Whether a port bound to the scale queue has a code to enter (R24). -/
def scaleDrains (c : Core) (n : Nat) : Bool :=
  decide (c.sqBind = some n ∧ (c.port n).dst = .scale ∧ c.scq.length < 256) && drainOn c n && decide (1 ≤ ready c n)

/-- Whether a port that is to close has nothing left to drain (R216, R230). -/
def closeReady (c : Core) (n : Nat) : Bool :=
  let p := c.port n
  p.closing && p.sending.isNone && (forkOf c n).isNone && decide (elementsIn (buf c n).gaps p.rd (p.flush.getD 0) = 0 ∨ (p.len ≠ 0 ∧ p.len ≤ p.di))

/-- Whether STREAM_DRAIN_ITEM has something to do at a port. -/
def drainReady (c : Core) (n : Nat) : Bool :=
  globDrains c n || directDrains c n || scaleDrains c n || closeReady c n || (indexFor c n).isSome

/-- The bytes that elements at some positions of a port give memory (R201). -/
def drainData (c : Core) (n : Nat) (es : List Nat) : List Byte × Core :=
  let p := c.port n
  let bf := fmtOf c n
  let b := buf c n
  if isEmb bf ∧ (p.mfmt = 0 ∨ p.mfmt = bf) then (c.padN (lineOff b bf (es.headD 0)) 64, c)
  else if bf = 0 ∨ p.mfmt = 0 ∨ p.mfmt = bf then (ungroup (elBits bf) (es.map (elCode c n)), c)
  else
    let r := convAll c (bankCodec p.mfmt) p.rm p.sm (es.map (elValue c n))
    (ungroup (elBits p.mfmt) r.1, r.2.2)

/-- Writes the items of a drain unit: the first that fails, or the state with all written. A write of another generation than its context's
is discarded (R97). What is written is no store of the port's member (R81), and is poisoned if the data is (R465). -/
def drainItems (s : State) (core : Nat) (p : Port) (bad : Bool) (isz : Nat) (di : Nat) : Nat → List Byte → (Nat × Nat × Nat) ⊕ State
  | 0, _ => .inr s
  | k + 1, bs =>
    if (s.ctxEnt p.octx).gen ≠ p.ogen then drainItems s core p bad isz (di + 1) k (bs.drop isz)
    else
      match xlateEngN s core p.octx p.ogen (patAddr p p.base di) isz true with
      | (.inl (m, v), _) => .inl (m, v, di)
      | (.inr pas, s1) =>
        let l := pas.zip (bs.take isz)
        drainItems (taintMem (veilWrite s1 p.owner p.octx p.ogen none l (putBytes s1 l)) bad (l.map fun x => x.1)) core p bad isz (di + 1) k
          (bs.drop isz)

/-- One unit of a drain toward memory, of a buffer or of a direct region. -/
def drainUnitStep (s : State) (core n : Nat) (es : List Nat) (side : Nat) : State × Bool :=
  let c := s.core core
  let p := c.port n
  let u := drainUnit p.mfmt (fmtOf c n)
  let d := drainData c n es
  let bs := (d.1 ++ List.replicate (u.2.1 * u.2.2) 0#8).take (u.2.1 * u.2.2)
  let items := if p.len = 0 then u.2.1 else min u.2.1 (p.len - p.di)
  match drainItems (s.setCore core d.2) core p (es.any fun e => (elPoison c n e).isSome) u.2.2 p.di items bs with
  | .inl (m, v, k) => (streamFault s core n side v m 0 k, false)
  | .inr s1 =>
    let c1 := s1.core core
    (s1.setCore core (c1.setPort n { c1.port n with di := p.di + items }), true)

/-- A unit of a drain of a buffer. -/
def globDrain (s : State) (core n : Nat) : State :=
  let c := s.core core
  let p := c.port n
  let k := min (drainUnit p.mfmt (fmtOf c n)).1 (elementsIn (buf c n).gaps p.dp (drainLimit c n))
  let r := drainUnitStep s core n (positions (buf c n).gaps p.dp k).1 2
  if r.2 then r.1.setCore core (takeEls (r.1.core core) n k).2 else r.1

/-- A unit of a direct drain; the last one ends it (R208). -/
def directDrain (s : State) (core n : Nat) : State :=
  let c := s.core core
  let p := c.port n
  let k := (drainUnit p.mfmt (fmtOf c n)).1
  let r := drainUnitStep s core n ((List.range k).map fun i => p.dp + i) 3
  if r.2 then
    let c1 := r.1.core core
    let p1 := c1.port n
    let c2 := c1.setPort n { p1 with dp := p.dp + k, rd := p.dp + k }
    if p.len ≤ p1.di then
      let c3 := endFill c2 n
      r.1.setCore core (match p.rng with
        | some id => rngDone c3 id
        | none => c3)
    else r.1.setCore core c2
  else r.1

/-- An element enters the scale queue (R24). -/
def scaleDrain (s : State) (core n : Nat) : State :=
  let c := s.core core
  let e := (positions (buf c n).gaps (c.port n).dp 1).1.headD 0
  let f := fmtOf c n
  let r := if f = 0 then ((elCode c n e, 0#5), c) else conv c (elValue c n e) (.int 8 false) (c.port n).rm (c.port n).sm
  let c1 := (takeEls r.2 n 1).2
  s.setCore core { c1 with scq := c1.scq ++ [BitVec.ofNat 8 r.1.1] }

/-- An index goes to the fill that waits for it (R199). -/
def indexDrain (s : State) (core n : Nat) : State :=
  let c := s.core core
  match indexFor c n with
  | none => s
  | some m =>
    let e := (positions (buf c n).gaps (c.port n).dp 1).1.headD 0
    let v := numInt (elValue c n e)
    let c1 := (takeEls c n 1).2
    s.setCore core (c1.setPort m { c1.port m with index := some v })

/-- STREAM_DRAIN_ITEM (R199, R207, R208, R216, R217, R230). -/
def execStreamDrainItem (s : State) : Out1 :=
  match findPort s (fun c => c.drainAt) drainReady with
  | none => .next s
  | some (core, n) =>
    let c := s.core core
    let s1 := s.setCore core { c with drainAt := n }
    if closeReady c n then .next (s1.setCore core (closePort (s1.core core) n))
    else if directDrains c n then .next (directDrain s1 core n)
    else if globDrains c n then .next (globDrain s1 core n)
    else if scaleDrains c n then .next (scaleDrain s1 core n)
    else .next (indexDrain s1 core n)

/-! ### The merge unit (R235, R236) -/

/-- A reply word (R22). -/
def replyWord (tag src kind val : Nat) : DWord := dw (tag * 2 ^ 48 + src * 2 ^ 44 + kind * 2 ^ 40 + val % 2 ^ 40)

/-- A reply fills the entry that its command reserved (R21, R22). -/
def putReply (c : Core) (tag src kind val : Nat) : Core :=
  if c.resv.contains tag then
    { c with resv := c.resv.erase tag,
             rpl := c.rpl ++ [replyWord tag src kind val] }
  else c

/-- The same for a command of EX, whose push is logged under the tag of the command's push (R464). -/
def putReplyAs (c : Core) (ptag : Option Nat) (tag src kind val : Nat) : Core :=
  if c.resv.contains tag then logAs (putReply c tag src kind val) ptag 10 0 [(replyWord tag src kind val).toNat] else c

/-- What head(K) finds: nothing yet, none, an element, or an order fault. -/
inductive Head where
  | wait | none | el (v : Int) | fault
deriving DecidableEq, Repr

/-- head(K) of R235. -/
def mergeHead (c : Core) (n : Nat) (strict : Bool) (prev : Option Int) : Head :=
  if 1 ≤ ready c n then
    let v := numInt (elValue c n ((positions (buf c n).gaps (c.port n).dp 1).1.headD 0))
    match prev with
    | some p => if v < p ∨ (strict ∧ v = p) then .fault else .el v
    | none => .el v
  else if fillOver c n then .none
  else .wait

/-- The enabled outputs of a merge. -/
def mergeOuts (m : Merge) : List Nat :=
  (if m.eok then [m.ok] else []) ++ (if m.eoa then [m.oa] else []) ++ (if m.eob then [m.ob] else [])

/-- The elements, or bytes of a raw buffer, that one output of the merge takes in a port. -/
def outUnits (c : Core) (n : Nat) : Nat := if fmtOf c n = 0 then 4 else 1

/-- Whether a port takes what a merge pushes: it is open for it, and its fill side has not ended (R202). -/
def mergeTakes (c : Core) (n : Nat) : Bool := decide ((c.port n).st ≠ .closed ∧ (c.port n).src = .merge) && !(c.port n).fork && !(c.port n).fend

/-- Whether every enabled output that takes pushes has room for one element. -/
def mergeRoom (c : Core) (m : Merge) : Bool := (mergeOuts m).all fun n => !mergeTakes c n || roomFor c n (outUnits c n)

/-- Pushes a uint32 to an output that takes it (R201, R202, R235), poisoned if it comes of poisoned keys (R465). -/
def pushU32 (c : Core) (n : Nat) (bad : Bool) (v : Nat) : Core :=
  let f := fmtOf c n
  if !mergeTakes c n then c
  else
    let c1 := if f = 0 then pushCodes c n ((leBytes 4 v).map BitVec.toNat)
      else
        let r := conv c (.fin false (v % 2 ^ 32) 1) (bankCodec f) (c.port n).rm (c.port n).sm
        pushCodes r.2 n [r.1.1]
    taintEls c1 bad n (c.port n).wr (c1.port n).wr

/-- Whether the head of a key port of a merge is poisoned. -/
def headBad (c : Core) (n : Nat) : Bool :=
  decide (1 ≤ ready c n) && (elPoison c n ((positions (buf c n).gaps (c.port n).dp 1).1.headD 0)).isSome

/-- out(k, pa, pb). -/
def mergeOut (c : Core) (m : Merge) (k : Int) (pa pb : Nat) : Core :=
  let bad := headBad c m.ka || headBad c m.kb
  let c1 := if m.eok then pushU32 c m.ok bad (k % 2 ^ 32).toNat else c
  let c2 := if m.eoa then pushU32 c1 m.oa bad pa else c1
  if m.eob then pushU32 c2 m.ob bad pb else c2

/-- The merge ends: the outputs' fill sides end and the reply is given (R236). -/
def mergeEnd (c : Core) (m : Merge) (kind val : Nat) : Core :=
  let c1 := ((mergeOuts m).filter (mergeTakes c)).foldl endFill c
  { putReply c1 m.tag 4 kind val with merge := none }

/-- What the merge unit does next, if it can do something (R235). -/
def mergeNext (c : Core) (id : Nat) (m : Merge) : Option Core :=
  let stop (n kind pos : Nat) : Core :=
    let c1 := c.setPort n { c.port n with st := .order }
    mergeEnd c1 m kind pos
  let takeA (c : Core) (m : Merge) (v : Int) : Core × Merge := ((takeEls c m.ka 1).2, { m with ia := m.ia + 1, prevA := some v })
  let takeB (c : Core) (m : Merge) (v : Int) : Core × Merge := ((takeEls c m.kb 1).2, { m with ib := m.ib + 1, prevB := some v })
  let go (out : Bool) (v : Int) (pa pb : Nat) (ta tb : Bool) : Option Core :=
    if out && !mergeRoom c m then none
    else
      let c1 := if out then mergeOut c m v pa pb else c
      let m1 := if out then { m with n := m.n + 1 } else m
      let r1 := if ta then takeA c1 m1 v else (c1, m1)
      let r2 := if tb then takeB r1.1 r1.2 v else r1
      some { r2.1 with merge := some (id, r2.2) }
  if !matched c id then none
  else
    match mergeHead c m.ka m.strict m.prevA with
    | .wait => none
    | .fault => some (stop m.ka 1 m.ia)
    | ha =>
      match mergeHead c m.kb m.strict m.prevB with
      | .wait => none
      | .fault => some (stop m.kb 2 m.ib)
      | hb =>
        match ha, hb with
        | .el a, .el b =>
          if a < b then go m.uni a m.ia 0xFFFFFFFF true false
          else if b < a then go m.uni b 0xFFFFFFFF m.ib false true
          else go true a m.ia m.ib true true
        | .el a, _ => if m.uni then go true a m.ia 0xFFFFFFFF true false else some (mergeEnd c m 0 m.n)
        | _, .el b => if m.uni then go true b 0xFFFFFFFF m.ib false true else some (mergeEnd c m 0 m.n)
        | _, _ => some (mergeEnd c m 0 m.n)

/-- What the merge unit of a core does next. -/
def mergeStepOf (c : Core) : Option Core :=
  match c.merge with
  | none => none
  | some (id, m) => mergeNext c id m

/-- MERGE_STEP (R235, R236). -/
def execMergeStep (s : State) : Out1 :=
  match mfind (fun _ c => (mergeStepOf c).isSome) s.cores with
  | none => .next s
  | some k =>
    match mergeStepOf (s.core k) with
    | none => .next s
    | some c => .next (s.setCore k c)

end Sys2Proof.Machine
end

