-- ==== Sys2Proof/Machine/Message.lean ====
section
/-! DEFINITION. Messages (R175, R176, R203 to R206) and the handler context (R160, R177 to R179). -/

namespace Sys2Proof.Machine

/-- The port that is an accepting message queue of a core (R203). -/
def queuePort (c : Core) (qn : Nat) : Option Nat :=
  mfind (fun _ p => decide (p.src = .msgq ∧ p.qn = qn ∧ p.st = .run) && !p.fork && !p.closing && !p.quiet) c.ports

/-- MSEND (R175, R176). -/
def execMsend (r : Ring) (rt ro : BitVec 5) (lines : BitVec 7) (he : Bool) (queue : BitVec 3) (hpc : BitVec 14)
    (s : State) : Out1 :=
  issue (.msend r rt ro lines he queue hpc) r .noDir (fun s =>
    let t := getR s rt.toNat
    let off := getR s ro.toNat
    let n := lines.toNat + 1
    if 383 < t.toNat then .trap 0x0A t 0
    else if off.toNat % 64 ≠ 0 then .trap 5 off 0
    else if 0x200000 < off.toNat + n * 64 then .trap 7 off 0
    else if s.me.wait = .msg then
      match s.me.ans with
      | some .refused => .trap 0x0A t 0
      | some _ => .ok (irrevMe s)
      | none => .wait s
    else atPublish s fun s =>
      let q : MsgReq := { ag := some s.cur, sport := none, qn := queue.toNat, lines := n, he := he, hpc := hpc.toNat,
                          src := agCore s.cur, ctx := (ctxOf s s.cur).1, gen := (ctxOf s s.cur).2, off := off.toNat, here := false }
      let s1 := s.setMe { s.me with wait := .msg, ans := none }
      .wait (s1.setCore t.toNat { s1.core t.toNat with msgs := (s1.core t.toNat).msgs ++ [q] })) s

/-- A sender learns that a request was accepted, with the free count, or refused (R203, R204). -/
def answerReq (s : State) (target : Nat) (q : MsgReq) (ok : Bool) (free : Nat) : State :=
  match q.ag, q.sport with
  | some ag, _ => s.setCtx ag { s.ctx ag with ans := some (if ok then .accepted else .refused) }
  | none, some (core, n) =>
    let c := s.core core
    let p := c.port n
    if ok then
      s.setCore core (c.setPort n { p with free := free, sending := p.sending.map fun x => (x.1, x.2.erase target) })
    else streamFault s core n 4 target 0 1 p.di
  | none, none => s

/-- The first request of a core that is about to arrive, or whose queue has left RUN: the requests before it, it, those
after it. -/
def splitReq (c : Core) : List MsgReq → Option (List MsgReq × MsgReq × List MsgReq)
  | [] => none
  | q :: t =>
    if !q.here || (queuePort c q.qn).isNone then some ([], q, t)
    else (splitReq c t).map fun x => (q :: x.1, x.2)

/-- MESSAGE_REQUEST (R203, R204): a request arrives, or is refused. -/
def execMessageRequest (s : State) : Out1 :=
  match mfind (fun _ c => (splitReq c c.msgs).isSome) s.cores with
  | none => .next s
  | some k =>
    let c := s.core k
    match splitReq c c.msgs with
    | none => .next s
    | some (a, q, b) =>
      if (queuePort c q.qn).isNone then .next (answerReq (s.setCore k { c with msgs := a ++ b }) k q false 0)
      else .next (s.setCore k { c with msgs := a ++ { q with here := true } :: b })

/-- What R204 does with a request for n lines at a queue port: none while it must wait. -/
def reserve (p : Port) (fmt n : Nat) : Option (Port × Nat) :=
  let u := epl fmt
  let l := bufLines p
  let k := p.tail % l
  let skip := if l < k + n then l - k else 0
  if p.head = p.tail ∧ skip ≠ 0 then
    some ({ p with head := p.tail + skip, tail := p.tail + skip + n, fw := (p.tail + skip) * u, wr := (p.tail + skip) * u,
                   gaps := p.gaps ++ [(p.tail * u, skip * u)] }, 0)
  else if p.head = p.tail ∨ skip + n ≤ l - (p.tail - p.head) then some ({ p with tail := p.tail + skip + n }, skip)
  else none

/-- Whether a request has arrived and finds room. -/
def placeable (c : Core) (q : MsgReq) : Bool :=
  match queuePort c q.qn with
  | some n => q.here && (reserve (c.port n) (fmtOf c n) q.lines).isSome
  | none => false

/-- The first request of a core that finds room, no earlier one waiting at its queue (R204). -/
def acceptable (c : Core) : Option Nat :=
  (List.range c.msgs.length).find? fun i =>
    match c.msgs[i]? with
    | some q => placeable c q && !((c.msgs.take i).any fun x => decide (x.qn = q.qn))
    | none => false

/-- MESSAGE_ACCEPT (R176, R204): lines are reserved and the sender told; an MSEND's payload is read from the sender's pad. -/
def execMessageAccept (s : State) : Out1 :=
  match mfind (fun _ c => (acceptable c).isSome) s.cores with
  | none => .next s
  | some k =>
    let c := s.core k
    match acceptable c with
    | none => .next s
    | some i =>
      match c.msgs[i]? with
      | none => .next s
      | some q =>
        match queuePort c q.qn with
        | none => .next s
        | some n =>
          match reserve (c.port n) (fmtOf c n) q.lines with
          | none => .next s
          | some (p, skip) =>
            let data := match q.ag with
              | some ag => ((s.core (agCore ag)).padN q.off (q.lines * 64), badPad (s.core (agCore ag)) q.off (q.lines * 64))
              | none => ([], [])
            let m : Msg := { first := p.tail - q.lines, skip := skip, lines := q.lines, he := q.he, hpc := q.hpc, src := q.src,
                             ctx := q.ctx, gen := q.gen, from_ := q.sport, data := data.1, pois := data.2 }
            let c1 := c.setPort n { p with msgs := p.msgs ++ [m] }
            let s1 := s.setCore k { c1 with msgs := c.msgs.take i ++ c.msgs.drop (i + 1) }
            .next (answerReq s1 k q true (bufLines p - (p.tail - p.head)))

/-- FW advances over the messages that are complete, the oldest first; `u` elements stand in a line (R204). -/
def showMsgs (u : Nat) (p : Port) : Port :=
  (p.msgs.takeWhile fun m => m.whole).foldl (fun p m =>
    let hi := (m.first + m.lines) * u
    if p.fw < hi then
      { p with fw := hi, wr := hi,
               gaps := if m.skip = 0 then p.gaps else p.gaps ++ [((m.first - m.skip) * u, m.skip * u)] }
    else p) p

/-- With DST hdl the freed messages leave in ring order, and what waits in the port (R231) is what is left (R205). -/
def popFreed (u : Nat) (p : Port) : Port :=
  let gone := p.msgs.takeWhile fun m => m.freed
  match gone.getLast? with
  | none => p
  | some m =>
    let h := m.first + m.lines
    { p with msgs := p.msgs.dropWhile fun m => m.freed, head := h, dp := h * u, rd := h * u }

/-- Replaces the first message of a port that passes a test. -/
def updMsg (t : Msg → Bool) (f : Msg → Msg) : List Msg → List Msg
  | [] => []
  | m :: r => if t m then f m :: r else m :: updMsg t f r

/-- The first message of a port whose payload is on its way and complete. -/
def arriving_ (p : Port) : Option Msg := p.msgs.find? fun m => !m.whole && decide (m.data ≠ [])

/-- MESSAGE_PAYLOAD_COMPLETE (R177, R204, R205). DESIGN CHOICE (log 63): a handler run belongs to the context of the message's sender, which R77 leaves
open. -/
def execMessagePayloadComplete (s : State) : Out1 :=
  match findPort s (fun _ => 0) (fun c n => (arriving_ (c.port n)).isSome) with
  | none => .next s
  | some (k, n) =>
    let c := s.core k
    let p := c.port n
    match arriving_ p with
    | none => .next s
    | some m =>
      let off := p.fbank * 8192 + m.first % bufLines p * 64
      let drop := decide (p.dst = .hdl) && !m.he
      let u := epl (fmtOf c n)
      let p1 := showMsgs u { p with msgs := updMsg (fun x => decide (x.first = m.first))
                                        (fun x => { x with whole := true, data := [], pois := [], freed := drop }) p.msgs }
      let p2 := if p.dst = .hdl then popFreed u { p1 with drop := if drop then min (p.drop + 1) 65535 else p.drop } else p1
      let c1 := (m.pois.foldl (fun c i => taintPad c true (off + i) 1) (c.putPad off m.data)).setPort n p2
      let h : HStart := { port := n, first := m.first, hpc := m.hpc, src := m.src, qn := p.qn, off := off, len := m.lines * 64,
                          ctx := m.ctx, gen := m.gen }
      .next (s.setCore k (if m.he then { c1 with hstart := c1.hstart ++ [h] } else c1))

/-! ### Remote streams (R206) -/

/-- The elements of the next message of a remote port: CH full lines, or what there is when the fill side has ended or a flush
is pending; 0 for none yet. -/
def remoteCount (c : Core) (n : Nat) : Nat :=
  let p := c.port n
  let f := fmtOf c n
  let full := ((p.remote.extractLsb' 35 3).toNat + 1) * epl f
  let av := elementsIn (buf c n).gaps p.dp (drainLimit c n)
  let forced := fillOver c n || (match p.flush with
    | some t => decide (p.dp < t)
    | none => false)
  if full ≤ av then full else if forced then av else 0

/-- The targets of a remote port (R206, R224). DESIGN CHOICE (log 64): a fork toward other cores, which can have no SREMOTE (R211), sends as its
REMOTE word of 0 says: to core 0, queue 0, one line a message. -/
def remoteTargets (core : Nat) (p : Port) : List Nat :=
  if p.remote.getLsbD 38 then
    ((List.range 8).filter fun i => p.remote.getLsbD (9 + i)).map fun i => clusterCore (devCluster core) i
  else [(p.remote.extractLsb' 0 9).toNat]

/-- Whether a remote port has a message to reserve or to send. -/
def remoteReady (c : Core) (n : Nat) : Bool :=
  let p := c.port n
  decide (p.dst = .remote) && drainOn c n &&
    (match p.sending with
     | none => decide (remoteCount c n ≠ 0)
     | some (_, l) => decide (l = []))

/-- The bytes of k elements as whole lines: the buffer's own, zeros past the last element (R206). -/
def remoteData (c : Core) (n : Nat) (es : List Nat) : List Byte :=
  let f := fmtOf c n
  let b := buf c n
  let lines := (es.length + epl f - 1) / epl f
  let raw := if isEmb f then (List.range lines).flatMap fun i => c.padN (lineOff b f (es.getD (i * epl f) 0)) 64
    else ungroup (elBits f) (es.map (elCode c n))
  (raw ++ List.replicate (lines * 64) 0#8).take (lines * 64)

/-- The places of the bytes of those lines that come of poisoned elements (R465). -/
def remotePois (c : Core) (n : Nat) (es : List Nat) : List Nat :=
  let f := fmtOf c n
  if c.poison = [] then []
  else (es.zipIdx 0).flatMap fun x =>
    if (elPoison c n x.1).isNone then []
    else
      let k := x.2 / epl f * 64
      if isEmb f then (List.range 64).map fun i => k + i
      else (List.range (max 1 (elBits f / 8))).map fun i => k + x.2 % epl f * elBits f / 8 + i

/-- A remote port asks its targets for room, or sends what they have accepted. -/
def remoteStep (s : State) (core n : Nat) : State :=
  let c := s.core core
  let p := c.port n
  let f := fmtOf c n
  match p.sending with
  | none =>
    let k := remoteCount c n
    let ts := remoteTargets core p
    let q : MsgReq := { ag := none, sport := some (core, n), qn := (p.remote.extractLsb' 17 3).toNat,
                        lines := (k + epl f - 1) / epl f, he := p.remote.getLsbD 20, hpc := (p.remote.extractLsb' 21 14).toNat,
                        src := core, ctx := p.octx, gen := p.ogen, off := 0, here := false }
    let s1 := s.setCore core (c.setPort n { p with sending := some (k, ts) })
    ts.foldl (fun s t => s.setCore t { s.core t with msgs := (s.core t).msgs ++ [q] }) s1
  | some (k, _) =>
    let r := takeEls c n k
    let data := remoteData c n r.1
    let bad := remotePois c n r.1
    let c1 := r.2.setPort n { r.2.port n with sending := none, di := p.di + 1 }
    let s1 := s.setCore core (irrevEv c1 (agEng p.owner).num)
    let mine (m : Msg) : Bool := decide (m.from_ = some (core, n) ∧ m.data = []) && !m.whole
    (remoteTargets core p).foldl (fun s t =>
      let d := s.core t
      match mfind (fun _ x => x.msgs.any mine) d.ports with
      | none => s
      | some j => s.setCore t (d.setPort j { d.port j with msgs := updMsg mine (fun m => { m with data := data, pois := bad }) (d.port j).msgs })) s1

/-- REMOTE_MESSAGE_SEND (R206). -/
def execRemoteMessageSend (s : State) : Out1 :=
  match findPort s (fun c => c.drainAt) remoteReady with
  | none => .next s
  | some (core, n) => .next (remoteStep (s.setCore core { s.core core with drainAt := n }) core n)

/-! ### The handler -/

/-- The message that started a handler run is freed (R205). -/
def freeRun (c : Core) (h : HStart) : Core :=
  let p := c.port h.port
  if p.src = .msgq ∧ p.dst = .hdl then
    c.setPort h.port (popFreed (epl (fmtOf c h.port)) { p with msgs := updMsg (fun m => decide (m.first = h.first)) (fun m => { m with freed := true }) p.msgs })
  else c

/-- HRET (R160). -/
def execHret (r : Ring) (s : State) : Out1 :=
  issue (.hret r) r .hdl (fun s => atPublish s fun s =>
    let c := s.myCore
    let c1 := match c.hrun with
      | some h => freeRun c h
      | none => c
    let s1 := s.setMyCore { c1 with hrun := none, rb := { c1.rb with handler := false } }
    .ok (s1.setMe { s1.me with run := .idle })) s

/-- A core whose handler is dormant and has a start request (R177), and copies no image (R36). -/
def toStart (s : State) : Option Nat :=
  mfind (fun k c => c.hrun.isNone && !copying s k && decide (c.hstart ≠ [] ∧ (s.ctx (k * 4 + 3)).run = .idle)) s.cores

/-- HANDLER_START (R177, R178). -/
def execHandlerStart (s : State) : Out1 :=
  match toStart s with
  | none => .next s
  | some k =>
    let c := s.core k
    match c.hstart with
    | [] => .next s
    | h :: t =>
      let ag := k * 4 + 3
      let x := ((((s.ctx ag).setReg 1 (dw h.src)).setReg 2 (dw h.qn)).setReg 3 (dw h.off)).setReg 4 (dw h.len)
      let y : Ctx := { x with run := .run, pc := h.hpc, gOn := false, gRem := 0 }
      let s1 := s.setCore k { c with hstart := t, hrun := some h, rb := { c.rb with handler := false }, hsave := y }
      .next (reload (s1.setCtx ag y) ag)

end Sys2Proof.Machine
end

