-- ==== Sys2Proof/Machine/Control.lean ====
section
/-! DEFINITION. Control transfers and guard windows (R122, R148, R149, R286), hardware loops (R150, R154), safe points, RDV and TRAP
(R156, R157, R159, R288), tokens, steer, replies and the scale queue (R170 to R174, R287), and EX's special registers (R256 to
R260). -/

namespace Sys2Proof.Machine

/-- The class of the form of an instruction: EX's, or that of the other engines. -/
def clsOf (x : Bool) (c : Cls) : Cls := if x then .ex else c

/-- B and XB (R148). -/
def branch (i : Instr) (r : Ring) (x : Bool) (q : BitVec 7) (n : Bool) (off : BitVec 14) (s : State) : Out1 :=
  issue i r (clsOf x .any) (fun s =>
    if s.me.pred q.toNat != n then .jump s (s.me.pc + off.toInt) else .ok s) s

/-- B (R148). -/
def execB (r : Ring) (q : BitVec 7) (n : Bool) (off : BitVec 14) (s : State) : Out1 :=
  branch (.b r q n off) r false q n off s

/-- XB (R286). -/
def execXb (r : Ring) (q : BitVec 7) (n : Bool) (off : BitVec 14) (s : State) : Out1 :=
  branch (.xb r q n off) r true q n off s

/-- J (R149). -/
def execJ (r : Ring) (target : BitVec 14) (s : State) : Out1 :=
  issue (.j r target) r .any (fun s => .jump s target.toNat) s

/-- JAL (R149). -/
def execJal (r : Ring) (rd : BitVec 5) (target : BitVec 14) (s : State) : Out1 :=
  issue (.jal r rd target) r .any (fun s => .jump (setR s rd.toNat (dw (s.me.pc + 1))) target.toNat) s

/-- JR (R149). -/
def execJr (r : Ring) (rs : BitVec 5) (s : State) : Out1 :=
  issue (.jr r rs) r .any (fun s => .jump s (getR s rs.toNat).toNat) s

/-- XJ (R286). -/
def execXj (r : Ring) (xa : BitVec 4) (s : State) : Out1 :=
  issue (.xj r xa) r .ex (fun s => .jump s (getR s xa.toNat).toNat) s

/-- What GUARD does (R122). -/
def openWindow (s : State) (q : BitVec 7) (n : Bool) (cnt : BitVec 3) : State :=
  s.setMe { s.me with gOn := s.me.pred q.toNat != n, gRem := cnt.toNat + 1 }

/-- GUARD (R122). -/
def execGuard (r : Ring) (q : BitVec 7) (n : Bool) (cnt : BitVec 3) (s : State) : Out1 :=
  issue (.guard r q n cnt) r .any (fun s => .ok (openWindow s q n cnt)) s

/-- GUARD in EX (R286). -/
def execGuardX (r : Ring) (q : BitVec 7) (n : Bool) (cnt : BitVec 3) (s : State) : Out1 :=
  issue (.guardX r q n cnt) r .ex (fun s => .ok (openWindow s q n cnt)) s

/-! ### Loops -/

/-- The Loop State trap (R150, R154). -/
def loopState (eval : DWord) : Res := .trap 9 eval 0

/-- LOOP of either instruction set (R150). -/
def startLoop (s : State) (l : BitVec 2) (n : DWord) (fin : Nat) : Res :=
  let c := s.me
  if c.levels.any (fun v => (v.act && decide (v.l = l.toNat)) || (v.sp.isSome && decide (l = 3#2))) then loopState (dw l.toNat)
  else if 2 ^ 32 ≤ n.toNat then loopState n
  else if c.levels.any (fun v => v.act && decide (v.fin < fin)) then loopState (dw fin)
  else if n = 0#64 then .goto s (fin + 1)
  else
    let v : Level := { l := l.toNat, start := c.pc + 1, fin := fin, act := true, sp := none, lo := c.pc + 1, hi := fin }
    .goto (s.setMe { c with lc := mput 0#32 c.lc l.toNat (n.setWidth 32), levels := v :: c.levels,
                             lspan := mset c.lspan l.toNat (v.start, v.fin) }) (c.pc + 1)

/-- LOOP (R150). -/
def execLoop (r : Ring) (l : BitVec 2) (rs : BitVec 5) (tgt : BitVec 14) (s : State) : Out1 :=
  issue (.loop r l rs tgt) r .any (fun s => startLoop s l (getR s rs.toNat) tgt.toNat) s

/-- LOOP in EX (R286). -/
def execLoopX (r : Ring) (l : BitVec 2) (xs : BitVec 4) (tgt : BitVec 14) (s : State) : Out1 :=
  issue (.loopX r l xs tgt) r .ex (fun s => startLoop s l (getR s xs.toNat) tgt.toNat) s

/-- The loop record of a number for an engine, in the image of the core (R153). -/
def loopRec (s : State) (rec : Nat) : Option LoopRec :=
  match imageOf s (agCore s.cur) with
  | none => none
  | some i => i.loops.find? fun x => decide (x.rec_ = rec ∧ x.eng = (agEng s.cur).num)

/-- The levels that a transfer to t from the issuing context leaves, with the counters of those it ends at zero (R152). -/
def transferLevels (c : Ctx) (t : Nat) : Ctx :=
  let k := leaveLevels c.pc t c.levels
  { c with levels := k.1, lc := k.2.foldl (fun m v => mput 0#32 m v.l 0#32) c.lc }

/-- LOOPSP of either instruction set (R154, R463). -/
def startSp (s : State) (rec : BitVec 6) : Res :=
  let c := s.me
  match loopRec s rec.toNat with
  | none => loopState (dw rec.toNat)
  | some x =>
    let n := if x.kind = 1 then getR s x.reg else dw x.trip
    if c.levels.any (fun v => v.sp.isSome || (v.act && decide (v.l = 3))) then loopState 3#64
    else if 2 ^ 32 ≤ n.toNat then loopState n
    else if n = 0#64 then .jump s (x.eend + 1)
    else
      let c1 := transferLevels c x.pro
      let v : Level := { l := 3, start := x.ker, fin := x.kend, act := true, sp := some rec.toNat, lo := x.pro, hi := x.eend }
      let s1 := s.setMe { c1 with lc := mput 0#32 c1.lc 3 (n.setWidth 32), levels := v :: c1.levels, pc := x.pro,
                                  lspan := mset c1.lspan 3 (x.ker, x.kend) }
      let k := s1.myCore
      let e := (agEng s1.cur).num
      .goto (s1.setMyCore { k with rb := { k.rb with acts := mset k.rb.acts e (mget 0 k.rb.acts e + 1) } }) x.pro

/-- LOOPSP (R154). -/
def execLoopsp (r : Ring) (rec : BitVec 6) (s : State) : Out1 :=
  issue (.loopsp r rec) r .ring (fun s => startSp s rec) s

/-- LOOPSP in EX (R286). -/
def execLoopspX (r : Ring) (rec : BitVec 6) (s : State) : Out1 :=
  issue (.loopspX r rec) r .ex (fun s => startSp s rec) s

/-! ### Work control -/

/-- SAFE (R156). -/
def execSafe (r : Ring) (s : State) : Out1 :=
  issue (.safe r) r .ring (fun s => .ok (safePoint s)) s

/-- SAFE in EX (R288). -/
def execSafeX (r : Ring) (s : State) : Out1 :=
  issue (.safeX r) r .ex (fun s => .ok (safePoint s)) s

/-- Whether the job of a core has had its last RDV (R34, R216). -/
def allRdv (s : State) (core : Nat) : Bool :=
  let q (e : Nat) := decide ((s.ctx (core * 4 + e)).run = .rdv ∨ (s.ctx (core * 4 + e)).run = .absent)
  q 0 && q 1 && q 2

/-- The residue that the end-of-job drain sets for a port (R216): STRRES. -/
def portResidue (c : Core) (n : Nat) : Bool :=
  let p := c.port n
  !p.closing && ((!p.fork && decide (p.src = .glob ∨ p.src = .dcmp ∨ p.src = .pad) && !p.fend)
    || (!isDirect p && !(!p.fork && decide (p.dst = .glob)) && decide (p.dst ≠ .remote) && decide (waiting c n ≠ 0)))

/-- The end-of-job drain of a core (R216): fill sides stop, glob and remote ports drain and then close, the others close. -/
def endOfJob (s : State) (core : Nat) : State :=
  let c := s.core core
  let res := c.ports.any fun x => portResidue c x.1
  let closeOne (c : Core) (n : Nat) : Core := if (c.port n).st = .closed then c else startClose true c n
  let c1 := (mkeys c.ports).foldl closeOne c
  let c2 := { c1 with strq := [], merge := none, secq := c1.secq.filter fun i => !(c.strq.any fun x => decide (x.1 = i)) }
  s.setCore core { c2 with job := c2.job.map fun j =>
    { j with drain := true, residue := if res ∧ j.residue / 16 % 2 = 0 then j.residue + 16 else j.residue } }

/-- An engine reaches RDV (R37, R157): it waits there; the last one starts the end-of-job drain. -/
def reachRdv (s : State) : State :=
  let core := agCore s.cur
  let s1 := s.setMe { s.me with run := .rdv, safeAt := s.cycle }
  let s2 := checkStopped s1 core
  if allRdv s2 core then endOfJob s2 core else s2

/-- RDV (R37, R157). -/
def execRdv (r : Ring) (s : State) : Out1 :=
  issue (.rdv r) r .ring (fun s => if s.myCore.strq ≠ [] then .wait s else atPublish s fun s => .ok (reachRdv s)) s

/-- RDV in EX, after the delivery check (R288, R292). -/
def execRdvX (r : Ring) (s : State) : Out1 :=
  issue (.rdvX r) r .ex (fun s => fpFirst s fun s => if s.myCore.strq ≠ [] then .wait s else .ok (reachRdv s)) s

/-- TRAP (R159). -/
def execTrap (r : Ring) (rs : BitVec 5) (s : State) : Out1 :=
  issue (.trap r rs) r .any (fun s => .trap 0x0C (getR s rs.toNat) 0) s

/-! ### Tokens, steer, replies, scale codes -/

/-- TKW (R170). -/
def execTkw (r : Ring) (succ : Bool) (cnt : BitVec 5) (s : State) : Out1 :=
  issue (.tkw r succ cnt) r .ring (fun s =>
    let e := agEng s.cur
    let q := if succ then (ringQ e).2.1 else (ringQ e).1
    let w := if (ringWaits e r).contains q then 1 else 0
    if s.myCore.toks q < cnt.toNat + w then .wait s
    else .ok (s.setMyCore (popTok s.myCore e.num q cnt.toNat))) s

/-- TKS (R170); like a ring signal it is a core-scope publish (R18). -/
def execTks (r : Ring) (succ : Bool) (cnt : BitVec 5) (s : State) : Out1 :=
  issue (.tks r succ cnt) r .ring (fun s =>
    let e := agEng s.cur
    let q := if succ then (ringQ e).2.2.2 else (ringQ e).2.2.1
    if 16 < s.myCore.toks q + cnt.toNat then .wait s
    else
      let s1 := publish s
      .ok (s1.setMyCore (pushTok s1.myCore e.num q cnt.toNat))) s

/-- STW (R171). -/
def execStw (r : Ring) (rd : BitVec 5) (s : State) : Out1 :=
  issue (.stw r rd) r .ring (fun s =>
    let c := s.myCore
    let la := decide (agEng s.cur = .la)
    match (if la then c.steerL else c.steerS) with
    | [] => .wait s
    | (pc, v) :: t =>
      let c1 := if la then { c with steerL := t } else { c with steerS := t }
      let c2 := logEv c1 (agEng s.cur).num 3 (if la then 0 else 1) [pc.toNat, v.toNat]
      .jump (setR (s.setMyCore c2) rd.toNat (v.setWidth 64)) pc.toNat) s

/-- The tag of a reply (R21). -/
def rplTag (v : DWord) : Nat := (v.extractLsb' 48 16).toNat

/-- POPRPL (R23, R172). -/
def execPoprpl (r : Ring) (rd : BitVec 5) (any : Bool) (tag : BitVec 16) (s : State) : Out1 :=
  issue (.poprpl r rd any tag) r .noDir (fun s =>
    let c := s.myCore
    let fits (t : Nat) := any || decide (t = tag.toNat)
    match c.rpl.find? fun v => fits (rplTag v) with
    | some v =>
      let c1 := logEv { c with rpl := c.rpl.erase v } (agEng s.cur).num 4 0 [v.toNat]
      let s1 := s.setMyCore c1
      .ok (setR (s1.setMe (unveil s1.me (rplTag v))) rd.toNat v)
    | none =>
      if c.resv.any fits then .wait s
      else .trap 0x0A (if any then 0x10000#64 else tag.setWidth 64) 0) s

/-- SQPUSH (R24, R173). -/
def execSqpush (r : Ring) (rs cnt : BitVec 5) (s : State) : Out1 :=
  issue (.sqpush r rs cnt) r .noDir (fun s =>
    let c := s.myCore
    match c.sqBind with
    | some n => .trap 0x0A (dw n) 0
    | none =>
      if 256 < c.scq.length + cnt.toNat then .wait s
      else
        let bs := toBytes cnt.toNat (getR s rs.toNat)
        .ok (s.setMyCore (logEv { c with scq := c.scq ++ bs } (agEng s.cur).num 5 0 (bs.map BitVec.toNat)))) s

/-- SQBIND (R174). -/
def execSqbind (r : Ring) (ub : Bool) (port : BitVec 5) (s : State) : Out1 :=
  issue (.sqbind r ub port) r .noDir (fun s =>
    let c := s.myCore
    let n := port.toNat
    if ub then .ok (s.setMyCore { c with sqBind := none })
    else if pendingOn c n then .wait s
    else if c.sqBind ≠ none ∨ !isOpen c n ∨ (c.port n).dst ≠ .scale then .trap 0x0A (dw n) 0
    else .ok (s.setMyCore { c with sqBind := some n })) s

/-- STEER (R287): the entry is pushed when the Second has matched it (R27). -/
def execSteer (r : Ring) (xa xb : BitVec 4) (stq : Bool) (s : State) : Out1 :=
  issue (.steer r xa xb stq) r .ex (fun s =>
    let c := s.myCore
    let n := (if stq then c.steerS else c.steerL).length + (c.steerP.filter fun x => decide (x.2.1 = stq)).length
    if 4 ≤ n then .wait s
    else
      let pc : BitVec 16 := (getR s xb.toNat).setWidth 16
      let v : BitVec 16 := (getR s xa.toNat).setWidth 16
      let i := newItem c
      let c1 := logEv { i.2 with steerP := i.2.steerP ++ [(i.1, stq, pc, v)] } 1 2 (if stq then 1 else 0) [pc.toNat, v.toNat]
      .ok (s.setMyCore c1)) s

/-! ### EX's special registers -/

/-- XGET (R260). -/
def execXget (r : Ring) (xd : BitVec 4) (sel : XSel) (s : State) : Out1 :=
  issue (.xget r xd sel) r .ex (fun s =>
    let c := s.myCore
    let v : DWord := match sel with
      | .vshape => dw (c.vrows.toNat * 64 + c.vcols.toNat)
      | .fmt8 => c.fmt8.setWidth 64
      | .fpctl => c.fpctl.setWidth 64
      | .fpacc => c.fpacc.setWidth 64
    .ok (setR s xd.toNat v)) s

/-- XSET (R257, R258, R260): a code of FMT8 that is no binary8 variant, and an RM of 5 to 7, are illegal. -/
def execXset (r : Ring) (xa : BitVec 4) (sel : XSel) (s : State) : Out1 :=
  issue (.xset r xa sel) r .ex (fun s =>
    let c := s.myCore
    let v := getR s xa.toNat
    match sel with
    | .vshape => .ok (s.setMyCore { c with vrows := v.extractLsb' 6 6, vcols := v.extractLsb' 0 6 })
    | .fmt8 =>
      if isB8Code (v.toNat % 256) then .ok (s.setMyCore { c with fmt8 := v.setWidth 8 })
      else .trap 1 (word1 (.xset r xa sel)) 0
    | .fpctl =>
      if 5 ≤ v.toNat % 8 then .trap 1 (word1 (.xset r xa sel)) 0
      else .ok (s.setMyCore { c with fpctl := v.setWidth 9 })
    | .fpacc => .ok (s.setMyCore { c with fpacc := v.setWidth 5 })) s

/-- VSHAPE (R256). -/
def execVshape (r : Ring) (rowsM1 colsM1 : BitVec 6) (s : State) : Out1 :=
  issue (.vshape r rowsM1 colsM1) r .ex (fun s => .ok (s.setMyCore { s.myCore with vrows := rowsM1, vcols := colsM1 })) s

end Sys2Proof.Machine
end

