-- ==== Sys2Proof/Machine/VecOps.lean ====
section
/-! DEFINITION. What the vector instructions of EX share (R261 to R266, R202, R51): tile registers, operands that name ports, the
checks and waits of an instruction, its pops, its results and its pushes. -/

namespace Sys2Proof.Machine

/-- ROWS (R256). -/
def Core.rows (c : Core) : Nat := c.vrows.toNat + 1

/-- COLS (R256). -/
def Core.cols (c : Core) : Nat := c.vcols.toNat + 1

/-- The number of elements of the shape (R261). -/
def Core.nel (c : Core) : Nat := c.rows * c.cols

/-- The code of element i, of a width in bits, of a tile register (R43, R261). -/
def tileEl (c : Core) (v bits i : Nat) : Nat :=
  if bits = 4 then (mget 0#8 c.tiles (v * 2048 + i / 2)).toNat / 2 ^ (4 * (i % 2)) % 16
  else leNat (mgetN 0#8 c.tiles (v * 2048 + i * (bits / 8)) (bits / 8))

/-- Writes the code of an element of a tile register. -/
def putTileEl (c : Core) (v bits i code : Nat) : Core :=
  if bits = 4 then
    let k := v * 2048 + i / 2
    let b := (mget 0#8 c.tiles k).toNat
    let x := if i % 2 = 0 then b / 16 * 16 + code % 16 else code % 16 * 16 + b % 16
    { c with tiles := mput 0#8 c.tiles k (BitVec.ofNat 8 x), tpois := cleanse c.tpois k 1 }
  else
    let k := v * 2048 + i * (bits / 8)
    { c with tiles := mputN 0#8 c.tiles k (leBytes (bits / 8) code), tpois := cleanse c.tpois k (bits / 8) }

/-- The unit that a trigger names if one of the first n elements of a tile register is poisoned (R465): the elements that a register
has in the format are all read, also those that a mask leaves out. -/
def tilePoison (c : Core) (v bits n : Nat) : Option Nat :=
  if c.tpois.any fun x => decide (v * 2048 ≤ x ∧ x < v * 2048 + (n * bits + 7) / 8) then some noUnit else none

/-- A source operand: its field (R115), the format it is read in, the number of its elements; `scale` for the codes of VDEQ
(R275). -/
structure VIn where
  f     : Nat
  fmt   : Fmt
  n     : Nat
  scale : Bool := false

/-- A destination operand: its field, the format of its elements, their number. -/
structure VDst where
  f   : Nat
  fmt : Fmt
  n   : Nat

/-- The units that k elements of a format take in a port's buffer (R194). -/
def portUnits (c : Core) (n : Nat) (f : Fmt) (k : Nat) : Nat := unitsOf (fmtOf c n) f.bits k

/-- The Stream State reason that a source port meets, if any (R202, R218). -/
def srcReason (c : Core) (n : Nat) : Option Nat :=
  if !isOpen c n then some 2 else if (c.port n).dst ≠ .ex then some 4 else none

/-- The reason that a destination port meets: closed, its fill side ended, no EX target. -/
def dstReason (c : Core) (n : Nat) : Option Nat :=
  if !isOpen c n then some 2
  else if (c.port n).fend then some 3
  else if (c.port n).fork ∨ (c.port n).src ≠ .ex then some 4 else none

/-- The first port among some operands with a reason, the reasons in the order of R218. -/
def firstReason (l : List (Nat × Option Nat)) : Option (Nat × Nat) :=
  ([2, 3, 4].flatMap fun r => (l.filter fun x => decide (x.2 = some r)).map fun x => (r, x.1)).head?

/-- The ports among operands, with their reasons. -/
def operandReasons (c : Core) (ins : List VIn) (outs : List VDst) : List (Nat × Option Nat) :=
  ((ins.filter fun x => decide (32 ≤ x.f)).map fun x => (x.f - 32, srcReason c (x.f - 32)))
    ++ (outs.filter fun x => decide (32 ≤ x.f)).map fun x => (x.f - 32, dstReason c (x.f - 32))

/-- Whether every element that the source operands take is available or their fill sides have ended (R202). -/
def srcsReady (c : Core) (ins : List VIn) : Bool :=
  ins.all fun x =>
    decide (x.f < 32)
      || fillOver c (x.f - 32)
      || decide ((((ins.filter fun y => decide (y.f = x.f)).map fun y => portUnits c (x.f - 32) y.fmt y.n).sum) ≤ ready c (x.f - 32))

/-- Whether the destination ports have empty lines for all that is pushed (R202). -/
def dstsRoom (c : Core) (outs : List VDst) : Bool :=
  outs.all fun x =>
    decide (x.f < 32)
      || roomFor c (x.f - 32) (((outs.filter fun y => decide (y.f = x.f)).map fun y => portUnits c (x.f - 32) y.fmt y.n).sum)

/-- Values of a list, extended with zeros or cut to n. -/
def fitTo (n : Nat) (l : List Nat) : List Nat := (l ++ List.replicate n 0).take n

/-- The code of one popped element in the operand's format (R51, R275), with flags and the draw, which a converted element makes
whatever its value (R54). -/
def popConv (c : Core) (n e : Nat) (f : Fmt) (scale : Bool) : (Nat × FpFlags) × Core :=
  let v := elValue c n e
  let out := match v with
    | .fin neg a b => decide ((neg ∧ a ≠ 0) ∨ 255 * b < a)
    | _ => true
  if codeFmt (fmtOf c n) = some f then ((elCode c n e, 0#5), c)
  else
    let r := conv c v f (buf c n).rm (buf c n).sm
    if scale && out then ((255, 0#5), r.2) else r

/-- Converts popped elements in order. -/
def popAll (c : Core) (n : Nat) (f : Fmt) (scale : Bool) : List Nat → List Nat × FpFlags × Core
  | [] => ([], 0#5, c)
  | e :: t =>
    let r := popConv c n e f scale
    let q := popAll r.2 n f scale t
    (r.1.1 :: q.1, r.1.2 ||| q.2.1, q.2.2)

/-- Reads a source operand: a tile register, or a pop from a port (R202, R262): its codes, and the core after the pop. -/
def readSrc (c : Core) (x : VIn) : List Nat × Core :=
  if x.f < 32 then ((List.range x.n).map (tileEl c x.f x.fmt.bits), c)
  else
    let n := x.f - 32
    let want := portUnits c n x.fmt x.n
    let k := min want (ready c n)
    let es := (positions (buf c n).gaps (c.port n).dp k).1
    let r := if fmtOf c n = 0 then (groupBytes x.fmt.bits (ungroup 8 (fitTo want (es.map (elCode c n)))), 0#5, c)
      else popAll c n x.fmt x.scale es
    let c1 := (takeEls r.2.2 n k).2
    let c2 := if k < want then c1.setPort n { c1.port n with short := true } else c1
    let c3 := if (c.port n).mauto = [] then irrevEv c2 1 else c2
    (fitTo x.n r.1, c3.addFlags r.2.1)

/-- Reads the source operands in field order. -/
def readSrcs (c : Core) : List VIn → List (List Nat) × Core
  | [] => ([], c)
  | x :: t =>
    let r := readSrc c x
    let q := readSrcs r.2 t
    (r.1 :: q.1, q.2)

/-- Writes the elements of a tile register that have a value. -/
def putTile (c : Core) (v bits : Nat) : Nat → List (Option Nat) → Core
  | _, [] => c
  | i, none :: t => putTile c v bits (i + 1) t
  | i, some x :: t => putTile (putTileEl c v bits i x) v bits (i + 1) t

/-- What a result's code becomes on its way to its destination, with the core after it. -/
abbrev Emit := Core → Nat → Nat × Core

/-- The encoding of a result at its destination (R51): none for a tile register, a raw port and a port of the same format; else
into the port's format under its RM and SM, with its flags and its draw. -/
def emitTo (x : VDst) : Emit := fun c v =>
  let n := x.f - 32
  let bf := fmtOf c n
  if x.f < 32 ∨ bf = 0 ∨ codeFmt bf = some x.fmt then (v, c)
  else
    let r := conv c (x.fmt.decode v) (bankCodec bf) (c.port n).rm (c.port n).sm
    (r.1.1, r.2.addFlags r.1.2)

/-- Encodes the results of a list in ascending index; an element without a value is no conversion and draws nothing (R54,
R263). -/
def emitAll (em : Emit) : Core → List (Option Nat) → List (Option Nat) × Core
  | c, [] => ([], c)
  | c, none :: t =>
    let q := emitAll em c t
    (none :: q.1, q.2)
  | c, some v :: t =>
    let r := em c v
    let q := emitAll em r.2 t
    (some r.1 :: q.1, q.2)

/-- Writes encoded results to a destination operand; an element without a value keeps a tile's old one and is the zero code in a
port (R262, R263). -/
def putDst (c : Core) (x : VDst) (vs : List (Option Nat)) : Core :=
  let l := vs.map fun v => v.getD 0
  if x.f < 32 then putTile c x.f x.fmt.bits 0 vs
  else pushCodes c (x.f - 32) (if fmtOf c (x.f - 32) = 0 then (ungroup x.fmt.bits l).map BitVec.toNat else l)

/-- Encodes and writes the results of a destination operand. -/
def writeDst (c : Core) (x : VDst) (vs : List (Option Nat)) : Core :=
  let r := emitAll (emitTo x) c vs
  putDst r.2 x r.1

/-- Writes the destination operands in order: the first one's results are encoded already, as they were computed (R290). -/
def writeDsts (c : Core) : List VDst → List (List (Option Nat)) → Core
  | x :: t, v :: u => (t.zip u).foldl (fun c y => writeDst c y.1 y.2) (putDst c x v)
  | _, _ => c

/-- The unit of what is poisoned among the tile registers that are read and the elements that are popped, if any (R465). -/
def popPoison (c : Core) (ins : List VIn) : Option Nat :=
  (ins.filterMap fun x =>
    if x.f < 32 then tilePoison c x.f x.fmt.bits x.n
    else ((positions (buf c (x.f - 32)).gaps (c.port (x.f - 32)).dp
      (min (portUnits c (x.f - 32) x.fmt x.n) (ready c (x.f - 32)))).1.filterMap (elPoison c (x.f - 32))).head?).head?

/-- What an instruction computes: from the encoding of its first destination, the state and the source codes, the results of each
destination, those of the first encoded as they come (R290), and the state. -/
abbrev VFun := Emit → State → List (List Nat) → List (List (Option Nat)) × State

/-- An instruction whose own results draw nothing: its first destination's results are encoded after them all. -/
def quiet (f : State → List (List Nat) → List (List (Option Nat)) × State) : VFun := fun em s a =>
  let r := f s a
  match r.1 with
  | [] => r
  | v :: t =>
    let q := emitAll em r.2.myCore v
    (q.1 :: t, r.2.setMyCore q.2)

/-- A computation on the core whose result is then encoded. -/
def emitAfter {α : Type} (em : Emit) (g : Core → α → Nat × Core) (c : Core) (x : α) : Nat × Core :=
  let r := g c x
  em r.2 r.1

/-- The wait for a port operand begins, for the stall sample (R484). -/
def beginStall (s : State) : State :=
  match s.me.stall with
  | none => s.setMe { s.me with stall := some s.cycle }
  | some _ => s

/-- The wait ends, with its sample. -/
def endStall (s : State) : State :=
  match s.me.stall with
  | none => s
  | some t => addSample (s.setMe { s.me with stall := none }) (coreDie (agCore s.cur)) 4 0 (agCore s.cur) ((s.cycle : Int) - t)

/-- Whether a queued Gambit command is still to push to a port, and so to end its fill side (R366). -/
def gamPushes (c : Core) (n : Nat) : Bool :=
  c.gam.queue.any fun q => match q with
    | .pred _ _ oa ou _ _ _ _ => decide (n = oa ∨ n = ou)
    | .chk _ _ o _ _ _ _ => decide (n = o)
    | _ => false

/-- A VECTOR INSTRUCTION: the size check and a further one (R261, R268), the state checks of its ports, its waits, its pops, its
results, its pushes. `bits` are the element widths that it uses. -/
def vexec (i : Instr) (r : Ring) (bits : Core → List Nat) (ok : Core → Bool) (ins : State → List VIn)
    (outs : State → List VDst) (f : VFun) (s : State) : Out1 :=
  issue i r .ex (fun s =>
    let c := s.myCore
    if (bits c).any (fun b => decide (16384 < c.nel * b)) || !ok c then .trap 1 (word1 i) 0
    else
      match firstReason (operandReasons (projected c) (ins s) (outs s)) with
      | some (reason, n) => .trap 0x11 (dw (reason * 256 + n)) 0
      | none =>
        let ports := ((ins s).map fun x => x.f) ++ (outs s).map fun x => x.f
        if ports.any (fun p => decide (32 ≤ p) && pendingOn c (p - 32))
            || (outs s).any (fun x => decide (32 ≤ x.f) && gamPushes c (x.f - 32)) then .wait s
        else if !srcsReady c (ins s) || !dstsRoom c (outs s) then .wait (beginStall s)
        else
          match popPoison c (ins s) with
          | some u => .poison u true
          | none =>
            let s0 := endStall s
            let rd := readSrcs s0.myCore (ins s)
            let em : Emit := match outs s with
              | [] => fun c v => (v, c)
              | x :: _ => emitTo x
            let res := f em (s0.setMyCore rd.2) rd.1
            .ok (res.2.setMyCore (writeDsts res.2.myCore (outs s) res.1))) s

/-- The rounding and saturation in force (R265): those of word 2, or those of FPCTL. -/
def rounding (c : Core) (o : RmOv) : Rm × Bool :=
  match o with
  | some x => x
  | none => (rmOf (c.fpctl.extractLsb' 0 3).toNat, c.fpctl.getLsbD 3)

/-- Whether a mask lets element i through (R263). -/
def maskOn (c : Core) (m : Mask) (i : Nat) : Bool :=
  match m with
  | none => true
  | some (k, _) => (mget 0#4096 c.masks k.toNat).getLsbD i

/-- What a masked-off element leaves in the destination. -/
def maskedOff (m : Mask) : Option Nat :=
  match m with
  | some (_, true) => some 0
  | _ => none

/-- A result of one element: its code and flags, and whether it draws under RSR. -/
abbrev ElFun := List Nat → Nat → Nat × FpFlags

/-- The elements of a result in ascending index (R54, R266, R290): each from its codes by `f` with its draw, then encoded by
`em`. -/
def elements (em : Emit) (c : Core) (m : Mask) (rm : Rm) (draws : Bool) (f : ElFun) :
    Nat → List (List Nat) → List (Option Nat) × Core
  | _, [] => ([], c)
  | i, a :: t =>
    if maskOn c m i then
      let d := if draws then drawFor rm c.lfsr else (0, c.lfsr)
      let r := f a d.1
      let e := em (({ c with lfsr := d.2 }).addFlags r.2) r.1
      let q := elements em e.2 m rm draws f (i + 1) t
      (some e.1 :: q.1, q.2)
    else
      let q := elements em c m rm draws f (i + 1) t
      (maskedOff m :: q.1, q.2)

/-- Transposes source lists into one list of codes for each element. -/
def zipAll : List (List Nat) → List (List Nat)
  | [] => []
  | [a] => a.map fun x => [x]
  | a :: t => List.zipWith (fun x l => x :: l) a (zipAll t)

/-- The signed or unsigned value of a code of an integer format. -/
def codeInt (w : Nat) (sg : Bool) (x : Nat) : Int := if sg ∧ 2 ^ (w - 1) ≤ x then (x : Int) - (2 ^ w : Nat) else x

/-- The code of an integer modulo 2^w (R264). -/
def intCode (w : Nat) (v : Int) : Nat := (v % ((2 ^ w : Nat) : Int)).toNat

/-- The code of an integer saturated to a format's range. -/
def satCode (w : Nat) (sg : Bool) (v : Int) : Nat :=
  let hi : Int := if sg then ((2 ^ (w - 1) : Nat) : Int) - 1 else ((2 ^ w : Nat) : Int) - 1
  let lo : Int := if sg then -((2 ^ (w - 1) : Nat) : Int) else 0
  intCode w (max lo (min hi v))

/-- A float result from an exact value with its flags (R265). -/
def floatRes (f : Fmt) (rm : Rm) (sm : Bool) (v : Num × FpFlags) (r : Nat) : Nat × FpFlags :=
  let c := convert v.1 f rm sm r
  (c.1, c.2 ||| v.2)

/-- The value of operand k of an element. -/
def opd (f : Fmt) (a : List Nat) (k : Nat) : Num := f.decode (a.getD k 0)

/-- The integer of operand k of an element. -/
def iopd (w : Nat) (sg : Bool) (a : List Nat) (k : Nat) : Int := codeInt w sg (a.getD k 0)

/-- The formats of the sources and the destination of an elementwise instruction of one type, and its run: `fi` for integers (from
the width and signedness), `ff` for floats (from whether the mode is RDN). -/
def elementwise (i : Instr) (r : Ring) (d : BitVec 6) (srcs : List (BitVec 6)) (t : ElemT) (m : Mask) (o : RmOv)
    (ok : Core → Bool) (fi : Nat → Bool → List Nat → Nat) (ff : Bool → Fmt → List Nat → Num × FpFlags) (s : State) : Out1 :=
  vexec i r (fun c => [(elemFmt t c.fmt8).bits]) ok
    (fun s => srcs.map fun x => { f := x.toNat, fmt := elemFmt t s.myCore.fmt8, n := s.myCore.nel })
    (fun s => [{ f := d.toNat, fmt := elemFmt t s.myCore.fmt8, n := s.myCore.nel }])
    (fun em s a =>
      let c := s.myCore
      let rd := rounding c o
      let f := elemFmt t c.fmt8
      let g : ElFun := match f with
        | .int w sg => fun x _ => (fi w sg x, 0#5)
        | _ => fun x k => floatRes f rd.1 rd.2 (ff (decide (rd.1 = .rdn)) f x) k
      let q := elements em c m rd.1 (!f.isInt) g 0 (zipAll a)
      ([q.1], s.setMyCore q.2)) s

/-- An elementwise instruction on codes, without conversion and without flags, of each element's format. -/
def bitwise (i : Instr) (r : Ring) (d : BitVec 6) (srcs : List (BitVec 6)) (t : ElemT) (ok : Core → Bool)
    (g : Fmt → List Nat → Nat) (s : State) : Out1 :=
  vexec i r (fun c => [(elemFmt t c.fmt8).bits]) ok
    (fun s => srcs.map fun x => { f := x.toNat, fmt := elemFmt t s.myCore.fmt8, n := s.myCore.nel })
    (fun s => [{ f := d.toNat, fmt := elemFmt t s.myCore.fmt8, n := s.myCore.nel }])
    (quiet fun s a => ([(zipAll a).map fun x => some (g (elemFmt t s.myCore.fmt8) x)], s)) s

/-- The check that always passes. -/
def noCheck (_ : Core) : Bool := true

end Sys2Proof.Machine
end

