-- ==== Sys2Proof/Machine/Vector.lean ====
section
/-! DEFINITION. The vector, mask and layout instructions of EX (R261 to R283). -/

namespace Sys2Proof.Machine

/-! ### Elementwise arithmetic (R264 to R267, R271, R272) -/

/-- VADD (R267). -/
def execVadd (r : Ring) (d a b : BitVec 6) (t : ElemT) (s : State) : Out1 :=
  elementwise (.vadd r d a b t) r d [a, b] t none none noCheck
    (fun w sg x => intCode w (iopd w sg x 0 + iopd w sg x 1))
    (fun dn f x => (opd f x 0).add dn (opd f x 1)) s

/-- VSUB (R267). -/
def execVsub (r : Ring) (d a b : BitVec 6) (t : ElemT) (s : State) : Out1 :=
  elementwise (.vsub r d a b t) r d [a, b] t none none noCheck
    (fun w sg x => intCode w (iopd w sg x 0 - iopd w sg x 1))
    (fun dn f x => (opd f x 0).add dn (opd f x 1).neg) s

/-- VMUL (R267). -/
def execVmul (r : Ring) (d a b : BitVec 6) (t : ElemT) (s : State) : Out1 :=
  elementwise (.vmul r d a b t) r d [a, b] t none none noCheck
    (fun w sg x => intCode w (iopd w sg x 0 * iopd w sg x 1))
    (fun _ f x => (opd f x 0).mul (opd f x 1)) s

/-- VMIN (R267). -/
def execVmin (r : Ring) (d a b : BitVec 6) (t : ElemT) (s : State) : Out1 :=
  elementwise (.vmin r d a b t) r d [a, b] t none none noCheck
    (fun w sg x => intCode w (min (iopd w sg x 0) (iopd w sg x 1)))
    (fun _ f x => ((opd f x 0).pickMin false (opd f x 1), 0#5)) s

/-- VMAX (R267). -/
def execVmax (r : Ring) (d a b : BitVec 6) (t : ElemT) (s : State) : Out1 :=
  elementwise (.vmax r d a b t) r d [a, b] t none none noCheck
    (fun w sg x => intCode w (max (iopd w sg x 0) (iopd w sg x 1)))
    (fun _ f x => ((opd f x 0).pickMin true (opd f x 1), 0#5)) s

/-- The absolute difference of two integers, limited to the range of a signed type (R267). -/
def absDiff (w : Nat) (sg : Bool) (x y : Int) : Nat := satCode w sg ((x - y).natAbs : Int)

/-- VABD (R267). -/
def execVabd (r : Ring) (d a b : BitVec 6) (t : ElemT) (s : State) : Out1 :=
  elementwise (.vabd r d a b t) r d [a, b] t none none noCheck
    (fun w sg x => absDiff w sg (iopd w sg x 0) (iopd w sg x 1))
    (fun dn f x => (((opd f x 0).add dn (opd f x 1).neg).1.abs, ((opd f x 0).add dn (opd f x 1).neg).2)) s

/-- VADDS (R267). -/
def execVadds (r : Ring) (d a b : BitVec 6) (t : ElemT) (s : State) : Out1 :=
  elementwise (.vadds r d a b t) r d [a, b] t none none noCheck
    (fun w sg x => satCode w sg (iopd w sg x 0 + iopd w sg x 1)) (fun _ _ _ => (.nan, 0#5)) s

/-- VSUBS (R267). -/
def execVsubs (r : Ring) (d a b : BitVec 6) (t : ElemT) (s : State) : Out1 :=
  elementwise (.vsubs r d a b t) r d [a, b] t none none noCheck
    (fun w sg x => satCode w sg (iopd w sg x 0 - iopd w sg x 1)) (fun _ _ _ => (.nan, 0#5)) s

/-- VMULH (R267). -/
def execVmulh (r : Ring) (d a b : BitVec 6) (t : ElemT) (s : State) : Out1 :=
  elementwise (.vmulh r d a b t) r d [a, b] t none none noCheck
    (fun w sg x => intCode w (iopd w sg x 0 * iopd w sg x 1 / ((2 ^ w : Nat) : Int))) (fun _ _ _ => (.nan, 0#5)) s

/-- The quotient of R141 at a width: toward zero, all ones for a zero divisor. -/
def elQuot (w : Nat) (x y : Int) : Nat := if y = 0 then 2 ^ w - 1 else intCode w (x.tdiv y)

/-- VDIV (R267). -/
def execVdiv (r : Ring) (d a b : BitVec 6) (t : ElemT) (s : State) : Out1 :=
  elementwise (.vdiv r d a b t) r d [a, b] t none none noCheck
    (fun w sg x => elQuot w (iopd w sg x 0) (iopd w sg x 1))
    (fun _ f x => (opd f x 0).div (opd f x 1)) s

/-- VAND (R267). -/
def execVand (r : Ring) (d a b : BitVec 6) (t : ElemT) (s : State) : Out1 :=
  bitwise (.vand r d a b t) r d [a, b] t noCheck (fun _ x => x.getD 0 0 &&& x.getD 1 0) s

/-- VOR (R267). -/
def execVor (r : Ring) (d a b : BitVec 6) (t : ElemT) (s : State) : Out1 :=
  bitwise (.vor r d a b t) r d [a, b] t noCheck (fun _ x => x.getD 0 0 ||| x.getD 1 0) s

/-- VXOR (R267). -/
def execVxor (r : Ring) (d a b : BitVec 6) (t : ElemT) (s : State) : Out1 :=
  bitwise (.vxor r d a b t) r d [a, b] t noCheck (fun _ x => x.getD 0 0 ^^^ x.getD 1 0) s

/-- VSHL (R267). -/
def execVshl (r : Ring) (d a b : BitVec 6) (t : ElemT) (s : State) : Out1 :=
  bitwise (.vshl r d a b t) r d [a, b] t noCheck
    (fun f x => x.getD 0 0 * 2 ^ (x.getD 1 0 % f.bits) % 2 ^ f.bits) s

/-- VSHR (R267). -/
def execVshr (r : Ring) (d a b : BitVec 6) (t : ElemT) (s : State) : Out1 :=
  bitwise (.vshr r d a b t) r d [a, b] t noCheck (fun f x => x.getD 0 0 / 2 ^ (x.getD 1 0 % f.bits)) s

/-- VSAR (R267): the top bit is copied. -/
def execVsar (r : Ring) (d a b : BitVec 6) (t : ElemT) (s : State) : Out1 :=
  bitwise (.vsar r d a b t) r d [a, b] t noCheck
    (fun f x => intCode f.bits (codeInt f.bits true (x.getD 0 0) / ((2 ^ (x.getD 1 0 % f.bits) : Nat) : Int))) s

/-- VFMA (R272). -/
def execVfma (r : Ring) (d a b : BitVec 6) (t : ElemT) (c : BitVec 6) (mk : Mask) (rmo : RmOv) (s : State) : Out1 :=
  elementwise (.vfma r d a b t c mk rmo) r d [a, b, c] t mk rmo noCheck
    (fun w sg x => intCode w (iopd w sg x 0 * iopd w sg x 1 + iopd w sg x 2))
    (fun dn f x => (opd f x 0).fma dn (opd f x 1) (opd f x 2)) s

/-- VFMS (R272). -/
def execVfms (r : Ring) (d a b : BitVec 6) (t : ElemT) (c : BitVec 6) (mk : Mask) (rmo : RmOv) (s : State) : Out1 :=
  elementwise (.vfms r d a b t c mk rmo) r d [a, b, c] t mk rmo noCheck
    (fun w sg x => intCode w (iopd w sg x 0 * iopd w sg x 1 - iopd w sg x 2))
    (fun dn f x => (opd f x 0).fma dn (opd f x 1) (opd f x 2).neg) s

/-! ### The unary group (R268 to R270) -/

/-- The code of the absolute value (R268). -/
def absCode (f : Fmt) (x : Nat) : Nat :=
  match f with
  | .int w sg => satCode w sg ((codeInt w sg x).natAbs : Int)
  | .fp p e => if (f.decode x).isNan then x else x % 2 ^ (p + e - 1)
  | .b8 _ sg _ => if sg ∧ 0x80 < x then x ^^^ 0x80 else x

/-- The code of the negation (R268). -/
def negCode (f : Fmt) (x : Nat) : Nat :=
  match f with
  | .int w sg => satCode w sg (-codeInt w sg x)
  | .fp p e => x ^^^ 2 ^ (p + e - 1)
  | .b8 _ _ _ => if x = 0 ∨ x = 0x80 then x else x ^^^ 0x80

/-- VABS (R268). -/
def execVabs (r : Ring) (d a : BitVec 6) (t : ElemT) (s : State) : Out1 :=
  bitwise (.vabs r d a t) r d [a] t noCheck (fun f x => absCode f (x.getD 0 0)) s

/-- Whether VNEG has a meaning for a type under FMT8: an unsigned binary8 variant is illegal (R268). -/
def negOk (t : ElemT) (c : Core) : Bool :=
  match elemFmt t c.fmt8 with
  | .b8 _ sg _ => sg
  | _ => true

/-- VNEG (R268). -/
def execVneg (r : Ring) (d a : BitVec 6) (t : ElemT) (s : State) : Out1 :=
  bitwise (.vneg r d a t) r d [a] t (negOk t) (fun f x => negCode f (x.getD 0 0)) s

/-- VNOT (R268). -/
def execVnot (r : Ring) (d a : BitVec 6) (t : ElemT) (s : State) : Out1 :=
  bitwise (.vnot r d a t) r d [a] t noCheck (fun f x => 2 ^ f.bits - 1 - x.getD 0 0) s

/-- VMOV (R268). -/
def execVmov (r : Ring) (d a : BitVec 6) (t : ElemT) (s : State) : Out1 :=
  bitwise (.vmov r d a t) r d [a] t noCheck (fun _ x => x.getD 0 0) s

/-- A special function over the elements (R269). -/
def special (i : Instr) (r : Ring) (d a : BitVec 6) (t : ElemT) (g : Num → Special) (s : State) : Out1 :=
  vexec i r (fun c => [(elemFmt t c.fmt8).bits]) noCheck
    (fun s => [{ f := a.toNat, fmt := elemFmt t s.myCore.fmt8, n := s.myCore.nel }])
    (fun s => [{ f := d.toNat, fmt := elemFmt t s.myCore.fmt8, n := s.myCore.nel }])
    (fun em s x =>
      let c := s.myCore
      let rd := rounding c none
      let f := elemFmt t c.fmt8
      let q := elements em c none rd.1 true (fun x k => specialResult (g (opd f x 0)) f rd.1 rd.2 k) 0 (zipAll x)
      ([q.1], s.setMyCore q.2)) s

/-- VSQRT (R270). -/
def execVsqrt (r : Ring) (d a : BitVec 6) (t : ElemT) (s : State) : Out1 := special (.vsqrt r d a t) r d a t fSqrt s

/-- VRCP (R270). -/
def execVrcp (r : Ring) (d a : BitVec 6) (t : ElemT) (s : State) : Out1 := special (.vrcp r d a t) r d a t fRcp s

/-- VRSQ (R270). -/
def execVrsq (r : Ring) (d a : BitVec 6) (t : ElemT) (s : State) : Out1 := special (.vrsq r d a t) r d a t fRsq s

/-- VEXP2 (R270). -/
def execVexp2 (r : Ring) (d a : BitVec 6) (t : ElemT) (s : State) : Out1 := special (.vexp2 r d a t) r d a t fExp2 s

/-- VLOG2 (R270). -/
def execVlog2 (r : Ring) (d a : BitVec 6) (t : ElemT) (s : State) : Out1 := special (.vlog2 r d a t) r d a t fLog2 s

/-- VTANH (R270). -/
def execVtanh (r : Ring) (d a : BitVec 6) (t : ElemT) (s : State) : Out1 := special (.vtanh r d a t) r d a t fTanh s

/-- VSIGM (R270). -/
def execVsigm (r : Ring) (d a : BitVec 6) (t : ElemT) (s : State) : Out1 := special (.vsigm r d a t) r d a t fSigm s

/-! ### Compare, masks, select (R281 to R283) -/

/-- A mask register. -/
def Core.mask (c : Core) (k : Nat) : BitVec 4096 := mget 0#4096 c.masks k

/-- Writes a mask register. -/
def Core.setMask (c : Core) (k : Nat) (v : BitVec 4096) : Core := { c with masks := mput 0#4096 c.masks k v }

/-- The mask whose bit i is the i-th value. -/
def maskOf : List Bool → Nat
  | [] => 0
  | b :: t => (if b then 1 else 0) + 2 * maskOf t

/-- A condition on two codes of a format (R281). -/
def condCode (f : Fmt) (c : Cond) (x y : Nat) : Bool :=
  match f with
  | .int w _ => condInt c (BitVec.ofNat w x) (BitVec.ofNat w y)
  | _ => condFloat c ((f.decode x).isNan || (f.decode y).isNan) ((f.decode x).cmp (f.decode y))

/-- VCMP.cond (R281). -/
def execVcmp (r : Ring) (a b : BitVec 6) (t : ElemT) (kd : BitVec 3) (cond : Cond) (s : State) : Out1 :=
  vexec (.vcmp r a b t kd cond) r (fun c => [(elemFmt t c.fmt8).bits]) noCheck
    (fun s => [a, b].map fun x => { f := x.toNat, fmt := elemFmt t s.myCore.fmt8, n := s.myCore.nel })
    (fun _ => [])
    (quiet fun s x =>
      let c := s.myCore
      let f := elemFmt t c.fmt8
      let m := maskOf ((zipAll x).map fun e => condCode f cond (e.getD 0 0) (e.getD 1 0))
      ([], s.setMyCore (c.setMask kd.toNat (BitVec.ofNat 4096 m)))) s

/-- A mask instruction that writes a mask register (R282). -/
def kop (i : Instr) (r : Ring) (kd : BitVec 3) (f : Core → BitVec 4096) (s : State) : Out1 :=
  issue i r .ex (fun s => .ok (s.setMyCore (s.myCore.setMask kd.toNat (f s.myCore)))) s

/-- KAND (R282). -/
def execKand (r : Ring) (kd ka kb : BitVec 3) (s : State) : Out1 :=
  kop (.kand r kd ka kb) r kd (fun c => c.mask ka.toNat &&& c.mask kb.toNat) s

/-- KOR (R282). -/
def execKor (r : Ring) (kd ka kb : BitVec 3) (s : State) : Out1 :=
  kop (.kor r kd ka kb) r kd (fun c => c.mask ka.toNat ||| c.mask kb.toNat) s

/-- KXOR (R282). -/
def execKxor (r : Ring) (kd ka kb : BitVec 3) (s : State) : Out1 :=
  kop (.kxor r kd ka kb) r kd (fun c => c.mask ka.toNat ^^^ c.mask kb.toNat) s

/-- KNOT (R282). -/
def execKnot (r : Ring) (kd ka : BitVec 3) (s : State) : Out1 :=
  kop (.knot r kd ka) r kd (fun c => ~~~(c.mask ka.toNat)) s

/-- The set bits of a mask below n, in ascending order. -/
def setBits (k : BitVec 4096) (n : Nat) : List Nat := (List.range n).filter fun i => k.getLsbD i

/-- KPOP (R282). -/
def execKpop (r : Ring) (xd : BitVec 4) (ka : BitVec 3) (s : State) : Out1 :=
  issue (.kpop r xd ka) r .ex (fun s =>
    .ok (setR s xd.toNat (BitVec.ofNat 64 (setBits (s.myCore.mask ka.toNat) s.myCore.nel).length))) s

/-- KFIRST (R282). -/
def execKfirst (r : Ring) (xd : BitVec 4) (ka : BitVec 3) (s : State) : Out1 :=
  issue (.kfirst r xd ka) r .ex (fun s =>
    .ok (setR s xd.toNat (BitVec.ofNat 64 ((setBits (s.myCore.mask ka.toNat) s.myCore.nel).headD s.myCore.nel)))) s

/-- VSEL (R283). -/
def execVsel (r : Ring) (d a b : BitVec 6) (t : ElemT) (k : BitVec 3) (s : State) : Out1 :=
  vexec (.vsel r d a b t k) r (fun c => [(elemFmt t c.fmt8).bits]) noCheck
    (fun s => [a, b].map fun x => { f := x.toNat, fmt := elemFmt t s.myCore.fmt8, n := s.myCore.nel })
    (fun s => [{ f := d.toNat, fmt := elemFmt t s.myCore.fmt8, n := s.myCore.nel }])
    (quiet fun s x =>
      let m := s.myCore.mask k.toNat
      ([(zipAll x).mapIdx fun i e => some (if m.getLsbD i then e.getD 0 0 else e.getD 1 0)], s)) s

/-- VMOVM (R283). -/
def execVmovm (r : Ring) (d a : BitVec 6) (t : ElemT) (k : BitVec 3) (kz : Bool) (s : State) : Out1 :=
  vexec (.vmovm r d a t k kz) r (fun c => [(elemFmt t c.fmt8).bits]) noCheck
    (fun s => [{ f := a.toNat, fmt := elemFmt t s.myCore.fmt8, n := s.myCore.nel }])
    (fun s => [{ f := d.toNat, fmt := elemFmt t s.myCore.fmt8, n := (setBits (s.myCore.mask k.toNat) s.myCore.nel).length }])
    (quiet fun s x =>
      let c := s.myCore
      let l := (setBits (c.mask k.toNat) c.nel).map fun i => some ((x.headD []).getD i 0)
      let z := if d.toNat < 32 ∧ kz then List.replicate (c.nel - l.length) (some 0) else []
      ([l ++ z], s)) s

/-! ### Conversion and scaling (R273 to R275) -/

/-- VCVT (R273). -/
def execVcvt (r : Ring) (d a : BitVec 6) (t : ElemT) (mk : Mask) (t2 : ElemT) (rmo : RmOv) (s : State) : Out1 :=
  vexec (.vcvt r d a t mk t2 rmo) r (fun c => [(elemFmt t c.fmt8).bits, (elemFmt t2 c.fmt8).bits]) noCheck
    (fun s => [{ f := a.toNat, fmt := elemFmt t2 s.myCore.fmt8, n := s.myCore.nel }])
    (fun s => [{ f := d.toNat, fmt := elemFmt t s.myCore.fmt8, n := s.myCore.nel }])
    (fun em s x =>
      let c := s.myCore
      let rd := rounding c rmo
      let f := elemFmt t c.fmt8
      let g := elemFmt t2 c.fmt8
      let q := elements em c mk rd.1 true (fun e k => convert (opd g e 0) f rd.1 rd.2 k) 0 (zipAll x)
      ([q.1], s.setMyCore q.2)) s

/-- floor(log2) of the largest finite value of a format (R274). -/
def emaxOf (f : Fmt) : Int :=
  match f.decode f.maxCode with
  | .fin _ n d => ilog2 n d
  | _ => 0

/-- The largest finite magnitude among values, as a rational; 0/1 for none. -/
def maxFinite : List Num → Nat × Nat
  | [] => (0, 1)
  | .fin _ n d :: t => if ratLt (maxFinite t).1 (maxFinite t).2 n d then (n, d) else maxFinite t
  | _ :: t => maxFinite t

/-- The scale code of a block (R274). -/
def scaleCode (f : Fmt) (l : List Num) : Nat :=
  let m := maxFinite l
  if m.1 = 0 then 127 else (max 0 (min 254 (ilog2 m.1 m.2 - emaxOf f + 127))).toNat

/-- The number of blocks of 32 among n elements (R274). -/
def nBlocks (n : Nat) : Nat := (n + 31) / 32

/-- The scale codes of the blocks of a list of values. -/
def scaleCodes (f : Fmt) (l : List Num) : List Nat :=
  (List.range (nBlocks l.length)).map fun j => scaleCode f ((l.drop (32 * j)).take 32)

/-- VQUANT (R274). -/
def execVquant (r : Ring) (d a : BitVec 6) (t : ElemT) (cc : BitVec 6) (t2 : ElemT) (rmo : RmOv) (s : State) : Out1 :=
  vexec (.vquant r d a t cc t2 rmo) r (fun c => [(elemFmt t c.fmt8).bits, (elemFmt t2 c.fmt8).bits]) noCheck
    (fun s => [{ f := a.toNat, fmt := elemFmt t2 s.myCore.fmt8, n := s.myCore.nel }])
    (fun s => [{ f := d.toNat, fmt := elemFmt t s.myCore.fmt8, n := s.myCore.nel },
      { f := cc.toNat, fmt := .int 8 false, n := nBlocks s.myCore.nel }])
    (fun em s x =>
      let c := s.myCore
      let rd := rounding c rmo
      let f := elemFmt t c.fmt8
      let codes := x.headD []
      let sc := scaleCodes f (codes.map (elemFmt t2 c.fmt8).decode)
      let q := elements em c none rd.1 true
        (fun e k => convert ((opd (elemFmt t2 c.fmt8) e 0).scale (127 - (e.getD 1 0 : Int))) f rd.1 rd.2 k) 0
        (codes.mapIdx fun i v => [v, sc.getD (i / 32) 127])
      ([q.1, sc.map some], s.setMyCore q.2)) s

/-- VDEQ (R275). -/
def execVdeq (r : Ring) (d a : BitVec 6) (t : ElemT) (cc : BitVec 6) (mk : Mask) (t2 : ElemT) (rmo : RmOv) (s : State) :
    Out1 :=
  vexec (.vdeq r d a t cc mk t2 rmo) r (fun c => [(elemFmt t c.fmt8).bits, (elemFmt t2 c.fmt8).bits]) noCheck
    (fun s => [{ f := a.toNat, fmt := elemFmt t2 s.myCore.fmt8, n := s.myCore.nel },
      { f := cc.toNat, fmt := .int 8 false, n := nBlocks s.myCore.nel, scale := true }])
    (fun s => [{ f := d.toNat, fmt := elemFmt t s.myCore.fmt8, n := s.myCore.nel }])
    (fun em s x =>
      let c := s.myCore
      let rd := rounding c rmo
      let f := elemFmt t c.fmt8
      let q := elements em c mk rd.1 true
        (fun e k =>
          if e.getD 1 0 = 255 then (f.nanCode, 0#5)
          else convert ((opd (elemFmt t2 c.fmt8) e 0).scale ((e.getD 1 0 : Int) - 127)) f rd.1 rd.2 k) 0
        ((x.headD []).mapIdx fun i v => [v, (x.getD 1 []).getD (i / 32) 127])
      ([q.1], s.setMyCore q.2)) s

/-! ### Reductions, scans, segments (R276 to R279) -/

/-- binary32. -/
def f32 : Fmt := .fp 24 8

/-- One conversion with its draw and its flags (R54, R265). -/
def roundTo (c : Core) (f : Fmt) (rm : Rm) (sm : Bool) (v : Num × FpFlags) : Nat × Core :=
  let d := drawFor rm c.lfsr
  let r := floatRes f rm sm v d.1
  (r.1, ({ c with lfsr := d.2 }).addFlags r.2)

/-- One addition in binary32 (R276). -/
def add32 (c : Core) (rm : Rm) (sm : Bool) (x y : Num) : Num × Core :=
  let r := roundTo c f32 rm sm (x.add (decide (rm = .rdn)) y)
  (f32.decode r.1, r.2)

/-- The pairwise tree (R276); the fuel bounds its depth. -/
def treeSum (rm : Rm) (sm : Bool) : Nat → Core → List Num → Num × Core
  | _, c, [] => (.fin false 0 1, c)
  | _, c, [x] => (x, c)
  | 0, c, _ => (.fin false 0 1, c)
  | n + 1, c, l =>
    let h := 2 ^ (l.length - 1).log2
    let a := treeSum rm sm n c (l.take h)
    let b := treeSum rm sm n a.2 (l.drop h)
    add32 b.2 rm sm a.1 b.1

/-- The running sum in binary32, left to right (R278, R279): every value of it. -/
def runSums (rm : Rm) (sm : Bool) : Core → Num → List Num → List Num × Core
  | c, _, [] => ([], c)
  | c, acc, x :: t =>
    let a := add32 c rm sm acc x
    let q := runSums rm sm a.2 a.1 t
    (a.1 :: q.1, q.2)

/-- The final conversion of a sum into T: none for a binary32 value but the canonical NaN (R276). -/
def finishSum (c : Core) (f : Fmt) (rm : Rm) (sm : Bool) (v : Num) : Nat × Core :=
  if f = f32 then ((convert v f .rne sm 0).1, c) else roundTo c f rm sm (v, 0#5)

/-- Runs an operation on the core over a list, in order. -/
def overList {α β : Type} (g : Core → α → β × Core) : Core → List α → List β × Core
  | c, [] => ([], c)
  | c, x :: t =>
    let r := g c x
    let q := overList g r.2 t
    (r.1 :: q.1, q.2)

/-- The rows of a list of n codes; k columns. -/
def rowsOf (rows cols : Nat) (l : List Nat) : List (List Nat) := (List.range rows).map fun r => (l.drop (r * cols)).take cols

/-- The columns. -/
def colsOf (rows cols : Nat) (l : List Nat) : List (List Nat) :=
  (List.range cols).map fun k => (List.range rows).map fun r => l.getD (r * cols + k) 0

/-- The type in which sums of an integer type are delivered (R276). -/
def sumFmt (f : Fmt) : Fmt :=
  match f with
  | .int _ sg => .int 32 sg
  | _ => f

/-- The sum of a group of codes by the tree, or exactly for integers. -/
def groupSum (f : Fmt) (rm : Rm) (sm : Bool) (c : Core) (l : List Nat) : Nat × Core :=
  match f with
  | .int w sg => (intCode 32 ((l.map (codeInt w sg)).sum), c)
  | _ =>
    let r := treeSum rm sm 13 c (l.map f.decode)
    finishSum r.2 f rm sm r.1

/-- The element widths of a sum: the type's and the widened one's (R261, R276). -/
def sumBits (t : ElemT) (c : Core) : List Nat := [(elemFmt t c.fmt8).bits, (sumFmt (elemFmt t c.fmt8)).bits]

/-- A reduction of groups of a tile's elements (R277). -/
def reduce (i : Instr) (r : Ring) (d a : BitVec 6) (t : ElemT) (bits : Core → List Nat) (out : Core → Fmt)
    (cnt : Core → Nat) (groups : Core → List Nat → List (List Nat)) (g : Fmt → Rm → Bool → Core → List Nat → Nat × Core)
    (s : State) : Out1 :=
  vexec i r bits noCheck
    (fun s => [{ f := a.toNat, fmt := elemFmt t s.myCore.fmt8, n := s.myCore.nel }])
    (fun s => [{ f := d.toNat, fmt := out s.myCore, n := cnt s.myCore }])
    (fun em s x =>
      let c := s.myCore
      let rd := rounding c none
      let q := overList (emitAfter em (g (elemFmt t c.fmt8) rd.1 rd.2)) c (groups c (x.headD []))
      ([q.1.map some], s.setMyCore q.2)) s

/-- VRSUMR (R277). -/
def execVrsumr (r : Ring) (d a : BitVec 6) (t : ElemT) (s : State) : Out1 :=
  reduce (.vrsumr r d a t) r d a t (sumBits t) (fun c => sumFmt (elemFmt t c.fmt8)) Core.rows
    (fun c => rowsOf c.rows c.cols) groupSum s

/-- VRSUMC (R277). -/
def execVrsumc (r : Ring) (d a : BitVec 6) (t : ElemT) (s : State) : Out1 :=
  reduce (.vrsumc r d a t) r d a t (sumBits t) (fun c => sumFmt (elemFmt t c.fmt8)) Core.cols
    (fun c => colsOf c.rows c.cols) groupSum s

/-- The larger or smaller of two codes of a format (R277). -/
def pickCode (mx : Bool) (f : Fmt) (x y : Nat) : Nat :=
  (convert ((f.decode x).pickMin mx (f.decode y)) f .rne true 0).1

/-- The running largest or smallest codes of a row. -/
def runPick (mx : Bool) (f : Fmt) : Nat → List Nat → List Nat
  | _, [] => []
  | m, x :: t => pickCode mx f m x :: runPick mx f (pickCode mx f m x) t

/-- The prefixes of a row by MAX or MIN. -/
def scanPick (mx : Bool) (f : Fmt) (l : List Nat) : List Nat := runPick mx f (l.headD 0) l

/-- VRMAX (R277). -/
def execVrmax (r : Ring) (d a : BitVec 6) (t : ElemT) (s : State) : Out1 :=
  reduce (.vrmax r d a t) r d a t (fun c => [(elemFmt t c.fmt8).bits]) (fun c => elemFmt t c.fmt8) Core.rows
    (fun c => rowsOf c.rows c.cols) (fun f _ _ c l => ((scanPick true f l).getLastD 0, c)) s

/-- VRMIN (R277). -/
def execVrmin (r : Ring) (d a : BitVec 6) (t : ElemT) (s : State) : Out1 :=
  reduce (.vrmin r d a t) r d a t (fun c => [(elemFmt t c.fmt8).bits]) (fun c => elemFmt t c.fmt8) Core.rows
    (fun c => rowsOf c.rows c.cols) (fun f _ _ c l => ((scanPick false f l).getLastD 0, c)) s

/-- The wrapping prefix sums of integer codes (R278). -/
def runInt (w : Nat) : Nat → List Nat → List Nat
  | _, [] => []
  | m, x :: t => (m + x) % 2 ^ w :: runInt w ((m + x) % 2 ^ w) t

/-- One output of a float prefix sum: the addition, but for the first column, and the conversion into T (R278). -/
def runFloat (em : Emit) (f : Fmt) (rm : Rm) (sm : Bool) : Core → Option Num → List Nat → List Nat × Core
  | c, _, [] => ([], c)
  | c, acc, x :: t =>
    let a := match acc with
      | none => (f.decode x, c)
      | some v => add32 c rm sm v (f.decode x)
    let o := finishSum a.2 f rm sm a.1
    let e := em o.2 o.1
    let q := runFloat em f rm sm e.2 (some a.1) t
    (e.1 :: q.1, q.2)

/-- The prefix sums of a row (R278). -/
def scanSum (em : Emit) (f : Fmt) (rm : Rm) (sm : Bool) (c : Core) (l : List Nat) : List Nat × Core :=
  match f with
  | .int w _ => overList em c (runInt w 0 l)
  | _ => runFloat em f rm sm c none l

/-- A scan of each row (R278). -/
def scan (i : Instr) (r : Ring) (d a : BitVec 6) (t : ElemT) (g : Emit → Fmt → Rm → Bool → Core → List Nat → List Nat × Core)
    (s : State) : Out1 :=
  vexec i r (fun c => [(elemFmt t c.fmt8).bits]) noCheck
    (fun s => [{ f := a.toNat, fmt := elemFmt t s.myCore.fmt8, n := s.myCore.nel }])
    (fun s => [{ f := d.toNat, fmt := elemFmt t s.myCore.fmt8, n := s.myCore.nel }])
    (fun em s x =>
      let c := s.myCore
      let rd := rounding c none
      let q := overList (g em (elemFmt t c.fmt8) rd.1 rd.2) c (rowsOf c.rows c.cols (x.headD []))
      ([q.1.flatten.map some], s.setMyCore q.2)) s

/-- VSCAN.SUM (R278). -/
def execVscanSum (r : Ring) (d a : BitVec 6) (t : ElemT) (s : State) : Out1 := scan (.vscanSum r d a t) r d a t scanSum s

/-- VSCAN.MAX (R278). -/
def execVscanMax (r : Ring) (d a : BitVec 6) (t : ElemT) (s : State) : Out1 :=
  scan (.vscanMax r d a t) r d a t (fun em f _ _ c l => overList em c (scanPick true f l)) s

/-- VSCAN.MIN (R278). -/
def execVscanMin (r : Ring) (d a : BitVec 6) (t : ElemT) (s : State) : Out1 :=
  scan (.vscanMin r d a t) r d a t (fun em f _ _ c l => overList em c (scanPick false f l)) s

/-- Cuts a sequence into segments at the heads of a mask; element 0 starts one (R279). -/
def segments (k : BitVec 4096) : Nat → List Nat → List (List Nat)
  | _, [] => []
  | i, x :: t =>
    let r := segments k (i + 1) t
    if k.getLsbD (i + 1) ∨ t = [] then [x] :: r
    else
      match r with
      | [] => [[x]]
      | g :: u => (x :: g) :: u

/-- The number of segments among n elements (R279). -/
def nSegs (k : BitVec 4096) (n : Nat) : Nat := 1 + ((setBits k n).filter fun i => decide (i ≠ 0)).length

/-- The sum of a segment, left to right (R279). -/
def segSum (f : Fmt) (rm : Rm) (sm : Bool) (c : Core) (l : List Nat) : Nat × Core :=
  match f with
  | .int w sg => (intCode 32 ((l.map (codeInt w sg)).sum), c)
  | _ =>
    let x := l.map f.decode
    let r := runSums rm sm c (x.headD (.fin false 0 1)) x.tail
    finishSum r.2 f rm sm (r.1.getLastD (x.headD (.fin false 0 1)))

/-- VSEGSUM (R279). -/
def execVsegsum (r : Ring) (d a : BitVec 6) (t : ElemT) (k : BitVec 3) (rmo : RmOv) (s : State) : Out1 :=
  vexec (.vsegsum r d a t k rmo) r (sumBits t) noCheck
    (fun s => [{ f := a.toNat, fmt := elemFmt t s.myCore.fmt8, n := s.myCore.nel }])
    (fun s => [{ f := d.toNat, fmt := sumFmt (elemFmt t s.myCore.fmt8), n := nSegs (s.myCore.mask k.toNat) s.myCore.nel }])
    (fun em s x =>
      let c := s.myCore
      let rd := rounding c rmo
      let q := overList (emitAfter em (segSum (elemFmt t c.fmt8) rd.1 rd.2)) c (segments (c.mask k.toNat) 0 (x.headD []))
      let z := if d.toNat < 32 then List.replicate (c.nel - q.1.length) (some 0) else []
      ([q.1.map some ++ z], s.setMyCore q.2)) s

/-! ### Layout (R280) -/

/-- A layout instruction: the result from the core's shape, the state and the codes of its source. -/
def layout (i : Instr) (r : Ring) (d : BitVec 6) (srcs : List (BitVec 6)) (t : ElemT)
    (g : State → List Nat → List (Option Nat)) (s : State) : Out1 :=
  vexec i r (fun c => [(elemFmt t c.fmt8).bits]) noCheck
    (fun s => srcs.map fun x => { f := x.toNat, fmt := elemFmt t s.myCore.fmt8, n := s.myCore.nel })
    (fun s => [{ f := d.toNat, fmt := elemFmt t s.myCore.fmt8, n := s.myCore.nel }])
    (quiet fun s x => ([g s (x.headD [])], s)) s

/-- The n elements of a shape, each from its row and column. -/
def byRowCol (c : Core) (g : Nat → Nat → Nat) : List (Option Nat) :=
  (List.range c.nel).map fun i => some (g (i / c.cols) (i % c.cols))

/-- VTRN (R280). -/
def execVtrn (r : Ring) (d a : BitVec 6) (t : ElemT) (s : State) : Out1 :=
  layout (.vtrn r d a t) r d [a] t (fun s l =>
    let c := s.myCore
    (List.range c.nel).map fun j => some (l.getD (j % c.rows * c.cols + j / c.rows) 0)) s

/-- VBCR (R280). -/
def execVbcr (r : Ring) (d a : BitVec 6) (xb : BitVec 4) (t : ElemT) (s : State) : Out1 :=
  layout (.vbcr r d a xb t) r d [a] t (fun s l =>
    let c := s.myCore
    byRowCol c fun _ k => l.getD ((getR s xb.toNat).toNat % c.rows * c.cols + k) 0) s

/-- VBCC (R280). -/
def execVbcc (r : Ring) (d a : BitVec 6) (xb : BitVec 4) (t : ElemT) (s : State) : Out1 :=
  layout (.vbcc r d a xb t) r d [a] t (fun s l =>
    let c := s.myCore
    byRowCol c fun q _ => l.getD (q * c.cols + (getR s xb.toNat).toNat % c.cols) 0) s

/-- VROT (R280). -/
def execVrot (r : Ring) (d a imm : BitVec 6) (t : ElemT) (s : State) : Out1 :=
  layout (.vrot r d a imm t) r d [a] t (fun s l =>
    let c := s.myCore
    byRowCol c fun q k => l.getD (q * c.cols + (k + imm.toNat) % c.cols) 0) s

/-- VSLIDE (R280). -/
def execVslide (r : Ring) (d a imm : BitVec 6) (t : ElemT) (s : State) : Out1 :=
  layout (.vslide r d a imm t) r d [a] t (fun s l =>
    (List.range s.myCore.nel).map fun i => some (l.getD (i + imm.toNat) 0)) s

/-- VIOTA (R280): a floating type converts under FPCTL. -/
def execViota (r : Ring) (d : BitVec 6) (t : ElemT) (s : State) : Out1 :=
  vexec (.viota r d t) r (fun c => [(elemFmt t c.fmt8).bits]) noCheck (fun _ => [])
    (fun s => [{ f := d.toNat, fmt := elemFmt t s.myCore.fmt8, n := s.myCore.nel }])
    (fun em s _ =>
      let c := s.myCore
      let rd := rounding c none
      match elemFmt t c.fmt8 with
      | .int w _ => quiet (fun s _ => ([(List.range c.nel).map fun i => some (i % 2 ^ w)], s)) em s []
      | f =>
        let q := elements em c none rd.1 true (fun e k => convert (.fin false (e.getD 0 0) 1) f rd.1 rd.2 k) 0
          ((List.range c.nel).map fun i => [i])
        ([q.1], s.setMyCore q.2)) s

/-- VSPLAT (R280). -/
def execVsplat (r : Ring) (d : BitVec 6) (xa : BitVec 4) (t : ElemT) (s : State) : Out1 :=
  layout (.vsplat r d xa t) r d [] t (fun s _ =>
    List.replicate s.myCore.nel (some ((getR s xa.toNat).toNat % 2 ^ (elemFmt t s.myCore.fmt8).bits))) s

/-- VEXT (R280). -/
def execVext (r : Ring) (xd : BitVec 4) (a : BitVec 6) (xb : BitVec 4) (t : ElemT) (s : State) : Out1 :=
  vexec (.vext r xd a xb t) r (fun c => [(elemFmt t c.fmt8).bits]) noCheck
    (fun s => [{ f := a.toNat, fmt := elemFmt t s.myCore.fmt8, n := s.myCore.nel }]) (fun _ => [])
    (quiet fun s x =>
      let c := s.myCore
      let v := (x.headD []).getD ((getR s xb.toNat).toNat % c.nel) 0
      let w := match elemFmt t c.fmt8 with
        | .int w true => BitVec.ofInt 64 (codeInt w true v)
        | _ => BitVec.ofNat 64 v
      ([], setR s xd.toNat w)) s

/-- VINS (R280). -/
def execVins (r : Ring) (d : BitVec 6) (xa xb : BitVec 4) (t : ElemT) (s : State) : Out1 :=
  layout (.vins r d xa xb t) r d [] t (fun s _ =>
    let c := s.myCore
    List.replicate ((getR s xb.toNat).toNat % c.nel) none
      ++ [some ((getR s xa.toNat).toNat % 2 ^ (elemFmt t c.fmt8).bits)]) s

end Sys2Proof.Machine
end

