-- ==== Sys2Proof/Machine/MxOps.lean ====
section
/-! DEFINITION. The arithmetic and the operands of the matrix engine: the exact accumulator (R58 to R61), the K-step (R295 to
R302), tile and row layouts (R303 to R311), and the records of MXSPILL (R326). -/

namespace Sys2Proof.Machine

/-! ### The accumulator -/

/-- A row of the engine. -/
def Mx.rowOf (m : Mx) (r : Nat) : Row := mget {} m.rows r

/-- Replaces a row. -/
def Mx.setRow (m : Mx) (r : Nat) (v : Row) : Mx := { m with rows := mput {} m.rows r v }

/-- A block of the B store. -/
def Mx.blkOf (m : Mx) (j : Nat) : Blk := mget {} m.blks j

/-- Replaces a block. -/
def Mx.setBlk (m : Mx) (j : Nat) (b : Blk) : Mx := { m with blks := mput {} m.blks j b }

/-- Removes the overflow entries of a block (R305). -/
def Mx.dropOver (m : Mx) (j : Nat) : Mx := { m with ovf := m.ovf.filter fun e => decide (e.2.1 / 64 ≠ j) }

/-- floor(num/den × 2^k) of a signed rational (R59). -/
def floorScale (neg : Bool) (num den : Nat) (k : Int) : Int :=
  if 0 ≤ k then sgn neg (num * 2 ^ k.toNat) / (den : Int) else sgn neg num / ((den * 2 ^ (-k).toNat : Nat) : Int)

/-- Whether a value lies outside [-2^127, 2^127). -/
def outOfWindow (q : Int) : Bool := decide (q < -(2 ^ 127) ∨ 2 ^ 127 ≤ q)

/-- An exact term applied to an accumulator (R59, R299): op 0 MAC, 1 ADA, 2 CSX, 3 CSN. -/
def applyTerm (op : Nat) (q : Int) (x : Acc) : Acc :=
  let v := x.v.toInt
  if op ≤ 1 then { x with v := BitVec.ofInt 128 (v + q), ao := x.ao || outOfWindow q || outOfWindow (v + q) }
  else if outOfWindow q then { x with ao := true }
  else { x with v := BitVec.ofInt 128 (if op = 2 then max v q else min v q) }

/-- The exact scaled term of a cell operation (R57, R59, R299). -/
def cellTerm (op : Nat) (a b : Num) : Num :=
  match op with
  | 0 => (a.mul b).1
  | 1 => (a.add false b.neg).1.abs
  | _ => (a.add false b).1

/-- combine (R59): one operand pair with its scale codes into an accumulator under an anchor. -/
def combine (anchor : Int) (op : Nat) (a b : Num) (ca cb : Nat) (x : Acc) : Acc :=
  if a.isNan || b.isNan || decide (ca = 255 ∨ cb = 255) then { x with an := true }
  else
    match cellTerm op (a.scale ((ca : Int) - 127)) (b.scale ((cb : Int) - 127)) with
    | .nan => { x with an := true }
    | .inf n => if n then { x with am := true } else { x with ap := true }
    | .fin n p q => applyTerm op (floorScale n p q anchor) x

/-- Writeback of an accumulator (R61): the code of the destination format. -/
def writeback (x : Acc) (anchor : Int) (f : Fmt) (rm : Rm) (sm : Bool) (r : Nat) : Nat :=
  if x.an || (x.ap && x.am) || x.ao then f.nanCode
  else if x.ap then (convert (.inf false) f rm sm r).1
  else if x.am then (convert (.inf true) f rm sm r).1
  else
    let v := x.v.toInt
    let q := scaled v.natAbs (-anchor)
    (convert (.fin (decide (v < 0)) q.1 q.2) f rm sm r).1

/-- The exponent of the smallest nonzero magnitude of a format (R60). -/
def loOf (f : Fmt) : Int := if f.isInt then 0 else f.emin - ((f.prec - 1 : Nat) : Int)

/-- The largest finite magnitude of a format (R60). -/
def largest (f : Fmt) : Nat × Nat :=
  match f with
  | .int w sg => (if sg then 2 ^ (w - 1) else 2 ^ w - 1, 1)
  | _ => maxMag f

/-- The default ANCHOR of a pair of formats (R60). -/
def defaultAnchor (a b : Fmt) : Int :=
  let l := loOf a + loOf b
  let w := scaled 1 (127 + l)
  if ratLt ((largest a).1 * (largest b).1) ((largest a).2 * (largest b).2) w.1 w.2 then -l else 64

/-! ### The K-step -/

/-- Inserts a term in ascending logical position (R300). -/
def insertTerm (t : Nat × Nat) : List (Nat × Nat) → List (Nat × Nat)
  | [] => [t]
  | x :: r => if t.1 < x.1 then t :: x :: r else x :: insertTerm t r

/-- The terms of a column of a block, by logical position and code (R298, R305). -/
def colTerms (m : Mx) (j cl : Nat) : List (Nat × Nat) :=
  let b := m.blkOf j
  match b.st with
  | .empty => []
  | .dense => (List.range b.k).map fun k => (k, (mget 0#8 b.cells (k * 64 + cl)).toNat)
  | .sparse =>
    let l := (b.pos.filter fun p => decide (p.1 % 64 = cl)).map fun p => (p.2, (mget 0#8 b.cells p.1).toNat)
    let o := (m.ovf.filter fun e => decide (e.2.1 = 64 * j + cl)).map fun e => (e.2.2, e.1.toNat)
    (l ++ o).foldr insertTerm []

/-- The B scale code of a column at a K block (R316). -/
def scaleOf (b : Blk) (cl kb : Nat) : Nat := (mget 127#8 b.scale (cl * 64 + kb)).toNat

/-- The cell operation of a K block (R298). -/
def opAt (m : Mx) (kb : Nat) : Nat := m.ops.toNat / 4 ^ (kb % m.opLen) % 4

/-- The format of a command's format field. -/
def mxFmt (code : Nat) : Fmt := (codeFmt code).getD (.int 8 true)

/-- The terms of one column combined into its accumulator; a is the A row, ca its scale codes. -/
def runCol (m : Mx) (j cl : Nat) (a : List Num) (ca : List Nat) (anchor : Int) (x : Acc) : Acc :=
  let b := m.blkOf j
  let f := mxFmt b.bf
  (colTerms m j cl).foldl (fun x t =>
    if t.1 < a.length then
      combine anchor (opAt m (t.1 / 32)) (a.getD t.1 .nan) (f.decode t.2) (ca.getD (t.1 / 32) 127) (scaleOf b cl (t.1 / 32)) x
    else x) x

/-- Whether a block is foreign to a context (R296). -/
def foreignBlk (b : Blk) (ctx : Nat) : Bool := decide (b.st ≠ .empty ∧ b.tag ≠ ctx)

/-- The K-step of a row (R298, R301, R329): the row after it. -/
def runRow (m : Mx) (ctx : Nat) (a : List Num) (ca : List Nat) (r : Row) : Row :=
  (List.range 8).foldl (fun r j =>
    let b := m.blkOf j
    if b.poison || foreignBlk b ctx then { r with poison := true }
    else if b.st = .empty then r
    else
      { r with acc := (List.range 64).foldl (fun t cl =>
          mput {} t (64 * j + cl) (runCol m j cl a ca r.ranch (mget {} t (64 * j + cl)))) r.acc }) r

/-! ### Rows and tiles -/

/-- The bytes of n elements of a width in bits, packed (R43). -/
def bytesFor (bits n : Nat) : Nat := (n * bits + 7) / 8

/-- The first n codes of a width in some bytes. -/
def codesOf (bits n : Nat) (bs : List Byte) : List Nat := (groupBytes bits bs).take n

/-- AB (R310), DB (R320): the bytes of a row in the pad, whole lines. -/
def rowPitch (bits n : Nat) : Nat := (bytesFor bits n + 63) / 64 * 64

/-- The pad bytes of a row of n codes. -/
def padCodes (c : Core) (off bits n : Nat) : List Nat := codesOf bits n (c.padN off (bytesFor bits n))

/-- The first pad offset of a range in a bank whose format is neither a code nor raw (R306). -/
def wrongBank (c : Core) (r : Nat × Nat) (code : Nat) : Option Nat :=
  ((List.range ((r.2 + 8191) / 8192 - r.1 / 8192)).map fun k => r.1 / 8192 + k).find? (fun b =>
    decide (c.bankFmt b ≠ 0 ∧ c.bankFmt b ≠ code)) |>.map fun b => max r.1 (b * 8192)

/-- The columns of a block among some places of a row; o is the block's first column. -/
def inBlk (o : Nat) (l : List Nat) : List Nat := (l.filter fun e => decide (o ≤ e ∧ e < o + 64)).map fun e => e - o

/-- The scale codes of a block from scale rows of a command: those other than 127, and the keys of the bad ones. -/
def scalesOf (o : Nat) (scales : List (List Nat × List Nat)) : Map Byte × List Nat :=
  ((List.range 64).flatMap fun cl => (scales.mapIdx fun b r => (cl * 64 + b, BitVec.ofNat 8 (r.1.getD (o + cl) 127))).filter
      fun p => decide (p.2 ≠ 127#8),
   (scales.mapIdx fun b r => (inBlk o r.2).map fun cl => 2 ^ 20 + cl * 64 + b).flatten)

/-- A dense block from the codes of its rows and its scale rows, each the N columns of the command with the places of the bad ones
(R316, R465); o is the block's first column in them. The cell rows at or above K stay. -/
def denseBlk (old : Blk) (ctx bf o : Nat) (rows scales : List (List Nat × List Nat)) : Blk :=
  let new := (rows.mapIdx fun k r => (List.range 64).filterMap fun cl =>
    if r.1.getD (o + cl) 0 = 0 then none else some (k * 64 + cl, BitVec.ofNat 8 (r.1.getD (o + cl) 0))).flatten
  let sc := scalesOf o scales
  { st := .dense, bf := bf, k := rows.length, d := 0, poison := false, tag := ctx
    cells := new ++ old.cells.filter fun p => decide (rows.length * 64 ≤ p.1)
    pos := []
    scale := sc.1
    ue := (rows.mapIdx fun k r => (inBlk o r.2).map fun cl => k * 64 + cl).flatten ++ sc.2
      ++ old.ue.filter fun k => decide (rows.length * 64 ≤ k ∧ k < 2 ^ 20) }

/-- A record of a sparse tile (R303): its group, its column in the command, its positions within the group and its codes, with the
places of the bad ones. -/
structure SpRec where
  g   : Nat
  c   : Nat
  pos : List Nat
  val : List Nat
  bad : List Nat := []

/-- A record that passes fills its column (R305): the cells of block j. -/
def fillSparse (d j : Nat) (b : Blk) (r : SpRec) : Blk :=
  if r.c / 64 ≠ j then b
  else
    ((r.pos.zip r.val).take d).zipIdx.foldl (fun b e =>
      let k := (r.g * d + e.2) * 64 + r.c % 64
      { b with cells := mput 0#8 b.cells k (BitVec.ofNat 8 e.1.2), pos := mset b.pos k (64 * r.g + e.1.1)
               ue := if r.bad.contains e.2 then b.ue ++ [k] else b.ue })
      { b with ue := b.ue ++ (r.bad.filter fun i => decide (d ≤ i)).map fun i =>
          2 ^ 22 + (64 * r.g + r.pos.getD i 0) * 64 + r.c % 64 }

/-- A sparse block from the records of a tile and its scale rows; POISON stays (R317, R329). -/
def sparseBlk (old : Blk) (ctx bf k d j : Nat) (recs : List SpRec) (scales : List (List Nat × List Nat)) : Blk :=
  let sc := scalesOf (64 * j) scales
  recs.foldl (fillSparse d j)
    { st := .sparse, bf := bf, k := k, d := d, tag := ctx, poison := old.poison, ue := sc.2, scale := sc.1 }

/-- The overflow entries of a record (R305). -/
def overOf (d : Nat) (r : SpRec) : List (Byte × Nat × Nat) :=
  ((r.pos.zip r.val).drop d).map fun e => (BitVec.ofNat 8 e.2, r.c, 64 * r.g + e.1)

/-- The check of a record's header (R304): the DETAIL of the first failure. -/
def recCheck (bm cnt g k d : Nat) (resv : List Byte) (ove : Bool) (have_ : Nat) : Option Nat :=
  let pos := (List.range 64).filter fun i => bm.testBit i
  if resv.any fun b => decide (b ≠ 0#8) then some 1
  else if pos.any fun i => decide (k ≤ 64 * g + i) then some 2
  else if pos.length ≠ cnt then some 3
  else if d < cnt ∧ !ove then some 4
  else if 4096 < have_ + (cnt - d) then some 5
  else none

/-! ### Spill records (R326) -/

/-- The flags of an accumulator as a spill record holds them. -/
def Acc.flags (x : Acc) : Nat := bit x.an + 2 * bit x.ap + 4 * bit x.am + 8 * bit x.ao

/-- A row as it is written away: poisoned if it holds an error (R465). -/
def Row.hurt (r : Row) : Row := { r with poison := r.poison || decide (r.ue ≠ []) }

/-- The record of a row. -/
def spillRec (r : Row) : List Byte :=
  ((List.range 512).flatMap fun c => leBytes 16 (mget {} r.acc c).v.toNat)
    ++ ((List.range 256).map fun i => BitVec.ofNat 8 ((mget {} r.acc (2 * i)).flags + 16 * (mget {} r.acc (2 * i + 1)).flags))
    ++ leInt 2 r.ranch ++ [BitVec.ofNat 8 (bit r.poison)] ++ List.replicate 253 0#8

/-- The record of a foreign row, and of a discarded MXSPILL (R326, R327). -/
def poisonRec : List Byte := List.replicate 8450 0#8 ++ [1#8] ++ List.replicate 253 0#8

/-- The row that a record gives, and whether the record is valid. -/
def fillRow (ctx : Nat) (rec_ : List Byte) : Row × Bool :=
  let ranch := recInt rec_ 8448 2
  let pz := (rec_.getD 8450 0#8).toNat
  if 1 < pz ∨ (rec_.drop 8451).any (fun b => decide (b ≠ 0#8)) ∨ ranch < -256 ∨ 255 < ranch then
    ({ poison := true, tag := ctx }, false)
  else
    ({ acc := (List.range 512).filterMap fun c =>
         let f := (rec_.getD (8192 + c / 2) 0#8).toNat / 16 ^ (c % 2) % 16
         let x : Acc := { v := BitVec.ofNat 128 (recNat rec_ (16 * c) 16), an := f.testBit 0, ap := f.testBit 1,
                          am := f.testBit 2, ao := f.testBit 3 }
         if x = {} then none else some (c, x)
       ranch := ranch, poison := decide (pz = 1), tag := ctx }, true)

end Sys2Proof.Machine
end

