-- ==== Sys2Proof/Machine/Report.lean ====
section
/-! DEFINITION. What the device reports: ECP datagrams and events (R410, R416), health events (R482), flag falls (R403), the
scoresheet and its journal (R480), and the Clock record (R400). -/

namespace Sys2Proof.Machine

/-! ### ECP datagrams -/

/-- The header of an ECP datagram (R410). -/
def ecpHeader (op flags status detail sess frag seq len sseq : Nat) : List Byte :=
  [0x45#8, 0x43#8, 0x50#8, 0x01#8] ++ leBytes 1 op ++ leBytes 1 flags ++ leBytes 1 status ++ leBytes 1 detail
    ++ leBytes 2 sess ++ leBytes 2 frag ++ leBytes 4 seq ++ leBytes 4 len ++ leBytes 4 0 ++ leBytes 8 sseq

/-- Whether a host port is protected by MACsec (R420). -/
def protectedPort (s : State) (port : Nat) : Bool := mget false s.record.prot port

/-- What the integrity check of a frame is computed over; the standards give its exact layout. -/
def frameText (f : Frame) : List Byte :=
  let num (n : Nat) : List Byte := leBytes 8 n
  let str (b : List Byte) : List Byte := num b.length ++ b
  str f.dst ++ str f.src ++ match f.pay with
    | .udp a b p q d => num 0 ++ str a ++ str b ++ num p ++ num q ++ str d
    | .echo a b r d => num 1 ++ str a ++ str b ++ num (bit r) ++ str d
    | .resolve a b r m => num 2 ++ str a ++ str b ++ num (bit r) ++ str m
    | .mka m => num 3 ++ num m.prio ++ num (bit m.able) ++ (match m.sak with
      | some (k, an, x) => str k ++ num an ++ num (bit x)
      | none => [])
    | .ptp m => num 4 ++ num m.type ++ num m.std ++ num m.seq ++ num (bit m.two) ++ leBytes 8 (BitVec.ofInt 64 m.ts).toNat
      ++ leBytes 8 (BitVec.ofInt 64 m.corr).toNat ++ num m.src ++ num m.req ++ m.rank.flatMap num ++ num m.ivl
    | .other d => num 5 ++ str d

/-- Whether a frame goes unprotected on a protected port (R420): MKA, and PTP when the record says so. -/
def exempt (s : State) (f : Frame) : Bool :=
  match f.pay with
  | .mka _ => true
  | .ptp _ => s.record.ptpOpen
  | _ => false

/-- Sends a frame. On a protected port it takes the next packet number of the secure channel; while the port has no key, it is not
sent (R420). -/
def sendFrame (s : State) (f : Frame) : State :=
  if !protectedPort s f.port || exempt s f then { s with out := s.out ++ [.frame { f with sec := none }] }
  else
    match s.macsec.find? fun p => decide (p.1 = f.port) with
    | none => s
    | some (_, k) =>
      let pn := k.txPn + 1
      if (if k.xpn then 2 ^ 64 else 2 ^ 32) ≤ pn then s
      else { s with macsec := mset s.macsec f.port { k with txPn := pn },
                    out := s.out ++ [.frame { f with sec := some { an := k.an, pn := pn, icv := Config.gcmIcv k.key pn (frameText f) } }] }

/-- Sends frames. -/
def sendAll (s : State) (fs : List Frame) : State := fs.foldl sendFrame s

/-- The MAC address of a host port (R409). -/
def macOf (s : State) (port : Nat) : List Byte := mget [] s.record.mac port

/-- The UDP datagram of the ECP port to a client (R409). -/
def toClient (s : State) (port : Nat) (c : Client) (data : List Byte) : Frame :=
  { port := port, dst := c.mac, src := macOf s port, pay := .udp c.own c.ip 38120 c.uport data }

/-- An ECP event to one session (R416): its count goes up by one. -/
def eventTo (op : Nat) (body : List Byte) (s : State) (n : Nat) : State :=
  let x : Sess := mget {} s.sess n
  let s1 := { s with sess := mset s.sess n { x with evs := x.evs + 1 } }
  sendFrame s1 (toClient s1 x.port x.src (ecpHeader op 2 0 0 n 0 (x.evs + 1) body.length 0 ++ body))

/-- An ECP event goes to every open session whose mask has a bit (R416). -/
def ecpEvent (s : State) (bitNo op : Nat) (body : List Byte) : State :=
  ((s.sess.filter fun p => p.2.mask.testBit bitNo).map fun p => p.1).foldl (eventTo op body) s

/-! ### Health -/

/-- A health event (R482): an event of each Director and ECP event 0x82. -/
def healthEvent (s : State) (kind core addr : Nat) (job : DWord) (count : Nat) : State :=
  let body := leBytes 1 kind ++ leBytes 1 0 ++ leBytes 2 core ++ leBytes 4 0 ++ leBytes 8 addr ++ leBytes 8 job.toNat
    ++ leBytes 8 count ++ leBytes 16 0
  ecpEvent (raiseEvent (raiseEvent s 0 9 core body) 1 9 core body) 2 0x82 body

/-- A frame or a request that is dropped is counted (R409, R410, R481). -/
def countDrop (s : State) : State := { s with health := { s.health with dropped := satInc s.health.dropped } }

/-! ### The scoresheet (R480) -/

/-- Writes a scoresheet entry and its journal copy. -/
def putScore (s : State) (e : Score) : State :=
  { s with score := mset s.score (e.sseq % 65536) e, journal := mset s.journal (e.sseq % 65536) e }

/-- Appends an entry: it takes the next sequence number and the acceptance time. -/
def addScore (s : State) (e : Score) : Nat × State :=
  (s.sseq, putScore { s with sseq := s.sseq + 1 } { e with sseq := s.sseq, tacc := s.time })

/-- An entry that the ring still holds. -/
def scoreOf (s : State) (n : Nat) : Option Score :=
  (s.score.find? fun p => decide (p.2.sseq = n)).map fun p => p.2

/-- Changes an entry that the ring still holds. -/
def updScore (s : State) (n : Nat) (f : Score → Score) : State :=
  match scoreOf s n with
  | none => s
  | some e => putScore s (f e)

/-- The 64 bytes of an entry. -/
def scoreBytes (e : Score) : List Byte :=
  leBytes 8 e.sseq ++ leBytes 8 e.tacc ++ leBytes 8 e.tdone ++ leBytes 2 e.sess ++ leBytes 1 e.origin ++ leBytes 1 e.op
    ++ leBytes 1 e.st ++ leBytes 1 e.status ++ leBytes 1 e.outcome ++ leBytes 1 0
    ++ (e.result ++ List.replicate 8 0#8).take 8 ++ (e.digest ++ List.replicate 24 0#8).take 24

/-- An entry of the device itself (R480): 1 warm reset, 2 adjournment, 3 resume. -/
def deviceScore (s : State) (op : Nat) : State :=
  (addScore s { sseq := 0, tacc := 0, tdone := s.time, origin := 3, op := op, st := 2 }).2

/-! ### The Clock record (R400) -/

/-- n bytes of a Clock record from byte k on. -/
def clkNat (r : BitVec 512) (k n : Nat) : Nat := r.toNat / 2 ^ (8 * k) % 2 ^ (8 * n)

/-- Replaces n bytes of a Clock record from byte k on. -/
def clkSet (r : BitVec 512) (k n v : Nat) : BitVec 512 :=
  BitVec.ofNat 512 (r.toNat - clkNat r k n * 2 ^ (8 * k) + v % 2 ^ (8 * n) * 2 ^ (8 * k))

/-- EN of a Clock entry. -/
def clkOn (r : BitVec 512) : Bool := r.getLsbD 299

/-- s_i, the start of instance i of a Clock entry, in ns. -/
def clkStart (r : BitVec 512) (i : Nat) : Nat := clkNat r 0 6 * 10 ^ 9 + clkNat r 6 4 + i * clkNat r 16 8

/-- A Clock entry. -/
def State.clk (s : State) (e : Nat) : Clk := mget {} s.clocks e

/-- Replaces a Clock entry. -/
def State.setClk (s : State) (e : Nat) (x : Clk) : State := { s with clocks := mset s.clocks e x }

/-- Adds n to a 32-bit counter of a Clock record. -/
def clkCount (r : BitVec 512) (k n : Nat) : BitVec 512 := clkSet r k 4 (min (clkNat r k 4 + n) (2 ^ 32 - 1))

/-- A flag fall (R403): its record to the Director of die 0 and to the subscribed sessions; the monitor source Clock jitter takes
0x7FFF_FFFF but for cause Late; LATE counts the record, MISSED the instances that did not fire. -/
def flagFall (s : State) (entry cause i at_ start missed : Nat) : State :=
  let x := s.clk entry
  let body := leBytes 6 entry ++ leBytes 1 0 ++ leBytes 1 (cause % 64) ++ leBytes 8 i ++ leBytes 8 at_ ++ leBytes 8 start
  let s1 := s.setClk entry { x with rec_ := clkCount (clkCount x.rec_ 56 1) 52 missed }
  let s2 := ecpEvent (raiseEvent s1 0 6 0xFFFF body) 1 0x81 body
  if cause = 1 then s2 else addSample s2 0 2 0 0 0x7FFFFFFF

end Sys2Proof.Machine
end

