-- ==== Sys2Proof/Machine/Nest.lean ====
section
/-! DEFINITION. Nests, tiles and the nest table (R374 to R384, R397, R398): tile numbers, launches, readiness, completion. -/

namespace Sys2Proof.Machine

/-! ### Tiles (R377, R382) -/

/-- The levels that multiply tiles, ORDER 0 first. -/
def Nest.spatial (n : Nest) : List NLevel :=
  (List.range 6).filterMap fun k => n.levels.find? fun l => decide (l.order = k ∧ l.kind ≠ 0)

/-- The number of tiles that some levels make. -/
def tilesOf (ls : List NLevel) : Nat := ls.foldl (fun a l => a * l.extent) 1

/-- The tile count N. -/
def Nest.tiles (n : Nest) : Nat := tilesOf n.spatial

/-- Whether the nest has a D level. -/
def Nest.hasD (n : Nest) : Bool := n.levels.any fun l => decide (l.kind = 2)

/-- The index of the level of each ORDER in tile t. -/
def Nest.index (n : Nest) (t : Nat) : Map Nat :=
  (n.spatial.foldr (fun l x => (x.1 / l.extent, mset x.2 l.order (x.1 % l.extent))) (t, [])).2

/-- The tiles of die w among those of a D level of extent E. -/
def dCount (E w : Nat) : Nat := (E + 1 - w) / 2

/-- The tiles that the walker of die w enumerates of a nest with a D level. -/
def Nest.dShare (n : Nest) (w : Nat) : Nat :=
  let outer := n.spatial.takeWhile fun l => decide (l.kind ≠ 2)
  match n.spatial.dropWhile fun l => decide (l.kind ≠ 2) with
  | [] => 0
  | d :: inner => tilesOf outer * dCount d.extent w * tilesOf inner

/-- Tile number k of the share of die w: every tile of a nest without a D level, else those whose D index is congruent to w. -/
def Nest.dieTile (n : Nest) (w k : Nat) : Nat :=
  match n.spatial.dropWhile fun l => decide (l.kind ≠ 2) with
  | [] => k
  | d :: inner =>
    let t := tilesOf inner
    let m := dCount d.extent w
    (k / t / m * d.extent + (2 * (k / t % m) + w)) * t + k % t

/-- The place of a tile among the tiles of its die. -/
def Nest.shareIdx (n : Nest) (t : Nat) : Nat :=
  match n.spatial.dropWhile fun l => decide (l.kind ≠ 2) with
  | [] => t
  | d :: inner =>
    let k := tilesOf inner
    let x := t / k % d.extent
    (t / k / d.extent * dCount d.extent (x % 2) + x / 2) * k + t % k

/-! ### Images and the nest table -/

/-- The image of an instance. -/
def instImage (s : State) (i : Inst) : Option Image :=
  s.images.find? fun x => decide (x.img = i.img ∧ x.reg = i.reg)

/-- The nest record of an instance. -/
def instNest (s : State) (i : Inst) : Option Nest := (instImage s i).bind fun x => x.nests[i.nest]?

/-- The number of the gang that a tile of an instance belongs to on its die (R387). -/
def gangNo (s : State) (nix tile : Nat) : Nat :=
  match instOf s nix with
  | some i => (match instNest s i with
    | some n => n.shareIdx tile / 8
    | none => 0)
  | none => 0

/-- Replaces an instance in the nest table. -/
def setInst (s : State) (i : Inst) : State := { s with insts := s.insts.map fun x => if x.nix = i.nix then i else x }

/-- Changes an instance of the nest table. -/
def updInst (s : State) (nix : Nat) (f : Inst → Inst) : State :=
  { s with insts := s.insts.map fun x => if x.nix = nix then f x else x }

/-- The next value of the NIX counter, and whether it wrapped: 0 is skipped (R380). -/
def nixNext (n : Nat) : Nat × Bool := if n + 1 = 2 ^ 32 then (1, true) else (n + 1, false)

/-- The first NIX from a counter value on that is not in the table, and the counter with its wrap after it (R380). -/
def freeNix (s : State) : Nat → Nat → Bool → Nat × Nat × Bool
  | 0, n, w => (n, (nixNext n).1, w || (nixNext n).2)
  | k + 1, n, w =>
    if (instOf s n).isSome then freeNix s k (nixNext n).1 (w || (nixNext n).2)
    else (n, (nixNext n).1, w || (nixNext n).2)

/-- The NIX that the next launch takes. -/
def nextNix (s : State) : Nat × Nat × Bool := freeNix s 1024 s.nixCtr s.nixWrap

/-- Whether the nest table is full (R380). -/
def tableFull (s : State) : Bool := decide (1024 ≤ s.insts.length)

/-- Whether a launch that takes a NIX may not name a dependence (R381). -/
def badDep (s : State) (nix d : Nat) : Bool :=
  decide (d = 0 ∨ d = nix) || (!s.nixWrap && decide (s.nixCtr ≤ d))

/-- The index of the first dependence that refuses a launch (R381). -/
def firstBadDep (s : State) (deps : List Nat) : Option Nat :=
  (List.range deps.length).find? fun k => badDep s (nextNix s).1 (deps.getD k 0)

/-! ### Readiness (R381, R382, R384) -/

/-- The tiles in a die's deques and on their way to them. -/
def dequeTiles (s : State) (die : Nat) : Nat :=
  (s.cores.filter fun p => decide (coreDie p.1 = die)).foldl (fun n p => p.2.deque.foldl (fun n e => n + e.count) n) 0
    + (s.die die).deals.foldl (fun n d => n + d.ents.length) 0

/-- The tiles of a die's ready lists. -/
def readyTiles (s : State) (die : Nat) : Nat :=
  (s.die die).items.foldl (fun n x =>
    match instOf s x.nix with
    | some i => if x.back = [] then n + ((if x.upto = 0 then mget 0 i.share die else x.upto) - x.next) else n + x.back.length
    | none => n) 0

/-- The die whose ready lists and deques hold fewer tiles; die 0 on a tie (R382). -/
def lighterDie (s : State) : Nat := if readyTiles s 1 + dequeTiles s 1 < readyTiles s 0 + dequeTiles s 0 then 1 else 0

/-- Puts an item into the ready lists of a die. -/
def addItem (s : State) (die : Nat) (x : Item) : State :=
  s.setDie die { s.die die with items := (s.die die).items ++ [x] }

/-- The tiles that each die enumerates. -/
def sharesOf (s : State) (i : Inst) (n : Nest) : Map Nat :=
  if n.hasD then [(0, n.dShare 0), (1, n.dShare 1)].filter fun p => decide (p.2 ≠ 0)
  else [(if i.die = 2 then lighterDie s else i.die, n.tiles)]

/-- An instance enters the ready lists (R381, R382). -/
def makeReady (s : State) (nix : Nat) : State :=
  match instOf s nix with
  | none => s
  | some i =>
    match instNest s i with
    | none => s
    | some n =>
      let sh := sharesOf s i n
      let s1 := setInst s { i with ready := true, c0 := s.cycle, readyAt := s.cycle, share := sh }
      sh.foldl (fun s p => addItem s p.1 { nix := nix, b := i.prio, c0 := s.cycle, next := 0, back := [], gang := n.gang,
                                           starved := false }) s1

/-- Whether every dependence of an instance has completed, and whether all succeeded. -/
def depsDone (s : State) (i : Inst) : Bool × Bool :=
  (i.deps.all fun d => match instOf s d with
    | some x => x.done
    | none => true,
   i.deps.all fun d => match instOf s d with
    | some x => decide (x.outcome = 0)
    | none => true)

/-- An instance whose dependences have all succeeded enters the ready lists. -/
def tryReady (s : State) (nix : Nat) : State :=
  match instOf s nix with
  | none => s
  | some i => if !i.ready && !i.done && (depsDone s i).1 && (depsDone s i).2 then makeReady s nix else s

/-- A launch is accepted (R379 to R381): it takes its NIX and its place in the nest table; a dependence that has left the table
counts as completed. -/
def launch (s : State) (i : Inst) : Nat × State :=
  let x := nextNix s
  let i1 := { i with nix := x.1, deps := i.deps.filter fun d => (instOf s d).isSome }
  let s1 := { s with nixCtr := x.2.1, nixWrap := x.2.2, insts := s.insts ++ [i1] }
  (x.1, tryReady s1 x.1)

/-- The instance that a launch makes of an image and its parameters (R379). -/
def newInst (s : State) (im : Image) (nest prio die : Nat) (arg : DWord) (deps : List Nat) (src : Nat) : Inst :=
  { nix := 0, img := im.img, reg := im.reg, nest := nest, ctx := im.ctx, gen := (s.ctxEnt im.ctx).gen,
    prio := if prio = 16 then (match im.nests[nest]? with
      | some n => n.prio
      | none => 0) else prio,
    die := die, arg := arg, deps := deps, src := src }

/-! ### Completion (R380, R398) -/

/-- Takes the completed instances out of the table that no instance in it names (R380). -/
def pruneInsts (l : List Inst) : List Inst := l.filter fun i => !i.done || l.any fun x => x.deps.contains i.nix

/-- Takes out what can leave, and what can leave then. -/
def pruneN : Nat → List Inst → List Inst
  | 0, l => l
  | n + 1, l => pruneN n (pruneInsts l)

/-- An instance completes (R398): its outcome is written, its dependents are released, ECP and the Director that asked are
told, and its NIX is freed. -/
def completeInst (s : State) (nix outcome : Nat) : State :=
  match instOf s nix with
  | none => s
  | some i =>
    if i.done then s
    else
      let s1 := setInst s { i with done := true, outcome := outcome }
      let s2 := if i.scored = 0 then s1 else
        updScore s1 i.scored fun e => { e with st := 2, tdone := s.time, outcome := outcome }
      let s3 := (s2.insts.map fun x => x.nix).foldl (fun s n =>
        match instOf s n with
        | some x => if x.deps.contains nix then tryReady s n else s
        | none => s) s2
      let s4 := ecpEvent s3 0 0x80 (leBytes 4 nix ++ leBytes 1 outcome ++ leBytes 3 0 ++ leBytes 8 i.scored)
      let s5 := match i.notify with
        | some d => raiseEvent s4 d 8 0xFFFF (leBytes 4 nix ++ leBytes 1 outcome)
        | none => s4
      { s5 with insts := pruneN s5.insts.length s5.insts }

/-- The sum of the values of a table. -/
def sumMap (m : Map Nat) : Nat := m.foldl (fun n p => n + p.2) 0

/-- The first instance that has completed: the dies' reports sum to the tiles enumerated, or a dependence of it has failed (R381,
R397). -/
def instDone (s : State) : Option (Nat × Nat) :=
  (s.insts.find? fun i => !i.done &&
      (if i.ready then decide (sumMap i.got = sumMap i.share)
       else (depsDone s i).1 && !(depsDone s i).2)).map fun i => (i.nix, if i.ready then i.outcome else 3)

/-- INSTANCE_COMPLETE (R381, R397, R398). -/
def execInstanceComplete (s : State) : Out1 :=
  match instDone s with
  | none => .next s
  | some (nix, o) => .next (completeInst s nix o)

/-! ### The completion tree (R397) -/

/-- OUT of an instance in a cluster of the device: its tiles in the cluster's deques or on its cores. -/
def clusterOut (s : State) (k nix : Nat) : Nat :=
  (List.range 8).foldl (fun n p =>
    let c := s.core (clusterCore k p)
    let q := (c.deque.filter fun e => decide (e.nix = nix)).foldl (fun n e => n + e.count) 0
    let r := match c.job with
      | some j => if j.nix = nix then 1 else 0
      | none => 0
    let w := match c.next with
      | some (e, _) => if e.nix = nix then 1 else 0
      | none => 0
    n + q + r + w) 0

/-- A tile counts as completed in its cluster, with a failure if there was one; a cluster of a die that enumerated no tile of the
instance, to which a Director has moved the job, reports at once. -/
def countTile (s : State) (core nix : Nat) (failed : Bool) : State :=
  updInst s nix fun i =>
    let k := devCluster core
    let c : ClCount := mget {} i.cl k
    { i with cl := mset i.cl k { c with done := c.done + 1, closed := c.closed || decide (mget 0 i.share (k / 24) = 0) }, outcome := if failed ∧ i.outcome = 0 then 1 else i.outcome }

/-- The walker of a die has dealt the last unit of an instance: every cluster of the die is closed. -/
def closeDie (s : State) (die nix : Nat) : State :=
  updInst s nix fun i =>
    { i with cl := (List.range 24).foldl (fun m k =>
        mset m (die * 24 + k) { mget ({} : ClCount) m (die * 24 + k) with closed := true }) i.cl }

/-- The first instance and closed cluster that has completions to report. -/
def toReport (s : State) : Option (Nat × Nat) :=
  s.insts.findSome? fun i =>
    if i.done then none
    else (mfind (fun k c => c.closed && decide (c.done ≠ 0 ∧ clusterOut s k i.nix = 0)) i.cl).map fun k => (i.nix, k)

/-- CLUSTER_REPORT (R397): a closed cluster with OUT 0 reports its count to its die. -/
def execClusterReport (s : State) : Out1 :=
  match toReport s with
  | none => .next s
  | some (nix, k) =>
    .next (updInst s nix fun i =>
      let c : ClCount := mget {} i.cl k
      { i with cl := mset i.cl k { c with done := 0 }, got := mset i.got (k / 24) (mget 0 i.got (k / 24) + c.done) })

end Sys2Proof.Machine
end

