-- ==== Sys2Proof/Machine/Walker.lean ====
section
/-! DEFINITION. The walker (R384 to R397): selection, dealing, deposits, popping and stealing, pre-emption marks; SPAWN; a core's
image (R36); the start and the end of a job (R32 to R34). -/

namespace Sys2Proof.Machine

/-! ### Priority (R384) -/

/-- The effective priority on a die. -/
def effPrio (s : State) (die b c0 : Nat) : Nat := min 15 (b + (s.cycle - c0) / (s.die die).ageQ)

/-- Whether an item is starving on a die. -/
def isStarving (s : State) (die b c0 : Nat) : Bool := decide ((16 - b) * (s.die die).ageQ ≤ s.cycle - c0)

/-! ### Selection and dealing (R385 to R387) -/

/-- Whether cores of a die may take work now. -/
def walkerOn (s : State) (die : Nat) : Bool :=
  decide (s.phase = .run) && (List.range 192).any fun k => (s.core (die * 192 + k)).online

/-- Whether item y comes before item x. -/
def itemBefore (s : State) (die : Nat) (y x : Nat × Item) : Bool :=
  let sy := isStarving s die y.2.b y.2.c0
  let sx := isStarving s die x.2.b x.2.c0
  let ey := effPrio s die y.2.b y.2.c0
  let ex := effPrio s die x.2.b x.2.c0
  if sy ∨ sx then sy && (!sx || decide (y.2.c0 < x.2.c0))
  else decide (ex < ey ∨ (ex = ey ∧ y.2.c0 < x.2.c0))

/-- Whether a returned gang still waits for a marked job of its own to be saved (R395). -/
def gangWaits (s : State) (die : Nat) (x : Item) : Bool :=
  x.gang && decide (x.back ≠ []) && s.cores.any fun (k, c) =>
    match c.job with
    | some j => decide (coreDie k = die ∧ j.nix = x.nix ∧ j.mark ≠ none ∧ gangNo s j.nix j.tile + 1 = x.next) && j.gang
    | none => false

/-- The item that the walker of a die selects, with its place (R385). -/
def selected (s : State) (die : Nat) : Option (Nat × Item) :=
  bestOf (itemBefore s die) (((List.range (s.die die).items.length).zip (s.die die).items).filter fun x => !gangWaits s die x.2)

/-- Whether a core's deque has a free entry for one more tile, those on their way counted (R386, R388). -/
def dequeRoom (s : State) (core : Nat) : Bool :=
  let way := (s.die (coreDie core)).deals.foldl (fun n d => n + (d.ents.filter fun e => decide (e.1 = core)).length) 0
  (s.core core).online && decide ((s.core core).deque.length + way < 16)

/-- The next core with room (R386). -/
def nextCore (s : State) (die : Nat) : Option Nat :=
  let start := match (s.die die).lastCore with
    | some c => c + 1
    | none => 0
  ((List.range 192).map fun k => die * 192 + (start + k) % 192).find? fun c => dequeRoom s c

/-- Whether a device cluster holds a gang entry, queued, held, running or on its way. -/
def gangHere (s : State) (k : Nat) : Bool :=
  (List.range 8).any fun p =>
    let n := clusterCore k p
    let c := s.core n
    c.deque.any (fun e => e.gang)
      || (match c.job with
          | some j => j.gang
          | none => false)
      || (match c.next with
          | some (e, _) => e.gang
          | none => false)
      || (s.die (coreDie n)).deals.any fun d => d.ents.any fun e => decide (e.1 = n) && e.2.gang

/-- The next cluster of a die that takes a gang at some positions; one with an offline core takes none (R387, R472). -/
def nextCluster (s : State) (die : Nat) (ps : List Nat) : Option Nat :=
  let start := match (s.die die).lastCluster with
    | some c => c + 1
    | none => 0
  ((List.range 24).map fun k => (start + k) % 24).find? fun c =>
    let k := die * 24 + c
    !gangHere s k && (List.range 8).all (fun p => (s.core (clusterCore k p)).online)
      && ps.all fun p => dequeRoom s (clusterCore k p)

/-- The unit of an item: the position, tile and save area (plus 1) of each tile, and what is left of the item. -/
def itemUnit (s : State) (die : Nat) (x : Item) : List (Nat × Nat × Nat) × Option Item :=
  match instOf s x.nix with
  | none => ([], none)
  | some i =>
    match instNest s i with
    | none => ([], none)
    | some n =>
      let upto := if x.upto = 0 then mget 0 i.share die else x.upto
      if x.back ≠ [] then
        if x.gang then (x.back, none)
        else (x.back.take 1, if x.back.length = 1 then none else some { x with back := x.back.drop 1 })
      else
        let k := if n.gang then min 8 (upto - x.next) else 1
        let ts := (List.range k).map fun p => (p, n.dieTile die (x.next + p), 0)
        (ts, if upto ≤ x.next + k then none else some { x with next := x.next + k })

/-- The deque entry of a dealt tile (R388). -/
def dealtEnt (s : State) (x : Item) (u : Nat × Nat × Nat) : DqEnt :=
  let fresh := x.back = []
  { nix := x.nix, tile := u.2.1, count := 1, range := false, b := x.b, c0 := x.c0, gang := x.gang,
    held := if fresh then (match instOf s x.nix with
      | some i => i.clk.isSome
      | none => false) else x.held,
    area := if u.2.2 = 0 then none else some (u.2.2 - 1), starved := x.starved }

/-- The cores that the next unit of a die goes to, and the item: none when nothing can be dealt. -/
def dealTo (s : State) (die : Nat) : Option (Nat × Item × List (Nat × DqEnt) × Option Item) :=
  if !walkerOn s die then none
  else
    match selected s die with
    | none => none
    | some (n, x) =>
      let u := itemUnit s die x
      if x.gang then
        (nextCluster s die (u.1.map fun t => t.1)).map fun c =>
          (n, x, u.1.map (fun t => (clusterCore (die * 24 + c) t.1, dealtEnt s x t)), u.2)
      else
        match u.1, nextCore s die with
        | t :: _, some c => some (n, x, [(c, dealtEnt s x t)], u.2)
        | _, _ => none

/-- WALKER_DEAL (R385 to R387): one unit leaves the selected item; with the last unit of an instance its clusters are closed
(R397). -/
def execWalkerDeal (s : State) : Out1 :=
  match (List.range 2).find? fun d => (dealTo s d).isSome with
  | none => .next s
  | some die =>
    match dealTo s die with
    | none => .next s
    | some (n, x, ents, rest) =>
      let d := s.die die
      let core := (ents.headD (0, { nix := 0, tile := 0, count := 0, range := false, b := 0, c0 := 0, gang := false,
                                    held := false, area := none })).1
      let s1 := s.setDie die
        { d with items := d.items.take n ++ rest.toList ++ d.items.drop (n + 1), deals := d.deals ++ [{ ents := ents }],
                 lastCore := if x.gang then d.lastCore else some (core % 192),
                 lastCluster := if x.gang then some (coreCluster core) else d.lastCluster }
      .next (if rest.isNone ∧ x.back = [] then closeDie s1 die x.nix else s1)

/-! ### Marks (R392 to R394) -/

/-- Marks the job of a core for the walker: not one that is starving-started, marked or stopped. -/
def markJob (s : State) (core : Nat) : State :=
  let c := s.core core
  match c.job with
  | none => s
  | some j =>
    if j.mark ≠ none ∨ j.stopped ∨ j.starved then s
    else s.setCore core { c with job := some { j with mark := some 0 } }

/-- Marks the job of a core and, for a gang, every running job of that gang (R392). -/
def markGang (s : State) (core : Nat) : State :=
  match (s.core core).job with
  | none => s
  | some j =>
    if !j.gang then markJob s core
    else
      (List.range 8).foldl (fun s p =>
        let k := clusterCore (devCluster core) p
        match (s.core k).job with
        | some x => if x.gang ∧ x.nix = j.nix then markJob s k else s
        | none => s) s

/-- Whether a tile of effective priority e pre-empts the job of a core on arrival (R392). -/
def preempts (s : State) (core e : Nat) : Bool :=
  let d := (s.die (coreDie core)).delta
  match (s.core core).job with
  | some j => decide (d ≠ 0 ∧ j.run + d ≤ e)
  | none => false

/-- The ready item that an entry goes back as: a range by its tiles, a single tile by its position and its save area (R472). -/
def backItem (s : State) (core : Nat) (e : DqEnt) : Item :=
  { nix := e.nix, b := e.b, c0 := e.c0, gang := e.gang, starved := e.starved, held := e.held,
    next := if 1 < e.count then e.tile else if e.gang then gangNo s e.nix e.tile + 1 else 0,
    upto := if 1 < e.count then e.tile + e.count else 0,
    back := if 1 < e.count then [] else
      [(corePos core, e.tile, match e.area with
        | some a => a + 1
        | none => 0)] }

/-- A dealt tile arrives at its core (R386, R392); for an offline core it goes back to the walker (R472). -/
def deposit (s : State) (p : Nat × DqEnt) : State :=
  let core := p.1
  let e := p.2
  let die := coreDie core
  let c := s.core core
  if !c.online then addItem s die (backItem s core e)
  else
    let s1 := s.setCore core { c with deque := c.deque ++ [e] }
    if preempts s1 core (effPrio s1 die e.b e.c0) then markGang s1 core else s1

/-- TILE_DEPOSIT (R386, R392). -/
def execTileDeposit (s : State) : Out1 :=
  match (List.range 2).find? fun d => decide ((s.die d).deals ≠ []) with
  | none => .next s
  | some die =>
    match (s.die die).deals with
    | [] => .next s
    | d :: t => .next (d.ents.foldl deposit (s.setDie die { s.die die with deals := t }))

/-- The first deque entry that has become starving: its core and place. -/
def starvingEnt (s : State) : Option (Nat × Nat) :=
  s.cores.findSome? fun (k, c) =>
    ((List.range c.deque.length).find? fun n =>
      match c.deque[n]? with
      | some e => !e.starved && !e.held && isStarving s (coreDie k) e.b e.c0
      | none => false).map fun n => (k, n)

/-- The first ready item that has become starving: its die and place. -/
def starvingItem (s : State) : Option (Nat × Nat) :=
  (List.range 2).findSome? fun d =>
    ((List.range (s.die d).items.length).find? fun n =>
      match (s.die d).items[n]? with
      | some x => !x.starved && isStarving s d x.b x.c0
      | none => false).map fun n => (d, n)

/-- The running job of a die that a starving item marks: the lowest run priority, the most recently started (R393). -/
def weakest (s : State) (die : Nat) : Option Nat :=
  let l := s.cores.filterMap fun (k, c) =>
    match c.job with
    | some j => if coreDie k = die ∧ !j.starved ∧ j.mark = none ∧ !j.stopped then some (k, j) else none
    | none => none
  (bestOf (fun y x : Nat × Job => decide (y.2.run < x.2.run ∨ (y.2.run = x.2.run ∧ x.2.since < y.2.since))) l).map fun x => x.1

/-- What a starving ready item marks (R393). -/
def starveMark (s : State) (die : Nat) (x : Item) : State :=
  if x.gang then
    let start := match (s.die die).lastCluster with
      | some c => c + 1
      | none => 0
    match ((List.range 24).map fun k => die * 24 + (start + k) % 24).find? fun k => !gangHere s k with
    | some k => (List.range 8).foldl (fun s p => markJob s (clusterCore k p)) s
    | none => s
  else if (List.range 192).any fun k => dequeRoom s (die * 192 + k) then s
  else
    match weakest s die with
    | some k => markGang s k
    | none => s

/-- STARVING (R393): an entry or an item has become starving. -/
def execStarving (s : State) : Out1 :=
  match starvingEnt s, starvingItem s with
  | some (k, n), _ =>
    let c := s.core k
    .next (markGang (s.setCore k { c with deque := c.deque.modify n fun e => { e with starved := true } }) k)
  | none, some (die, n) =>
    match (s.die die).items[n]? with
    | none => .next s
    | some x =>
      let d := s.die die
      .next (starveMark (s.setDie die { d with items := d.items.modify n fun x => { x with starved := true } }) die x)
  | none, none => .next s

/-! ### Popping and stealing (R388 to R391) -/

/-- Whether a core has no job and none on its way. -/
def coreIdle (c : Core) : Bool := c.online && decide (c.job = none ∧ c.next = none)

/-- Whether a later entry y comes before an earlier one x in the owner's order (R388). -/
def popBefore (s : State) (die : Nat) (y x : Nat × DqEnt) : Bool :=
  let sy := isStarving s die y.2.b y.2.c0
  let sx := isStarving s die x.2.b x.2.c0
  let ey := effPrio s die y.2.b y.2.c0
  let ex := effPrio s die x.2.b x.2.c0
  if sy ∨ sx then sy && (!sx || decide (y.2.c0 < x.2.c0))
  else decide (ex < ey) || (decide (ex = ey) && !x.2.gang)

/-- The entry that the owner of a deque pops. -/
def popEnt (s : State) (core : Nat) : Option (Nat × DqEnt) :=
  let q := (s.core core).deque
  bestOf (popBefore s (coreDie core)) (((List.range q.length).zip q).filter fun e => !e.2.held)

/-- Whether a core can take an entry: it holds the image, or its handler is dormant (R36). -/
def canTake (s : State) (core : Nat) (e : DqEnt) : Bool :=
  decide ((s.core core).img = entImage s e)
    || ((s.core core).hrun.isNone && decide ((s.ctx (core * 4 + 3)).run = .idle))

/-- The first idle core that can pop. -/
def toPop (s : State) : Option Nat :=
  if s.phase ≠ .run then none
  else mfind (fun k c => coreIdle c && (match popEnt s k with
    | some e => canTake s k e.2
    | none => false)) s.cores

/-- Takes an entry of a deque, or the first tile of a range (R391): the tile's own entry and the deque after it. -/
def takeEnt (q : List DqEnt) (n : Nat) (e : DqEnt) : DqEnt × List DqEnt :=
  if 1 < e.count then
    ({ e with count := 1 }, q.modify n fun x => { x with tile := x.tile + 1, count := x.count - 1 })
  else (e, q.take n ++ q.drop (n + 1))

/-- The cores that a thief searches, in order (R389). -/
def victims (core : Nat) : List Nat :=
  let die := coreDie core
  let k := coreCluster core
  let p := corePos core
  ((List.range 7).map fun i => clusterCore (die * 24 + k) ((p + 1 + i) % 8))
    ++ (List.range 23).flatMap fun i => (List.range 8).map fun j => clusterCore (die * 24 + (k + 1 + i) % 24) j

/-- The entry of a deque that a thief takes: the oldest stealable one of the highest effective priority. -/
def stealEnt (s : State) (v : Nat) : Option (Nat × DqEnt) :=
  let q := (s.core v).deque
  let e (x : Nat × DqEnt) : Nat := effPrio s (coreDie v) x.2.b x.2.c0
  bestOf (fun y x => decide (e x < e y)) (((List.range q.length).zip q).filter fun x => !x.2.held && !x.2.gang)

/-- The victim of an idle core without an eligible entry, if it can take what it finds there. -/
def victimOf (s : State) (core : Nat) : Option Nat :=
  if !coreIdle (s.core core) || (popEnt s core).isSome || !dequeRoom s core then none
  else
    match (victims core).find? fun v => (stealEnt s v).isSome with
    | none => none
    | some v =>
      match stealEnt s v with
      | some e => if canTake s core e.2 then some v else none
      | none => none

/-- The first thief. -/
def toSteal (s : State) : Option Nat :=
  if s.phase ≠ .run ∨ s.cores.all (fun c => decide (c.2.deque = [])) then none
  else (List.range 384).find? fun k => (victimOf s k).isSome

/-- STEAL (R389, R391): a tile, or the first half of a range, moves to the thief's deque, which the thief then pops. -/
def execSteal (s : State) : Out1 :=
  match toSteal s with
  | none => .next s
  | some k =>
    match victimOf s k with
    | none => .next s
    | some v =>
      match stealEnt s v with
      | none => .next s
      | some (n, e) =>
        let m := (e.count + 1) / 2
        let q := (s.core v).deque
        let q1 := if e.count = m then q.take n ++ q.drop (n + 1)
          else q.modify n fun x => { x with tile := x.tile + m, count := x.count - m }
        let s1 := s.setCore v { s.core v with deque := q1 }
        .next (s1.setCore k { s1.core k with deque := (s1.core k).deque ++ [{ e with count := m }] })

/-! ### Images and job starts (R32, R33, R36) -/

/-- The words of a text section from a key on. -/
def textWords (base : Nat) (bs : List Byte) : Nat → Map Word
  | 0 => []
  | n + 1 => (base, BitVec.ofNat 32 (leNat (bs.take 4))) :: textWords (base + 1) (bs.drop 4) n

/-- Loads an image into a core: its four instruction memories, each cleared beyond its section, and the bank formats that it
declares (R36, R47, R133). -/
def loadText (c : Core) (i : Image) : Core :=
  { c with img := some (i.img, i.reg), ibad := [], icorr := [],
           imem := (List.range 4).flatMap fun e => textWords (e * 16384) (i.text.getD e []) (((i.text.getD e []).length + 3) / 4),
           bfmt := i.banks.foldl (fun m b => mput 0#8 m b.1 (BitVec.ofNat 8 b.2)) c.bfmt }

/-- The engine commands of a core's jobs that are not performed: its matrix and Gambit commands, gather commands but the
handler's. A discarded matrix command is performed, even while it still drops what it counted (R313, R327). -/
def enginesBusy (c : Core) : Bool :=
  decide (c.mx.queue ≠ [] ∨ c.gam.queue ≠ []) || c.mx.run.any (fun x => !x.gone) || c.gcmds.any fun g => decide (g.ag % 4 ≠ 3)

/-- The range-checker entries of a core's job: those of no handler command. -/
def jobRngs (c : Core) : List Rng := c.rngs.filter fun r => !c.gcmds.any fun g => decide (g.id = r.id ∧ g.ag % 4 = 3)

/-- A core as a job finds it at its start (R32, R255, R294, R357): queues empty, EX's registers at their reset values, the
pad, the bank formats, the B store, the accumulators and the semaphores kept. -/
def coreFresh (c : Core) : Core :=
  { c with tok := [], steerL := [], steerS := [], steerP := [], rpl := [], resv := [], scq := [], sqBind := none, secq := [], outb := [], upset := [],
           tiles := [], tpois := [], masks := [], vrows := 15#6, vcols := 31#6, fmt8 := 0x13#8, fpctl := 0#9, fpacc := 0#5,
           ports := [], strq := [], merge := none, ckpts := [], rb := { handler := c.rb.handler },
           mx := { c.mx with anchor := 0, opLen := 1, ops := 0#32, queue := [], seq := 0, run := c.mx.run.filter fun x => !x.gone },
           gam := { c.gam with valid := false, pvalid := false, queue := [], out := [], reply := none, thi := 0#64, tlo := 0#64, e := 0#64,
                               tact := 0#32 } }

/-- The context of an engine at the start of a job, at a word address or without an entry point (R32, R33, R136, R242). -/
def freshCtx (s : State) (core : Nat) (entry : Nat) (idx : Map Nat) (arg : DWord) : Ctx :=
  let seen := (List.range 32).foldl (fun m b => mput 0#16 m b (s.bar (devCluster core) b).gen) []
  let regs := (List.range 6).foldl (fun m k => mput 0#64 m (k + 1) (dw (mget 0 idx k))) []
  { run := if entry = 0xFFFF then .absent else .run, pc := if entry = 0xFFFF then 0 else entry, regs := mput 0#64 regs 7 arg,
    seen := seen, rot := 7, safeAt := s.cycle }

/-- The first start of a job of an instance on a die: the launch latency, and for a Clock instance its jitter and whether it is
late (R402, R403, R484). -/
def firstStart (s : State) (die : Nat) (i : Inst) : State :=
  if i.started.any fun p => decide (p.1 = die) then s
  else
    let s1 := updInst s i.nix fun x => { x with started := mset x.started die s.cycle }
    let s2 := addSample s1 die 1 0 0 ((s.cycle : Int) - i.readyAt)
    match i.clk with
    | some (e, n, at_, tol) =>
      if i.started ≠ [] then s2
      else
        let s3 := addSample s2 0 2 0 0 ((s.time : Int) - at_)
        if at_ + tol < s.time then flagFall s3 e 1 n at_ s.time 0 else s3
    | none => s2

/-- Starts the job of a tile on a core (R32, R33): LA, EX and SA at their entry points. -/
def startJob (s : State) (core : Nat) (e : DqEnt) : State :=
  match instOf s e.nix with
  | none => s
  | some i =>
    match instNest s i with
    | none => s
    | some n =>
      let die := coreDie core
      let entry (k : Nat) : Nat := n.roles.getD (3 * corePos core + k) 0xFFFF
      let x (k : Nat) : Ctx := freshCtx s core (entry k) (n.index e.tile) i.arg
      let j : Job := { nix := e.nix, tile := e.tile, ctx := i.ctx, gen := i.gen, run := effPrio s die e.b e.c0, b := e.b,
                       starved := isStarving s die e.b e.c0, gang := e.gang, since := s.cycle }
      let c := (mkeys (s.core core).ports).foldl closePort (s.core core)
      let s1 := s.setCore core { coreFresh c with job := some j, next := none }
      let s2 := (List.range 3).foldl (fun s e => reload s (core * 4 + e))
        (((s1.setCtx (core * 4) (x 0)).setCtx (core * 4 + 1) (x 1)).setCtx (core * 4 + 2) (x 2))
      let s3 := firstStart s2 die i
      if allRdv s3 core then endOfJob s3 core else s3

/-! ### The end of a job (R34, R397) -/

/-- Whether the job of a core meets the conditions of R34. -/
def jobOver (s : State) (core : Nat) : Bool :=
  let c := s.core core
  match c.job with
  | none => false
  | some j =>
    j.drain && !j.stopped && allRdv s core && c.ports.all (fun p => decide (p.2.st = .closed)) && !enginesBusy c
      && decide (jobRngs c = [] ∧ c.secq = [] ∧ c.rb.pending = none)
      && (List.range 3).all (fun e => decide ((s.ctx (core * 4 + e)).stores = []))
      && c.hrun.isNone && decide ((s.ctx (core * 4 + 3)).run = .idle ∧ c.hstart = [])

/-- The residue flags of a job that ends (R34). -/
def residueOf (c : Core) (j : Job) : Nat :=
  bit (c.tok.any fun p => decide (p.2 ≠ 0)) + 2 * bit (decide (c.steerL ≠ [] ∨ c.steerS ≠ [] ∨ c.steerP ≠ []))
    + 4 * bit (decide (c.rpl ≠ [])) + 8 * bit (decide (c.scq ≠ [])) + 16 * (j.residue / 16 % 2)

/-- An engine whose job has ended: it is idle and waits for nothing; its registers keep their values, with the data of the loads
that have it, until the next job starts (R32, R34). -/
def idleCtx (c : Ctx) : Ctx :=
  { c with run := .idle, regs := (List.range 31).foldl (fun m n => mput 0#64 m (n + 1) (c.reg (n + 1))) c.regs,
           pend := false, loads := [], stores := [], veil := [], sigs := [], wait := .none, ans := none, stopAfter := false,
           strong := none, stall := none, atKernel := none }

/-- The core becomes idle: what its queues hold is discarded, its engines have no job. -/
def clearCore (s : State) (core : Nat) : State :=
  let c := s.core core
  let s1 := s.setCore core
    { c with job := none, tok := [], steerL := [], steerS := [], steerP := [], rpl := [], resv := [], scq := [], sqBind := none,
             ckpts := [], rb := { handler := c.rb.handler } }
  (List.range 3).foldl (fun s e => reload (s.setCtx (core * 4 + e) (idleCtx (s.ctx (core * 4 + e)))) (core * 4 + e)) s1

/-- A Stopped event (R437). -/
def stoppedEvent (s : State) (core : Nat) (job : DWord) (reason origin area : Nat) : State :=
  raiseEvent s (coreDie core) 4 core (leBytes 8 job.toNat ++ leBytes 1 reason ++ leBytes 1 origin ++ leBytes 6 0 ++ leBytes 8 area)

/-- The job of a core completes (R34, R394, R397, R437). -/
def completeJob (s : State) (core : Nat) : State :=
  match (s.core core).job with
  | none => s
  | some j =>
    let id := jobIdOf s core
    let r := residueOf (s.core core) j
    let s1 := match j.mark with
      | some o => stoppedEvent s core id 2 o 0
      | none => s
    let s2 := if r = 0 then s1 else raiseEvent s1 (coreDie core) 7 core (leBytes 8 id.toNat ++ leBytes 1 r)
    clearCore (countTile s2 core j.nix j.failed) core

/-- JOB_COMPLETE (R34, R35, R397). -/
def execJobComplete (s : State) : Out1 :=
  match mfind (fun k _ => jobOver s k) s.cores with
  | none => .next s
  | some k => .next (completeJob s k)

/-! ### SPAWN and the watchdog -/

/-- SPAWN (R158, R379, R380, R391): it waits while an adjournment holds it or the nest table is full. -/
def execSpawn (r : Ring) (rs1 rs2 : BitVec 5) (s : State) : Out1 :=
  issue (.spawn r rs1 rs2) r .ring (fun s =>
    let v := getR s rs1.toNat
    let core := agCore s.cur
    let die := coreDie core
    match s.myCore.job, imageOf s core with
    | some j, some im =>
      (match im.nests[v.toNat]? with
       | none => .trap 0x0B v 0
       | some n =>
         if n.hasD then .trap 0x0B v 0
         else if tableFull s ∨ s.phase ≠ .run then .wait s
         else
           let s0 := irrevMe (publish s)
           let i := { newInst s0 im v.toNat j.b die (getR s rs2.toNat) [] 2 with ctx := j.ctx, gen := j.gen }
           if n.gang ∨ !dequeRoom s core then .ok (launch s0 i).2
           else
             let x := nextNix s0
             let i1 := { i with nix := x.1, ready := true, c0 := s.cycle, readyAt := s.cycle, share := [(die, n.tiles)] }
             let s1 := { s0 with nixCtr := x.2.1, nixWrap := x.2.2, insts := s0.insts ++ [i1] }
             let e : DqEnt := { nix := x.1, tile := 0, count := n.tiles, range := true, b := j.b, c0 := s.cycle, gang := false,
                                held := false, area := none }
             .ok ((closeDie s1 die x.1).setMyCore { s1.myCore with deque := s1.myCore.deque ++ [e] }))
    | _, _ => .trap 0x0B v 0) s

/-- Whether an engine has gone beyond the bound of its context between safe points (R396), at an instruction boundary (R176,
R186). -/
def overdue (s : State) (ag : Nat) : Bool :=
  let c := s.ctx ag
  !(match c.wait with
    | .msg | .payload | .remote => true
    | _ => false) &&
  decide (ag < 1536 ∧ ag % 4 ≠ 3 ∧ c.run = .run ∧ (s.ctxEnt (ctxOf s ag).1).spbound < s.cycle - c.safeAt)
    && (s.core (agCore ag)).job.isSome

/-- The engines of a core that are overdue, LA, EX, SA. -/
def overdueOf (s : State) (core : Nat) : List Nat :=
  ((List.range 3).map fun e => core * 4 + e).filter fun ag => overdue s ag

/-- SAFE_POINT_OVERDUE (R186, R396): each engine of a job that is over the bound records the cause, then the others stop. -/
def execSafePointOverdue (s : State) : Out1 :=
  match mfind (fun ag _ => overdue s ag) s.ctxs with
  | none => .next s
  | some ag =>
    let l := overdueOf s (agCore ag)
    let n (a : Nat) : DWord := dw (s.cycle - (s.ctx a).safeAt)
    .next (l.foldl (fun t a => takeTrap t a true 0x0D 0 (n a)) (l.foldl leaveLines s))

end Sys2Proof.Machine
end

