-- ==== Sys2Proof/Machine/SaveArea.lean ====
section
/-! DEFINITION. Saving and loading jobs: the save area (R449 to R452), JOB_SAVE and the returned job (R395, R447), and with
them popping, the copy of an image's text and the start of what was popped (R36, R388). -/

namespace Sys2Proof.Machine

/-! ### What is live (R134, R451) -/

/-- What of an engine's registers is saved: everything, nothing, or what a live mask names. -/
inductive LiveSel where
  | all | none | mask (m : List Byte)
deriving DecidableEq, Repr

/-- Whether element i of the field that starts at byte k of a mask is live. -/
def LiveSel.has (l : LiveSel) (k i : Nat) : Bool :=
  match l with
  | .all => true
  | .none => false
  | .mask m => (m.getD (k + i / 8) 0#8).getLsbD (i % 8)

/-- The live mask of a loop record in an image; everything is live when it has none. -/
def recLive (im : Option Image) (rec_ : Nat) : LiveSel :=
  match im.bind fun i => i.live.find? fun x => decide (x.1 = rec_) with
  | some x => .mask x.2
  | none => .all

/-- What of an engine is live when its job is saved. -/
def liveOf (s : State) (core e : Nat) (full : Bool) : LiveSel :=
  let c := s.ctx (core * 4 + e)
  if full then .all
  else if c.run = .rdv ∨ c.run = .absent then .none
  else
    match c.atKernel with
    | some r => recLive (imageOf s core) r
    | none => .all

/-- The live elements of a field of n. -/
def LiveSel.elems (l : LiveSel) (k n : Nat) : List Nat := (List.range n).filter fun i => l.has k i

/-! ### Writing the area -/

/-- An engine's block (R451). -/
def engBlock (s : State) (core e : Nat) (l : LiveSel) : List Byte :=
  let c := s.ctx (core * 4 + e)
  let k := s.core core
  let still := decide (c.run = .rdv ∨ c.run = .absent)
  let lv (n : Nat) : Option Level := c.levels.find? fun v => decide (v.l = n)
  let act := fourBits fun n => match lv n with
    | some v => v.act
    | none => false
  let sp := (c.levels.find? fun v => v.sp.isSome).bind fun v => v.sp
  let recNo := match sp, c.atKernel with
    | some r, _ => r
    | none, some r => r
    | none, none => 0
  let regs := if e = 1 then (List.range 16).flatMap (fun n => leBytes 8 (if l.has 4 n then (c.reg n).toNat else 0)) ++ leBytes 128 0
    else (List.range 32).flatMap fun n => leBytes 8 (if l.has 0 n then (c.reg n).toNat else 0)
  let q := (List.range 128).foldl (fun n i => if i = 0 ∨ (l.has 10 i ∧ c.q.getLsbD i) then n + 2 ^ i else n) 0
  leBytes 8 (c.pc % 16384 + bit (decide (c.run = .rdv)) * 2 ^ 14 + bit (decide (c.run = .absent)) * 2 ^ 15
      + bit (decide (c.run = .trapped)) * 2 ^ 16)
    ++ leBytes 8 (gstate c).toNat ++ leBytes 8 c.cause.toNat ++ leBytes 8 c.epc.toNat ++ leBytes 8 c.eval.toNat
    ++ leBytes 4 (if still then 0 else c.stopAt - c.safeAt) ++ leBytes 4 (act + 16 * bit sp.isSome + 32 * (recNo % 64))
    ++ (List.range 4).flatMap (fun n => leBytes 4 (if l.has 26 n then (mget 0#32 c.lc n).toNat else 0))
    ++ (List.range 4).flatMap (fun n => leBytes 2 (mget (0, 0) c.lspan n).1)
    ++ (List.range 4).flatMap (fun n => leBytes 2 (mget (0, 0) c.lspan n).2)
    ++ leBytes 16 0 ++ regs ++ leBytes 16 q
    ++ leBytes 8 (c.pgen.toNat * 2 ^ 48 + c.pnum * 2 ^ 43 + bit c.pend * 2 ^ 42 + c.rot * 2 ^ 39)
    ++ (List.range 32).flatMap (fun b => leBytes 2 (mget 0#16 c.seen b).toNat)
    ++ (if e = 1 then leBytes 8 (k.vrows.toNat * 64 + k.vcols.toNat) ++ leBytes 8 k.fmt8.toNat ++ leBytes 8 k.fpctl.toNat
          ++ leBytes 8 k.fpacc.toNat else leBytes 32 0)
    ++ leBytes 552 0

/-- The tokens of a queue, with those that a stopped engine has signalled and that had no room. -/
def tokSaved (s : State) (core q : Nat) : Nat :=
  (s.core core).toks q + (List.range 3).foldl (fun n e => n + ((s.ctx (core * 4 + e)).sigs.filter fun x => decide (x = q)).length) 0

/-- n steer entries as four places of 4 bytes. -/
def steerSaved (l : List (BitVec 16 × BitVec 16)) : List Byte :=
  (List.range 4).flatMap fun n =>
    match l[n]? with
    | some (pc, v) => leBytes 2 pc.toNat ++ leBytes 2 v.toNat
    | none => leBytes 4 0

/-- The queue line. -/
def queueLine (s : State) (core : Nat) : List Byte :=
  let c := s.core core
  (List.range 6).flatMap (fun q => leBytes 1 (tokSaved s core q)) ++ leBytes 1 c.steerL.length ++ leBytes 1 c.steerS.length
    ++ steerSaved c.steerL ++ steerSaved c.steerS ++ leBytes 2 c.scq.length ++ leBytes 1 c.rpl.length ++ leBytes 1 0
    ++ leBytes 4 c.lfsr.toNat ++ leBytes 1 (match c.sqBind with
      | some p => p + 32
      | none => 0) ++ leBytes 15 0

/-- The virtual semaphores of a context on a core. -/
def semLine (s : State) (core ctx : Nat) : List Byte :=
  (List.range 16).flatMap fun v =>
    match physSem s ctx v with
    | some p => leBytes 4 ((s.sem core p).count + bit (s.sem core p).ovf * 2 ^ 16 + 2 ^ 17)
    | none => leBytes 4 0

/-- The MX line. -/
def mxLine (m : Mx) : List Byte :=
  leInt 2 m.anchor ++ leBytes 1 (m.opLen - 1) ++ leBytes 1 0 ++ leBytes 4 m.ops.toNat ++ leBytes 56 0

/-- The Gambit line. -/
def gamLine (g : Gambit) : List Byte :=
  leBytes 4 g.poff ++ leBytes 4 g.uoff ++ leBytes 4 g.woff ++ leBytes 2 g.d ++ leBytes 2 g.nn ++ leBytes 1 g.rnk ++ leInt 1 g.xs
    ++ leBytes 1 (bit g.valid) ++ leBytes 5 0 ++ leBytes 8 g.thi.toNat ++ leBytes 8 g.tlo.toNat ++ leBytes 8 g.e.toNat
    ++ leBytes 4 g.tact.toNat ++ leBytes 12 0

/-- The port that an open message queue of a core uses. -/
def queueOwner (c : Core) (q : Nat) : Option Nat :=
  mfind (fun _ p => decide (p.src = .msgq ∧ p.qn = q ∧ p.st ≠ .closed) && !p.fork) c.ports

/-- The message-queue line. -/
def msgLine (c : Core) : List Byte :=
  (List.range 8).flatMap fun q =>
    match queueOwner c q with
    | some n => leBytes 4 (c.port n).head ++ leBytes 4 (c.port n).tail
    | none => leBytes 8 0

/-- The pad regions that an image declares, keep or discard. -/
def padRegions (im : Option Image) (keep : Bool) : List (Nat × Nat) :=
  match im with
  | none => []
  | some i => (i.pads.filter fun r => decide (r.2.2 = keep)).map fun r => (r.1, r.2.1)

/-- Whether the whole buffer of a port lies in keep regions (R215). -/
def bufferKept (im : Option Image) (p : Port) : Bool :=
  !isDirect p && !p.fork && (List.range (p.banks * 128)).all fun i =>
    let o := p.fbank * 8192 + i * 64
    (padRegions im true).any fun r => decide (r.1 ≤ o ∧ o < r.1 + r.2)

/-- The stream records. -/
def portRecords (s : State) (core : Nat) : List Byte :=
  let c := s.core core
  (List.range 32).flatMap fun n =>
    if (c.port n).st = .closed then leBytes 192 0 else saveRec c n (bufferKept (imageOf s core) (c.port n))

/-- The accumulator rows that a save takes: those tagged with the job's context, when ACC is live. -/
def savedRows (s : State) (core ctx : Nat) (l : LiveSel) : List Nat :=
  if l.has 28 0 then (List.range 32).filter fun r => decide (((s.core core).mx.rowOf r).tag = ctx) else []

/-- The save area of the job of a core (R449, R450); `full`: the job stopped by a trap; `ret`: it returns to the walker. -/
def areaBytes (s : State) (core : Nat) (j : Job) (full ret : Bool) : List Byte :=
  let c := s.core core
  let im := imageOf s core
  let l (e : Nat) : LiveSel := liveOf s core e full
  let vs := (l 1).elems 6 32
  let ks := (l 1).elems 27 8
  let keeps := padRegions im true
  let rows := savedRows s core j.ctx (l 1)
  let offK := 0x2880 + 2048 * vs.length
  let offP := offK + 512 * ks.length
  let offA := offP + keeps.foldl (fun n r => n + r.2) 0
  let size := offA + 8704 * rows.length
  let img := match c.img with
    | some (n, _) => n
    | none => 0
  leBytes 4 0x41535A43 ++ leBytes 2 1 ++ leBytes 1 j.ctx
    ++ leBytes 1 (bit full + 2 * bit ((l 1).has 28 0) + 4 * bit ret) ++ leBytes 2 j.gen.toNat ++ leBytes 2 img ++ leBytes 2 core
    ++ leBytes 1 j.b ++ leBytes 1 0 ++ leBytes 8 (jobIdOf s core).toNat ++ leBytes 4 size
    ++ leBytes 4 (rows.foldl (fun n r => n + 2 ^ r) 0) ++ leBytes 4 offK ++ leBytes 4 offP ++ leBytes 4 offA ++ leBytes 20 0
    ++ queueLine s core ++ (c.scq ++ List.replicate 256 0#8).take 256
    ++ (List.range 32).flatMap (fun n => leBytes 8 ((c.rpl.getD n 0#64).toNat)) ++ semLine s core j.ctx ++ mxLine c.mx
    ++ gamLine c.gam ++ msgLine c ++ (List.range 256).map (fun b => mget 0#8 c.bfmt b)
    ++ engBlock s core 0 (l 0) ++ engBlock s core 1 (l 1) ++ engBlock s core 2 (l 2) ++ portRecords s core
    ++ vs.flatMap (fun v => mgetN 0#8 c.tiles (v * 2048) 2048)
    ++ ks.flatMap (fun k => leBytes 512 (mget 0#4096 c.masks k).toNat)
    ++ keeps.flatMap (fun r => c.padN r.1 r.2) ++ rows.flatMap (fun r => spillRec (c.mx.rowOf r).hurt)

/-- The places in that area of the bytes of tile registers and of the pad that are poisoned (R465). -/
def areaTaint (s : State) (core : Nat) (full : Bool) : List Nat :=
  let c := s.core core
  let l := liveOf s core 1 full
  let vs := l.elems 6 32
  let off := 0x2880 + 2048 * vs.length + 512 * (l.elems 27 8).length
  ((vs.zipIdx 0).flatMap fun v => (c.tpois.filter fun x => decide (x / 2048 = v.1)).map fun x => 0x2880 + 2048 * v.2 + x % 2048)
    ++ ((padRegions (imageOf s core) true).foldl (fun x r => (x.1 ++ (badPad c r.1 r.2).map (fun i => x.2 + i), x.2 + r.2)) ([], off)).1

/-! ### Saving a job (R446 to R448, R495) -/

/-- Whether the job of a core has no engine command outstanding (R446). -/
def drainDone (s : State) (core : Nat) : Bool :=
  let c := s.core core
  decide (c.strq = [] ∧ jobRngs c = [] ∧ c.secq = []) && !enginesBusy c && c.ports.all fun p => !itemsOut c p.1

/-- Whether every port of a core can be saved: no message of it is reserved and still to be sent (R215, R448). -/
def portsSavable (c : Core) : Bool := c.ports.all fun p => !messageOut p.2

/-- Whether a trap stopped the job of a core. -/
def trapStopped (s : State) (core : Nat) : Bool :=
  (List.range 3).any fun e => decide ((s.ctx (core * 4 + e)).run = .trapped)

/-- The message-queue ports of a core accept nothing more (R495). -/
def quietPorts (c : Core) : Core :=
  { c with ports := c.ports.map fun p => (p.1, if p.2.src = .msgq ∧ !p.2.fork then { p.2 with quiet := true } else p.2) }

/-- Whether every message-queue port of a core is quiet, every message it has accepted has come, and no handler run or start request stands
for one (R495). -/
def portsQuiet (c : Core) : Bool :=
  let mq (n : Nat) : Bool := decide ((c.port n).src = .msgq ∧ (c.port n).st ≠ .closed)
  c.ports.all (fun p => !(decide (p.2.src = .msgq) && !p.2.fork) || (p.2.quiet && p.2.msgs.all fun m => m.whole))
    && !c.hstart.any (fun h => mq h.port)
    && (match c.hrun with
        | some h => !mq h.port
        | none => true)

/-- Performs the held stores of a core's engines. -/
def performAll (s : State) (core : Nat) : State :=
  (List.range 3).foldl (fun s e => performStores s (core * 4 + e)) s

/-- Writes the area of a core's job and leaves the core idle: the ports are closed, the queues emptied (R448). -/
def saveJob (s : State) (core area : Nat) (ret : Bool) : State :=
  match (s.core core).job with
  | none => s
  | some j =>
    let s1 := performAll s core
    let full := trapStopped s1 core
    let s2 := taintMem (putN s1 area (areaBytes s1 core j full ret)) true ((areaTaint s1 core full).map fun i => area + i)
    let c := (mkeys (s2.core core).ports).foldl closePort (s2.core core)
    clearCore (tidyMsgs (s2.setCore core c) core) core

/-- A saved job returns to the ready lists of its die (R395): a gang as one item. -/
def returnJob (s : State) (core area : Nat) (j : Job) (adj : Bool) : State :=
  let die := coreDie core
  let d := s.die die
  let u := (corePos core, j.tile, area + 1)
  let g := gangNo s j.nix j.tile + 1
  let mine (x : Item) : Bool := x.gang && decide (x.nix = j.nix ∧ x.next = g ∧ x.back ≠ [])
  if j.gang ∧ d.items.any mine then
    s.setDie die { d with items := d.items.map fun x => if mine x then { x with back := x.back ++ [u], c0 := s.cycle } else x }
  else
    addItem s die { nix := j.nix, b := j.b, c0 := s.cycle, next := if j.gang then g else 0, back := [u], gang := j.gang,
                    starved := false, adj := adj }

/-- The address of slot i of a context's pool. -/
def slotAddr (e : CtxEnt) (i : Nat) : Nat := e.pool + i * (e.slotsz * 4096)

/-- A free slot of a context's save pool (R447), among those that lie in the device's HBM: the spec asks the pool only to be aligned
(R440), and a slot elsewhere holds nothing (DESIGN CHOICE, log 66). -/
def freeSlot (s : State) (e : CtxEnt) : Option Nat :=
  (List.range e.nslot).find? fun i => !e.used.contains i
    && decide (slotAddr e i / 2 ^ 40 = s.record.slot ∧ slotAddr e i % 2 ^ 40 + e.slotsz * 4096 ≤ 0xC000000000)

/-- The bytes that the save of a core's job takes. -/
def areaSize (s : State) (core : Nat) : Nat :=
  match (s.core core).job with
  | some j => (areaBytes s core j (trapStopped s core) true).length
  | none => 0

/-- A stopped engine issues again; its count toward SPBOUND goes on from where it stood (R396). -/
def goOn (s : State) (x : Ctx) : Ctx := { x with run := .run, safeAt := x.safeAt + (s.cycle - x.stopAt) }

/-- A declined save (R447): the mark is cleared, the queues accept again and the job runs on. -/
def declineSave (s : State) (core : Nat) : State :=
  let c := s.core core
  match c.job with
  | none => s
  | some j =>
    let c1 := { c with job := some { j with mark := none, stopped := false },
                       ports := c.ports.map fun p => (p.1, { p.2 with quiet := false }) }
    let go (s : State) (e : Nat) : State :=
      let x := s.ctx (core * 4 + e)
      if x.run = .held then s.setCtx (core * 4 + e) (goOn s x) else s
    stoppedEvent ((List.range 3).foldl go (s.setCore core c1)) core (jobIdOf s core) 3 0 0

/-- Where the job of a core is saved: a pool slot that is large enough, or in an adjournment the core's slot of the reserved area
(R447, R475); the slot's number, if it is one of the pool. -/
def savePlace (s : State) (core : Nat) (j : Job) : Option (Nat × Option Nat) :=
  let e := s.ctxEnt j.ctx
  match freeSlot s e with
  | some i =>
    if areaSize s core ≤ e.slotsz * 4096 then some (slotAddr e i, some i)
    else if s.phase = .adjourning then some (Config.adjBase + core * 0x400000, none) else none
  | none => if s.phase = .adjourning then some (Config.adjBase + core * 0x400000, none) else none

/-- Saves the job of a core for the walker or an adjournment (R447, R475). -/
def poolSave (s : State) (core : Nat) : State :=
  match (s.core core).job with
  | none => s
  | some j =>
    match savePlace s core j with
    | none => declineSave s core
    | some (a, slot) =>
      let id := jobIdOf s core
      let s1 := saveJob s core a true
      let s2 := match slot with
        | some i => s1.setCtxEnt j.ctx { s1.ctxEnt j.ctx with used := i :: (s1.ctxEnt j.ctx).used }
        | none => s1
      let s3 := if s.phase = .adjourning then s2 else stoppedEvent s2 core id 1 0 a
      returnJob s3 core a j (decide (s.phase = .adjourning))

/-- Whether the stopped job of a core is one that JOB_SAVE saves: marked by the walker, or any in an adjournment. -/
def saveWanted (s : State) (core : Nat) : Bool :=
  match (s.core core).job with
  | some j => j.stopped && (decide (s.phase = .adjourning) || (decide (j.mark = some 0) && !trapStopped s core))
  | none => false

/-- The first core whose job is to be saved, and can be, or whose queues are still to be quieted. -/
def toSave (s : State) : Option Nat :=
  mfind (fun k c => saveWanted s k && drainDone s k && portsSavable c
    && (decide (s.phase = .adjourning) || portsQuiet c || c.ports.any fun p => decide (p.2.src = .msgq) && !p.2.fork && !p.2.quiet)) s.cores

/-- JOB_SAVE (R394, R395, R447, R475, R495): the message queues are stopped first; an adjournment does not wait for their
handler runs. -/
def execJobSave (s : State) : Out1 :=
  match toSave s with
  | none => .next s
  | some k =>
    if portsQuiet (s.core k) || decide (s.phase = .adjourning) then .next (poolSave s k)
    else .next (s.setCore k (quietPorts (s.core k)))

/-! ### Loading a job (R450, R452) -/

/-- The bytes of the area: n from offset k on. -/
def areaAt (s : State) (a k n : Nat) : List Byte := memN s (a + k) n

/-- The places of the poisoned bytes among n of the area from offset k on (R465). -/
def areaBad (s : State) (a k n : Nat) : List Nat :=
  if s.poison = [] then [] else (List.range n).filter fun i => s.poison.contains ((a + k + i) % 2 ^ 40)

/-- Whether an area is poisoned where neither a tile register, nor the pad, nor an accumulator stands: what loads it consumes the
poison. DESIGN CHOICE (log 24): that is a warm reset, whoever loads it. -/
def areaSpoilt (s : State) (a : Nat) (l : LiveSel) : Bool :=
  let offK := 0x2880 + 2048 * (l.elems 6 32).length
  decide (areaBad s a 0 0x2880 ≠ [] ∨ areaBad s a offK (512 * (l.elems 27 8).length) ≠ [])

/-- A number in the area. -/
def areaNat (s : State) (a k n : Nat) : Nat := leNat (areaAt s a k n)

/-- The image that an area names, if it is loaded in the area's context. -/
def areaImage (s : State) (a : Nat) : Option Image :=
  match imageNow s (areaNat s a 10 2) with
  | some i => if i.ctx = areaNat s a 6 1 then some i else none
  | none => none

/-- The live v and k registers that an area can hold of EX: all of a FULL save; none at RDV or without an entry point; those of
its record's mask, or all. -/
def areaLive (s : State) (a : Nat) (im : Image) : List LiveSel :=
  let pc := areaNat s a 0x880 8
  if areaNat s a 7 1 % 2 = 1 then [.all]
  else if pc / 2 ^ 14 % 4 ≠ 0 then [.none] else [recLive (some im) (areaNat s a (0x880 + 44) 4 / 32 % 64), .all]

/-- The reading of the v and k sections that the offsets agree with (R450). -/
def areaSel (s : State) (a : Nat) (im : Image) : Option LiveSel :=
  let offK := areaNat s a 32 4
  let offP := areaNat s a 36 4
  (areaLive s a im).find? fun l =>
    decide (offK = 0x2880 + 2048 * (l.elems 6 32).length ∧ offP = offK + 512 * (l.elems 27 8).length)

/-- Whether an area passes R450. -/
def areaOk (s : State) (a : Nat) : Bool :=
  let ctx := areaNat s a 6 1
  let e := s.ctxEnt ctx
  let fl := areaNat s a 7 1
  let map := BitVec.ofNat 32 (areaNat s a 28 4)
  decide (areaNat s a 0 4 = 0x41535A43 ∧ areaNat s a 4 2 = 1 ∧ ctx < 64 ∧ fl < 8 ∧ areaNat s a 15 1 = 0
      ∧ areaNat s a 44 20 = 0 ∧ e.gen.toNat = areaNat s a 8 2) && e.v
    && (match areaImage s a with
        | none => false
        | some im =>
          (areaSel s a im).isSome
            && decide (areaNat s a 40 4 = areaNat s a 36 4 + (padRegions (some im) true).foldl (fun n r => n + r.2) 0))
    && (decide (map = 0#32) || decide (fl / 2 % 2 = 1))

/-- Puts a level among others, those that end first, or start last, in front. -/
def putLevel (v : Level) : List Level → List Level
  | [] => [v]
  | x :: t => if v.hi < x.hi ∨ (v.hi = x.hi ∧ x.start ≤ v.start) then v :: x :: t else x :: putLevel v t

/-- The levels of a block: the innermost first. -/
def blockLevels (s : State) (b : Nat) (im : Image) (e : Nat) : List Level :=
  let w := areaNat s b 44 4
  let start (n : Nat) : Nat := areaNat s b (64 + 2 * n) 2
  let fin (n : Nat) : Nat := areaNat s b (72 + 2 * n) 2
  let sp := decide (w / 16 % 2 = 1)
  let r := im.loops.find? fun x => decide (x.rec_ = w / 32 % 64 ∧ x.eng = e)
  let ls := (List.range 4).filterMap fun n =>
    if n = 3 ∧ sp then
      some { l := 3, start := start 3, fin := fin 3, act := decide (w / 8 % 2 = 1), sp := some (w / 32 % 64),
             lo := (match r with
               | some x => x.pro
               | none => start 3),
             hi := (match r with
               | some x => x.eend
               | none => fin 3) : Level }
    else if w / 2 ^ n % 2 = 1 then
      some { l := n, start := start n, fin := fin n, act := true, sp := none, lo := start n, hi := fin n : Level }
    else none
  ls.foldr putLevel []

/-- The context that an engine's block gives (R451, R452); `hold`: the job stays stopped. -/
def blockCtx (s : State) (a e : Nat) (im : Image) (hold : Bool) : Ctx :=
  let b := a + 0x480 + 0x400 * e
  let pc := areaNat s b 0 8
  let g := areaNat s b 8 8
  let y := areaNat s b 368 8
  let n := if e = 1 then 16 else 32
  { run := if pc / 2 ^ 14 % 2 = 1 then .rdv else if pc / 2 ^ 15 % 2 = 1 then .absent
           else if hold then (if pc / 2 ^ 16 % 2 = 1 then .trapped else .held) else .run
    pc := pc % 16384
    regs := (List.range n).foldl (fun m i => if i = 0 then m else mput 0#64 m i (dw (areaNat s b (96 + 8 * i) 8))) []
    q := BitVec.ofNat 128 (areaNat s b 352 16) ||| 1#128
    lc := (List.range 4).foldl (fun m i => mput 0#32 m i (BitVec.ofNat 32 (areaNat s b (48 + 4 * i) 4))) []
    levels := blockLevels s b im e
    lspan := (List.range 4).map fun i => (i, areaNat s b (64 + 2 * i) 2, areaNat s b (72 + 2 * i) 2)
    gOn := decide (g / 16 % 2 = 1), gRem := g % 16
    cause := dw (areaNat s b 16 8), epc := dw (areaNat s b 24 8), eval := dw (areaNat s b 32 8)
    seen := (List.range 32).foldl (fun m i => mput 0#16 m i (BitVec.ofNat 16 (areaNat s b (376 + 2 * i) 2))) []
    rot := y / 2 ^ 39 % 8, pend := decide (y / 2 ^ 42 % 2 = 1), pnum := y / 2 ^ 43 % 32, pgen := BitVec.ofNat 16 (y / 2 ^ 48)
    safeAt := s.cycle - areaNat s b 40 4, stopAt := s.cycle }

/-- The steer entries of a queue line. -/
def steerLoaded (s : State) (a n : Nat) : List (BitVec 16 × BitVec 16) :=
  (List.range n).map fun i => (BitVec.ofNat 16 (areaNat s (a + 4 * i) 0 2), BitVec.ofNat 16 (areaNat s (a + 4 * i) 2 2))

/-- Writes the saved keep regions and clears the discard regions of a pad. -/
def padLoaded (s : State) (a : Nat) (im : Image) (c : Core) : Core :=
  let z := (padRegions (some im) false).foldl (fun c r =>
    { c with pad := c.pad.filter fun p => decide (p.1 < r.1 ∨ r.1 + r.2 ≤ p.1), poison := cleanse c.poison r.1 r.2 }) c
  ((padRegions (some im) true).foldl (fun x r =>
      ((areaBad s a x.2 r.2).foldl (fun c i => taintPad c true (r.1 + i) 1) (x.1.putPad r.1 (areaAt s a x.2 r.2)), x.2 + r.2))
    (z, areaNat s a 36 4)).1

/-- A saved field of the core: the queues, BFMT, LFSR, Gambit, MX, EX's own state, the pad, the accumulators and the B store
(R452). -/
def coreLoaded (s : State) (a : Nat) (im : Image) (l : LiveSel) (ctx : Nat) (c : Core) : Core :=
  let x := a + 0x880
  let sb := areaNat s a (0x40 + 48) 1
  let map := BitVec.ofNat 32 (areaNat s a 28 4)
  let rows := (List.range 32).filter fun r => map.getLsbD r
  let vs := l.elems 6 32
  let ks := l.elems 27 8
  let gb := a + 0x300
  let c0 := padLoaded s a im c
  let mx0 := { c0.mx with anchor := recInt (areaAt s a 0x2C0 2) 0 2, opLen := areaNat s a 0x2C2 1 % 16 + 1,
                          ops := BitVec.ofNat 32 (areaNat s a 0x2C4 4), seq := 0, queue := [] }
  let mx1 := (rows.zip (List.range rows.length)).foldl (fun m r =>
    let k := areaNat s a 40 4 + 8704 * r.2
    let x := (fillRow ctx (areaAt s a k 8704)).1
    m.setRow r.1 { x with poison := x.poison || decide (areaBad s a k 8704 ≠ []) }) mx0
  let mx2 := (List.range 8).foldl (fun m j =>
    let b := m.blkOf j
    if b.st ≠ .empty ∧ b.tag ≠ ctx then (m.dropOver j).setBlk j { st := .empty, poison := true, tag := ctx } else m) mx1
  { c0 with
    tok := (List.range 6).foldl (fun m q => mput 0 m q (areaNat s a (0x40 + q) 1)) []
    steerL := steerLoaded s (a + 0x48) (min 4 (areaNat s a 0x46 1)), steerS := steerLoaded s (a + 0x58) (min 4 (areaNat s a 0x47 1))
    scq := areaAt s a 0x80 (min 256 (areaNat s a 0x68 2))
    rpl := (List.range (min 32 (areaNat s a 0x6A 1))).map fun n => dw (areaNat s a (0x180 + 8 * n) 8)
    lfsr := BitVec.ofNat 32 (areaNat s a 0x6C 4)
    sqBind := if sb / 32 % 2 = 1 then some (sb % 32) else none
    bfmt := (List.range 256).foldl (fun m b => mput 0#8 m b (BitVec.ofNat 8 (areaNat s a (0x380 + b) 1))) []
    gam := { c0.gam with poff := areaNat s gb 0 4, uoff := areaNat s gb 4 4, woff := areaNat s gb 8 4, d := areaNat s gb 12 2,
                         nn := areaNat s gb 14 2, rnk := areaNat s gb 16 1, xs := recInt (areaAt s gb 17 1) 0 1,
                         valid := decide (areaNat s gb 18 1 % 2 = 1), thi := dw (areaNat s gb 24 8), tlo := dw (areaNat s gb 32 8),
                         e := dw (areaNat s gb 40 8), tact := BitVec.ofNat 32 (areaNat s gb 48 4), pvalid := false }
    vrows := BitVec.ofNat 6 (areaNat s x 440 8 / 64), vcols := BitVec.ofNat 6 (areaNat s x 440 8)
    fmt8 := BitVec.ofNat 8 (areaNat s x 448 8), fpctl := BitVec.ofNat 9 (areaNat s x 456 8)
    fpacc := BitVec.ofNat 5 (areaNat s x 464 8)
    tiles := (vs.zip (List.range vs.length)).foldl (fun m v => mputN 0#8 m (v.1 * 2048) (areaAt s a (0x2880 + 2048 * v.2) 2048)) []
    tpois := (vs.zip (List.range vs.length)).flatMap fun v => (areaBad s a (0x2880 + 2048 * v.2) 2048).map fun i => v.1 * 2048 + i
    masks := (ks.zip (List.range ks.length)).foldl (fun m k =>
      mput 0#4096 m k.1 (BitVec.ofNat 4096 (areaNat s a (areaNat s a 32 4 + 512 * k.2) 512))) []
    mx := mx2 }

/-- Whether a port of a stream record may be restored now: the port that its indirect fill reads and the parent of a fork come
first (R215). -/
def recNow (s : State) (a : Nat) (todo : List Nat) (n : Nat) : Bool :=
  let ctl := areaNat s (a + 0x1080) (192 * n) 8
  !(decide (ctl / 2 ^ 29 % 2 = 1) && todo.contains (ctl / 2 ^ 30 % 32))
    && !(decide (ctl / 2 ^ 35 % 2 = 1) && todo.contains (ctl / 2 ^ 36 % 32))

/-- Restores the ports that have a record, in order; a record that cannot be restored leaves its port closed. -/
def portsLoaded (s : State) (a core : Nat) (im : Image) (ctx : Nat) (gen : BitVec 16) : Nat → List Nat → Core → Core
  | 0, _, c => c
  | k + 1, todo, c =>
    match todo.find? fun n => recNow s a todo n with
    | none => c
    | some n =>
      let r := areaAt s a (0x1080 + 192 * n) 192
      let c1 := (restorePort c (some im) n r (core * 4) ctx gen).getD c
      let p := c1.port n
      let q := a + 0x340 + 8 * p.qn
      let c2 := if p.src = .msgq ∧ !p.fork ∧ p.st ≠ .closed then
          c1.setPort n { p with head := areaNat s q 0 4, tail := areaNat s q 4 4 } else c1
      portsLoaded s a core im ctx gen k (todo.filter fun x => decide (x ≠ n)) c2

/-- Restores the virtual semaphores through the context's present map; a later one wins on a shared physical (R452). -/
def semsLoaded (s : State) (a core ctx : Nat) : State :=
  (List.range 16).foldl (fun s v =>
    let w := areaNat s a (0x280 + 4 * v) 4
    match physSem s ctx v with
    | some p => if w / 2 ^ 17 % 2 = 1 then
        s.setSem core p { s.sem core p with count := w % 2 ^ 16, ovf := decide (w / 2 ^ 16 % 2 = 1) } else s
    | none => s) s

/-- The restored boundary becomes an engine's only checkpoint: c_k with k = n − lc3 (R463). -/
def ckptLoaded (s : State) (core e : Nat) (im : Image) : State :=
  let ag := core * 4 + e
  let c := s.ctx ag
  match c.levels.find? fun v => v.sp.isSome && v.act with
  | none => s
  | some v =>
    let n := match im.loops.find? fun x => decide (some x.rec_ = v.sp ∧ x.eng = e) with
      | some x => if x.kind = 1 then (c.reg x.reg).toNat else x.trip
      | none => 0
    let k := s.core core
    let s1 := s.setCore core { k with rb := { k.rb with acts := mset k.rb.acts e 1 } }
    { takeCkpt { s1 with cur := ag } (n - (mget 0#32 c.lc 3).toNat) with cur := s.cur }

/-- Loads the area at an address into an idle core whose instruction memories hold its image (R452); the area passes R450. The area
does not say whether the job has taken an action of R467, so it is not restarted (R469). -/
def loadArea (s : State) (core a : Nat) (j : Job) (hold : Bool) : State :=
  match areaImage s a with
  | none => s
  | some im =>
    let l := (areaSel s a im).getD .none
    let c0 := coreFresh ((mkeys (s.core core).ports).foldl closePort (s.core core))
    let c1 := coreLoaded s a im l j.ctx { c0 with img := some (im.img, im.reg), rb := { c0.rb with irrev := true } }
    let open_ := (List.range 32).filter fun n => decide (areaNat s (a + 0x1080) (192 * n) 8 % 16 ≠ 0)
    let c2 := portsLoaded s a core im j.ctx j.gen 32 open_ c1
    let s1 := s.setCore core { c2 with job := some { j with stopped := hold, hold := hold }, next := none }
    let s2 := semsLoaded s1 a core j.ctx
    let s3 := (List.range 3).foldl (fun t e => reload (t.setCtx (core * 4 + e) (blockCtx s a e im hold)) (core * 4 + e)) s2
    let s4 := (List.range 3).foldl (fun t e => ckptLoaded t core e im) s3
    let s5 := if areaSpoilt s a l then { foundError s4 with wres := true } else s4
    if !hold && allRdv s5 core then endOfJob s5 core else s5

/-- Frees the pool slot whose area is at an address (R447). -/
def freeArea (s : State) (ctx a : Nat) : State :=
  let e := s.ctxEnt ctx
  s.setCtxEnt ctx { e with used := e.used.filter fun i => decide (slotAddr e i ≠ a) }

/-- Loads a returned job from its slot, which is freed (R447); an area that fails R450 ends the job FAILED with a Stopped event. -/
def loadReturned (s : State) (core a : Nat) (e : DqEnt) : State :=
  let die := coreDie core
  match instOf s e.nix with
  | none => s.setCore core { s.core core with next := none }
  | some i =>
    if areaOk s a then
      let j : Job := { nix := e.nix, tile := e.tile, ctx := i.ctx, gen := i.gen, run := effPrio s die e.b e.c0, b := e.b,
                       starved := isStarving s die e.b e.c0, gang := e.gang, since := s.cycle }
      freeArea (loadArea s core a j false) i.ctx a
    else
      let s1 := freeArea (s.setCore core { s.core core with next := none }) i.ctx a
      countTile (stoppedEvent s1 core (dw (e.nix * 2 ^ 32 + e.tile)) 4 0 0) core e.nix true

/-! ### From the deque to the first instruction (R36, R388) -/

/-- Whether what a core has popped can start: its image is there, and the commands of the job before are performed. -/
def startable (s : State) (core : Nat) : Bool :=
  (s.core core).next.isSome && !copying s core && !enginesBusy (s.core core) && decide (s.phase = .run ∨ s.phase = .adjourning)

/-- Starts the popped tile, or loads the popped returned job. -/
def startNext (s : State) (core : Nat) : State :=
  match (s.core core).next with
  | none => s
  | some (e, _) =>
    match e.area with
    | some a => loadReturned s core a e
    | none => startJob s core e

/-- CORE_POP (R388, R391, R447): an idle core takes an entry; a returned job whose image the core holds is loaded at once. -/
def execCorePop (s : State) : Out1 :=
  match toPop s with
  | none => .next s
  | some k =>
    match popEnt s k with
    | none => .next s
    | some (n, e) =>
      let t := takeEnt (s.core k).deque n e
      let s1 := s.setCore k { s.core k with deque := t.2, next := some (t.1, s.cycle) }
      .next (if e.area.isSome && startable s1 k then startNext s1 k else s1)

/-- IMAGE_TEXT_COPY (R36): the popped entry's image is copied into the core. -/
def execImageTextCopy (s : State) : Out1 :=
  match mfind (fun k _ => copying s k) s.cores with
  | none => .next s
  | some k =>
    match (s.core k).next with
    | none => .next s
    | some (e, _) =>
      match (entImage s e).bind fun x => s.images.find? fun i => decide (i.img = x.1 ∧ i.reg = x.2) with
      | none => .next s
      | some im => .next (s.setCore k (loadText (s.core k) im))

/-- JOB_START (R32, R33, R35). -/
def execJobStart (s : State) : Out1 :=
  match mfind (fun k _ => startable s k) s.cores with
  | none => .next s
  | some k => .next (startNext s k)

end Sys2Proof.Machine
end

