-- ==== Sys2Proof/Machine/Clock.lean ====
section
/-! DEFINITION. The Clock table (R400 to R404): firing, release of held tiles, the Director's commands. -/

namespace Sys2Proof.Machine

/-- Takes every tile of an instance that has not started out of the ready lists, the deques and the cores. -/
def dropInst (s : State) (nix : Nat) : State :=
  { s with
    cores := s.cores.map fun p =>
      (p.1, { p.2 with deque := p.2.deque.filter fun e => decide (e.nix ≠ nix),
                       next := p.2.next.filter fun e => decide (e.1.nix ≠ nix) })
    dies := s.dies.map fun p =>
      (p.1, { p.2 with items := p.2.items.filter fun x => decide (x.nix ≠ nix),
                       deals := (p.2.deals.map fun d => { d with ents := d.ents.filter fun e => decide (e.2.nix ≠ nix) }).filter
                         fun d => decide (d.ents ≠ []) }) }

/-- The instances of a Clock entry that have fired and of whose held tiles none has been released (R404). -/
def heldInsts (s : State) (entry : Nat) : List Nat :=
  (s.insts.filter fun i => !i.done && !i.freed && (match i.clk with
    | some (e, _, at_, _) => decide (e = entry ∧ s.time < at_)
    | none => false)).map fun i => i.nix

/-- Cancels them (R404). -/
def cancelHeld (s : State) (entry : Nat) : State :=
  (heldInsts s entry).foldl (fun s n => completeInst (dropInst s n) n 4) s

/-- The first instance of a record with s_i at or after a time: 1 past the only one of a record without a period. -/
def firstFrom (r : BitVec 512) (t : Nat) : Nat :=
  let p := clkNat r 16 8
  let st := clkStart r 0
  if t ≤ st then 0 else if p = 0 then 1 else (t - st + p - 1) / p

/-- The next instance of an entry that may fire: the first not yet fired, past those that a step of TIME has passed over (R403). -/
def nextInst (x : Clk) : Nat :=
  match x.gaps.find? fun g => decide (g.1 ≤ x.next ∧ x.next < g.2) with
  | some g => g.2
  | none => x.next

/-- The instances of an enabled entry whose firing point has come at a time: the first not yet fired and the last (R402). -/
def firingAt (t : Nat) (x : Clk) : Option (Nat × Nat) :=
  let r := x.rec_
  let p := clkNat r 16 8
  let now := t + clkNat r 28 4
  let m := if p = 0 then 0 else (now - clkStart r 0) / p
  if clkOn r ∧ clkStart r 0 ≤ now ∧ nextInst x ≤ m then some (nextInst x, m) else none

/-- The same at TIME. -/
def firing (s : State) (x : Clk) : Option (Nat × Nat) := firingAt s.time x

/-- Whether a Clock record is one that R401 refuses. -/
def clkBad (s : State) (r : BitVec 512) : Bool :=
  decide (clkNat r 10 6 ≠ 0 ∨ 16 ≤ clkNat r 36 1 ∨ 16 ≤ clkNat r 37 1 ∨ clkNat r 38 2 ≠ 0 ∨ clkNat r 60 4 ≠ 0
      ∨ 10 ^ 9 ≤ clkNat r 6 4 ∨ clkNat r 37 1 % 4 = 3 ∨ (clkNat r 16 8 ≠ 0 ∧ clkNat r 16 8 < clkNat r 28 4))
    || (match imageNow s (clkNat r 32 2) with
        | some im => decide (im.nests.length ≤ clkNat r 34 2)
        | none => true)

/-- Writes a Clock entry (R401, R402, R404): the counters are cleared, tiles still held are cancelled. -/
def clkWrite (s : State) (e : Nat) (r : BitVec 512) : State :=
  let r1 := clkSet r 48 12 0
  ({ cancelHeld s e with clkErr := false }).setClk e { rec_ := r1, next := firstFrom r1 s.time }

/-- The CLKCMD write that waits, if its operation is the given one. -/
def clkHead (s : State) (op : Nat) : Option (List (Nat × Nat × DWord)) :=
  match s.csrq with
  | (_, 0x819, v) :: t => if (v.extractLsb' 0 2).toNat = op then some t else none
  | _ => none

/-- CLKCMD_WRITE (R401). -/
def execClkcmdWrite (s : State) : Out1 :=
  match clkHead s 1 with
  | none => .next s
  | some t =>
    let s1 := { s with csrq := t }
    if clkBad s s.clkRec then .next { s1 with clkErr := true } else .next (clkWrite s1 s.clkIdx s.clkRec)

/-- CLKCMD_READ (R401). -/
def execClkcmdRead (s : State) : Out1 :=
  match clkHead s 2 with
  | none => .next s
  | some t => .next { s with csrq := t, clkRec := (s.clk s.clkIdx).rec_ }

/-- Clears EN of an entry (R404). -/
def clkOff (s : State) (e : Nat) : State :=
  let s1 := cancelHeld s e
  s1.setClk e { s1.clk e with rec_ := (s1.clk e).rec_ &&& ~~~(BitVec.twoPow 512 299) }

/-- CLKCMD_CLEAR_EN (R401, R404). -/
def execClkcmdClearEn (s : State) : Out1 :=
  match clkHead s 3 with
  | none => .next s
  | some t => .next (clkOff { s with csrq := t } s.clkIdx)

/-- The first enabled entry whose firing point has come. -/
def toFire (s : State) : Option Nat :=
  if s.phase ≠ .run then none else mfind (fun _ x => (firing s x).isSome) s.clocks

/-- Fires instance i of an entry (R402, R403): a nest instance, unless the one before still runs and OVR is set, or the nest
table is full. -/
def fireClock (s : State) (e i : Nat) : State :=
  let x := s.clk e
  let r := x.rec_
  let busy : Bool := match x.last with
    | some n => (match instOf s n with
      | some j => !j.done
      | none => false)
    | none => false
  let at_ := clkStart r i
  let s0 := s.setClk e { x with next := i + 1, gaps := x.gaps.filter fun g => decide (i < g.2) }
  if busy ∧ clkNat r 37 1 / 4 % 2 = 1 then flagFall s0 e 2 i at_ 0 1
  else
    match imageNow s (clkNat r 32 2) with
    | none => flagFall s0 e 4 i at_ 0 1
    | some im =>
      if tableFull s ∨ im.nests.length ≤ clkNat r 34 2 then flagFall s0 e 4 i at_ 0 1
      else
        let n := (nextNix s0).1
        let sc := addScore s0 { sseq := 0, tacc := 0, origin := 2, op := 0x20, st := 1, result := leBytes 8 n }
        let j := newInst sc.2 im (clkNat r 34 2) (clkNat r 36 1 % 16) (clkNat r 37 1 % 4) (dw (clkNat r 40 8)) [] 1
        let l := launch sc.2 { j with clk := some (e, i, at_, clkNat r 24 4), scored := sc.1 }
        l.2.setClk e { l.2.clk e with last := some l.1, rec_ := clkSet r 48 4 (clkNat r 48 4 + 1) }

/-- CLOCK_FIRE (R402, R403): the first instance of an entry that is due fires. -/
def execClockFire (s : State) : Out1 :=
  match toFire s with
  | none => .next s
  | some e =>
    match firing s (s.clk e) with
    | none => .next s
    | some (a, _) => .next (fireClock s e a)

/-- A forward step of TIME, from t (R403): of an entry's firing points that it passed over, only the last fires; the others are missed, with
one flag fall that names the first. -/
def steppedClk (t : Nat) (s : State) (e : Nat) : State :=
  let x := s.clk e
  match firing s x with
  | none => s
  | some (a, b) =>
    let first := match firingAt t x with
      | some (_, k) => max a (k + 1)
      | none => a
    if first < b then
      let s1 := flagFall s e 3 first (clkStart x.rec_ first) 0 (b - first)
      s1.setClk e { s1.clk e with gaps := (s1.clk e).gaps ++ [(first, b)] }
    else s

/-- What a step of TIME from t does to the Clock table. -/
def stepped (t : Nat) (s : State) : State := if t < s.time then (mkeys s.clocks).foldl (steppedClk t) s else s

/-- The instances among those from a to b that a step has already passed over. -/
def inGaps (x : Clk) (a b : Nat) : Nat := x.gaps.foldl (fun n g => n + (min g.2 (b + 1) - max g.1 a)) 0

/-- Firing points that passed while the device did not fire are missed, with one flag fall for each entry (R474, R477). -/
def missFirings (s : State) : State :=
  (mkeys s.clocks).foldl (fun s e =>
    let x := s.clk e
    match firing s x with
    | none => s
    | some (a, b) =>
      let s1 := flagFall s e 3 a (clkStart x.rec_ a) 0 (b + 1 - a - inGaps x a b)
      s1.setClk e { s1.clk e with next := b + 1, gaps := [] }) s

/-- Whether a held entry of a core may be released: its start has come (R402). -/
def mayRelease (s : State) (e : DqEnt) : Bool :=
  e.held && (match instOf s e.nix with
    | some { clk := some (_, _, at_, _), .. } => decide (at_ ≤ s.time)
    | _ => true)

/-- HELD_TILE_RELEASE (R384, R402): the held tiles of a core whose start has come. -/
def execHeldTileRelease (s : State) : Out1 :=
  match mfind (fun _ c => c.deque.any fun e => mayRelease s e) s.cores with
  | none => .next s
  | some k =>
    let c := s.core k
    let f (e : DqEnt) : DqEnt := if mayRelease s e then { e with held := false, c0 := s.cycle, starved := false } else e
    let out := (c.deque.filter (mayRelease s)).map fun e => e.nix
    .next { s.setCore k { c with deque := c.deque.map f } with
      insts := s.insts.map fun i => if out.contains i.nix then { i with freed := true } else i }

end Sys2Proof.Machine
end

