-- ==== Sys2Proof/Machine/Matrix.lean ====
section
/-! DEFINITION. The matrix engine (R294 to R331): the matrix instructions of EX, the start of commands and their K-steps,
their performance, and the cluster fault queue. -/

namespace Sys2Proof.Machine

/-! ### What a command names -/

/-- The wait field of a command (R121). -/
def mxWait : Instr → SemF
  | .mxldb _ w _ _ _ _ _ _ _ _ | .mxldbs _ w _ _ _ _ _ _ _ _ _ | .mxrun _ w _ _ _ _ _ _ _ _ | .mxrung _ w _ _ _ _ _ _ _ _
  | .mxst _ w _ _ _ _ _ _ _ _ _ _ | .mxz _ w _ _ _ _ | .mxops _ w _ _ _ _ | .mxanc _ w _ _ | .mxfence _ w _
  | .mxclrp _ w _ _ _ _ _ | .mxspill _ w _ _ _ _ _ | .mxfill _ w _ _ _ _ _ => w
  | _ => none

/-- The signal field of a command (R121). -/
def mxSig : Instr → SemF
  | .mxldb _ _ g _ _ _ _ _ _ _ | .mxldbs _ _ g _ _ _ _ _ _ _ _ | .mxrun _ _ g _ _ _ _ _ _ _ | .mxrung _ _ g _ _ _ _ _ _ _
  | .mxst _ _ g _ _ _ _ _ _ _ _ _ | .mxz _ _ g _ _ _ | .mxops _ _ g _ _ _ | .mxanc _ _ g _ | .mxfence _ _ g
  | .mxclrp _ _ g _ _ _ _ | .mxspill _ _ g _ _ _ _ | .mxfill _ _ g _ _ _ _ => g
  | _ => none

/-- Rows ACC0 to ACC0 + M − 1 as bits of a set of MX state. -/
def rowBits (acc0 m : BitVec 5) : Nat := (2 ^ (m.toNat + 1) - 1) * 2 ^ acc0.toNat

/-- Blocks from n0 on as bits of a set of MX state. -/
def blkBits (n0 n : Nat) : Nat := (2 ^ n - 1) * 2 ^ (32 + n0)

/-- The MX state that a command reads and writes (R312), as sets of bits: rows 0–31, blocks 32–39, 40 the overflow store, 41
ANCHOR, 42 the op sequence. -/
def mxSets : Instr → Nat × Nat
  | .mxldb _ _ _ _ _ nb n0 _ _ _ => (0, blkBits n0.toNat (nb.toNat + 1) + 2 ^ 40)
  | .mxldbs _ _ _ _ _ nb _ _ _ _ _ => (0, blkBits 0 (nb.toNat + 1) + 2 ^ 40)
  | .mxrun _ _ _ _ _ _ _ _ acc0 m | .mxrung _ _ _ _ _ _ _ _ acc0 m =>
    (blkBits 0 8 + 2 ^ 40 + 2 ^ 42, rowBits acc0 m)
  | .mxst _ _ _ _ _ acc0 _ m _ _ _ _ | .mxspill _ _ _ _ _ acc0 m => (rowBits acc0 m, 0)
  | .mxz _ _ _ acc0 m _ => (2 ^ 41, rowBits acc0 m)
  | .mxops _ _ _ _ _ _ => (0, 2 ^ 42)
  | .mxanc _ _ _ _ => (0, 2 ^ 41)
  | .mxclrp _ _ _ acc0 m re bm => (0, (if re then rowBits acc0 m else 0) + bm.toNat * 2 ^ 32 + 2 ^ 40)
  | .mxfill _ _ _ _ _ acc0 m => (0, rowBits acc0 m)
  | _ => (0, 0)

/-- The rows that a command writes. -/
def mxRows (i : Instr) : List Nat := (List.range 32).filter fun r => (mxSets i).2.testBit r

/-- KA of an MXRUN or MXRUNG. -/
def kaOf : Instr → Nat
  | .mxrun _ _ _ _ _ _ hi lo _ _ => hi.toNat * 128 + lo.toNat + 1
  | .mxrung _ _ _ _ _ _ hi lo _ _ => hi.toNat * 64 + lo.toNat + 1
  | _ => 0

/-- The element format of a command: BF, AF or DF. -/
def mxCode : Instr → Nat
  | .mxldb _ _ _ _ _ _ _ bf _ _ | .mxldbs _ _ _ _ _ _ _ _ _ bf _ => bf.toNat
  | .mxrun _ _ _ _ _ af _ _ _ _ | .mxrung _ _ _ _ _ af _ _ _ _ => af.toNat
  | .mxst _ _ _ _ _ _ _ _ df _ _ _ => df.toNat
  | _ => 0

/-- K of an MXLDBS (R317). -/
def sparseK (hi : BitVec 1) (lo : BitVec 10) : Nat := hi.toNat * 1024 + lo.toNat + 1

/-- D of an MXLDBS (R317). -/
def sparseD (dc : BitVec 2) : Nat := 8 * 2 ^ dc.toNat

/-- The read and write sets of a command in the range checker (R311). -/
def mxRanges : Instr → List (Nat × Nat) × List (Nat × Nat)
  | .mxldb _ _ _ sk loc nb _ bf k scl =>
    let o := loc.toNat * 128
    let n := 64 * (nb.toNat + 1)
    let e := o + (k.toNat + 1) * bytesFor (mxFmt bf.toNat).bits n
    match sk with
    | .port => ([], [])
    | .pad => ([(o, if scl then (e + 63) / 64 * 64 + (k.toNat / 32 + 1) * n else e)], [])
    | .glob => ([(o, o + 64)], [])
  | .mxldbs _ _ _ sg loc nb _ _ hi _ lo =>
    let o := loc.toNat * 128
    let n := 64 * (nb.toNat + 1)
    let k := sparseK hi lo
    if sg then ([(o, o + 64)], [])
    else ([(o, min (o + (k + 63) / 64 * n * 80 + (k + 31) / 32 * n + 64) 0x200000)], [])
  | .mxrun r w g ps loc af hi lo acc0 m =>
    let ab := rowPitch (mxFmt af.toNat).bits (kaOf (.mxrun r w g ps loc af hi lo acc0 m))
    if ps then ([(loc.toNat * 1024, loc.toNat * 1024 + (m.toNat + 1) * ab)], []) else ([], [])
  | .mxrung _ _ _ tb _ _ _ _ _ _ => ([(tb.toNat * 32768, 0x200000)], [])
  | .mxst _ _ _ ps loc _ _ m df _ _ nb =>
    let db := rowPitch (mxFmt df.toNat).bits (64 * (nb.toNat + 1))
    if ps then ([], [(loc.toNat * 1024, loc.toNat * 1024 + (m.toNat + 1) * db)]) else ([], [])
  | .mxspill _ _ _ ps loc _ m =>
    if ps then ([], [(loc.toNat * 1024, loc.toNat * 1024 + (m.toNat + 1) * 8704)]) else ([], [])
  | .mxfill _ _ _ ps loc _ m =>
    if ps then ([(loc.toNat * 1024, loc.toNat * 1024 + (m.toNat + 1) * 8704)], []) else ([], [])
  | _ => ([], [])

/-- The port of a command, whether it fills it, and the DST that a drained one must have (R307). -/
def mxPort : Instr → Option (Nat × Bool × Dst)
  | .mxldb _ _ _ .port loc _ _ _ _ _ => some (loc.toNat, false, .mxb)
  | .mxrun _ _ _ false loc _ _ _ _ _ => some (loc.toNat, false, .mxa)
  | .mxrung _ _ _ _ ip _ _ _ _ _ => some (ip.toNat, false, .mxa)
  | .mxst _ _ _ false loc _ _ _ _ _ _ _ => some (loc.toNat, true, .mxa)
  | .mxspill _ _ _ false loc _ _ => some (loc.toNat, true, .mxa)
  | .mxfill _ _ _ false loc _ _ => some (loc.toNat, false, .mxa)
  | _ => none

/-- The elements of a port, or bytes of a raw buffer, that a command counts (R307). -/
def mxUnits (raw : Bool) : Instr → Nat
  | .mxldb _ _ _ _ _ nb _ bf k scl =>
    let n := 64 * (nb.toNat + 1)
    let kk := k.toNat + 1
    let b := (mxFmt bf.toNat).bits
    if scl then kk * bytesFor b n + (k.toNat / 32 + 1) * n else if raw then bytesFor b (kk * n) else kk * n
  | .mxrun r w g ps loc af hi lo acc0 m =>
    let n := (m.toNat + 1) * kaOf (.mxrun r w g ps loc af hi lo acc0 m)
    if raw then bytesFor (mxFmt af.toNat).bits n else n
  | .mxrung _ _ _ _ _ _ _ _ _ m => m.toNat + 1
  | .mxst _ _ _ _ _ _ _ m df _ _ nb =>
    let n := (m.toNat + 1) * 64 * (nb.toNat + 1)
    if raw then bytesFor (mxFmt df.toNat).bits n else n
  | .mxspill _ _ _ _ _ _ m | .mxfill _ _ _ _ _ _ m => (m.toNat + 1) * 8704
  | _ => 0

/-- Whether a buffer format suits a command's port (R307). -/
def mxBankOk (f : Nat) : Instr → Bool
  | .mxldb _ _ _ _ _ _ _ _ _ scl => !scl || decide (f = 0)
  | .mxrung _ _ _ _ _ _ _ _ _ _ => decide (f = 1 ∨ f = 2 ∨ f = 5 ∨ f = 6)
  | .mxspill _ _ _ _ _ _ _ | .mxfill _ _ _ _ _ _ _ => decide (f = 0)
  | _ => true

/-- Whether a command reserves a reply entry (R22). -/
def mxReplies : Instr → Bool
  | .mxst _ _ _ _ _ _ _ _ _ _ _ _ => true
  | .mxldbs _ _ _ _ _ _ _ ove _ _ _ => ove
  | _ => false

/-- The TAG of a command's reply (R315). -/
def mxTag (seq : Nat) : Nat := 0x4D00 + seq

/-- The reason of Stream State that a command's port meets (R307, R218). -/
def mxReason (c : Core) (i : Instr) : Option (Nat × Nat) :=
  match mxPort i with
  | none => none
  | some (n, fill, d) =>
    if !isOpen c n then some (2, n)
    else if fill ∧ (c.port n).fend then some (3, n)
    else if (fill ∧ ((c.port n).fork ∨ (c.port n).src ≠ .mx)) ∨ (!fill ∧ (c.port n).dst ≠ d) then some (4, n)
    else if !mxBankOk (fmtOf c n) i then some (5, n)
    else none

/-! ### Pushing a command (R307, R315) -/

/-- Whether the destination port of a command has no room for what it counts. -/
def mxNoRoom (c : Core) (i : Instr) : Bool :=
  match mxPort i with
  | some (n, true, _) => !roomFor c n (mxUnits (decide (fmtOf c n = 0)) i)
  | _ => false

/-- Whether the stream command queue still holds a command on the command's port. -/
def mxPending (c : Core) (i : Instr) : Bool :=
  match mxPort i with
  | some (n, _, _) => pendingOn c n
  | none => false

/-- The command enters the queue: SEQ, the range checker, the reply reservation, the elements counted. -/
def mxPushed (s : State) (i : Instr) : State :=
  let c := s.myCore
  let n := newItem c
  let seq := c.mx.seq % 256
  let raw := match mxPort i with
    | some (p, _, _) => decide (fmtOf c p = 0)
    | none => false
  let cmd : MxCmd := { i := i, seq := seq, id := n.1, epc := s.me.pc, ptag := tagOf c 1, ctx := (ctxOf s s.cur).1,
                       gen := (ctxOf s s.cur).2, raw := raw, pinst := (match mxPort i with
                         | some (p, _, _) => (c.port p).inst
                         | none => 0) }
  let rg := mxRanges i
  let c1 : Core := { n.2 with
    mx := { n.2.mx with queue := n.2.mx.queue ++ [cmd], seq := n.2.mx.seq + 1 }
    rngs := if rg = ([], []) then n.2.rngs
      else n.2.rngs ++ [{ id := n.1, rd := rg.1.map clipRange, wr := rg.2.map clipRange }]
    resv := if mxReplies i then n.2.resv ++ [mxTag seq] else n.2.resv }
  match mxPort i with
  | some (p, true, _) =>
    s.setMyCore (c1.setPort p { c1.port p with fw := (c1.port p).fw + mxUnits raw i })
  | some (p, false, _) =>
    let c2 := claimEls c1 p (mxUnits raw i)
    s.setMyCore (if (c.port p).mauto = [] then irrevEv c2 1 else c2)
  | none => s.setMyCore c1

/-- A matrix instruction of EX (R315). -/
def mxPush (i : Instr) (r : Ring) (s : State) : Out1 :=
  issue i r .ex (fun s =>
    let c := s.myCore
    match mxReason (projected c) i with
    | some (reason, n) => .trap 0x11 (dw (reason * 256 + n)) 0
    | none =>
      if mxPending c i || decide (16 ≤ c.mx.queue.length) || decide (mxRanges i ≠ ([], []) ∧ 64 ≤ c.rngs.length)
          || (mxReplies i && decide (32 ≤ c.resv.length + c.rpl.length)) || mxNoRoom c i then .wait s
      else .ok (mxPushed s i)) s

/-- MXLDB (R316). -/
def execMxldb (r : Ring) (sw ss : SemF) (sk : MxKind) (loc : BitVec 14) (nb n0 : BitVec 3) (bf : BitVec 6) (k : BitVec 8)
    (scl : Bool) (s : State) : Out1 := mxPush (.mxldb r sw ss sk loc nb n0 bf k scl) r s

/-- MXLDBS (R317). -/
def execMxldbs (r : Ring) (sw ss : SemF) (sg : Bool) (loc : BitVec 14) (nb : BitVec 3) (dc : BitVec 2) (ove : Bool)
    (kHi : BitVec 1) (bf : BitVec 6) (kLo : BitVec 10) (s : State) : Out1 :=
  mxPush (.mxldbs r sw ss sg loc nb dc ove kHi bf kLo) r s

/-- MXRUN (R318). -/
def execMxrun (r : Ring) (sw ss : SemF) (ps : Bool) (loc : BitVec 11) (af : BitVec 6) (kaHi : BitVec 4) (kaLo : BitVec 7)
    (acc0 m : BitVec 5) (s : State) : Out1 := mxPush (.mxrun r sw ss ps loc af kaHi kaLo acc0 m) r s

/-- MXRUNG (R319). -/
def execMxrung (r : Ring) (sw ss : SemF) (tb : BitVec 6) (iport : BitVec 5) (af : BitVec 6) (kaHi : BitVec 5)
    (kaLo : BitVec 6) (acc0 m : BitVec 5) (s : State) : Out1 := mxPush (.mxrung r sw ss tb iport af kaHi kaLo acc0 m) r s

/-- MXST (R320). -/
def execMxst (r : Ring) (sw ss : SemF) (ps : Bool) (loc : BitVec 11) (acc0 : BitVec 5) (n0 : BitVec 3) (m : BitVec 5)
    (df : BitVec 6) (rm : Rm) (sm : Bool) (nb : BitVec 3) (s : State) : Out1 :=
  mxPush (.mxst r sw ss ps loc acc0 n0 m df rm sm nb) r s

/-- MXZ (R321). -/
def execMxz (r : Ring) (sw ss : SemF) (acc0 m : BitVec 5) (kind : BitVec 2) (s : State) : Out1 :=
  mxPush (.mxz r sw ss acc0 m kind) r s

/-- MXOPS (R322). -/
def execMxops (r : Ring) (sw ss : SemF) (len : BitVec 4) (opsLo opsHi : BitVec 16) (s : State) : Out1 :=
  mxPush (.mxops r sw ss len opsLo opsHi) r s

/-- MXANC (R323). -/
def execMxanc (r : Ring) (sw ss : SemF) (anc : MxAnc) (s : State) : Out1 := mxPush (.mxanc r sw ss anc) r s

/-- Whether the matrix queue is empty and every earlier command is performed (R324). -/
def mxIdle (c : Core) : Bool := c.mx.queue.isEmpty && c.mx.run.all fun x => x.gone

/-- MXFENCE (R324). -/
def execMxfence (r : Ring) (sw ss : SemF) (s : State) : Out1 :=
  issue (.mxfence r sw ss) r .ex (fun s => if mxIdle s.myCore then .ok (mxPushed s (.mxfence r sw ss)) else .wait s) s

/-- MXCLRP (R325). -/
def execMxclrp (r : Ring) (sw ss : SemF) (acc0 m : BitVec 5) (re : Bool) (bm : BitVec 8) (s : State) : Out1 :=
  mxPush (.mxclrp r sw ss acc0 m re bm) r s

/-- MXSPILL (R326). -/
def execMxspill (r : Ring) (sw ss : SemF) (ps : Bool) (loc : BitVec 11) (acc0 m : BitVec 5) (s : State) : Out1 :=
  mxPush (.mxspill r sw ss ps loc acc0 m) r s

/-- MXFILL (R326). -/
def execMxfill (r : Ring) (sw ss : SemF) (ps : Bool) (loc : BitVec 11) (acc0 m : BitVec 5) (s : State) : Out1 :=
  mxPush (.mxfill r sw ss ps loc acc0 m) r s

/-! ### Faults, replies, signals (R327 to R330) -/

/-- Replaces the engine of a core. -/
def Core.setMx (c : Core) (m : Mx) : Core := { c with mx := m }

/-- A fault record enters the cluster queue; it is held when that is full, or while others wait before it (R328). -/
def mxFault (s : State) (core : Nat) (cmd : MxCmd) (cause detail addr group col : Nat) : State :=
  let f : MxFault := { addr := addr % 2 ^ 64, cause := cause, detail := detail, seq := cmd.seq, ctx := cmd.ctx, core := core,
                       epc := cmd.epc, group := group, col := col, jobid := jobIdOf s core, time := s.time }
  let k := s.clus (devCluster core)
  if k.heldq = [] ∧ k.faults.length < 64 then s.setClus (devCluster core) { k with faults := k.faults ++ [f] }
  else
    let c := s.core core
    (s.setCore core (c.setMx { c.mx with held := c.mx.held ++ [f] })).setClus (devCluster core) { k with heldq := k.heldq ++ [core] }

/-- The first cluster whose queue has room for a held record (R328). -/
def heldFault (s : State) : Option Nat := mfind (fun _ k => decide (k.heldq ≠ [] ∧ k.faults.length < 64)) s.clusters

/-- FAULT_RECORD_ENQUEUE (R328): the record that has been held the longest enters. -/
def execFaultRecordEnqueue (s : State) : Out1 :=
  match heldFault s with
  | none => .next s
  | some n =>
    let k := s.clus n
    match k.heldq with
    | [] => .next s
    | core :: t =>
      let c := s.core core
      .next ((s.setCore core (c.setMx { c.mx with held := c.mx.held.drop 1 })).setClus n
        { k with heldq := t, faults := k.faults ++ c.mx.held.take 1 })

/-- A trigger under the tag of a command's push (R465); one that comes while another waits is served after it. -/
def mxTrigger (c : Core) (tag : Option Nat) (unit : Nat) (own : Bool) : Core :=
  let t : Trig := { eng := 1, tag := tag.getD 0, mis := false, unit := unit, own := own }
  match c.rb.pending with
  | some _ => { c with rb := { c.rb with more := c.rb.more ++ [t] } }
  | none => { c with rb := { c.rb with pending := some t } }

/-- The signal field of a performed command (R249, R327). -/
def mxSignal (s : State) (core : Nat) (cmd : MxCmd) : State :=
  match mxSig cmd.i with
  | none => s
  | some v =>
    match physSem s cmd.ctx v.toNat with
    | none => mxFault s core cmd 5 7 0 0 0
    | some p =>
      let x := s.sem core p
      let s1 := s.setSem core p (if x.count = 65535 then { x with ovf := true } else { x with count := x.count + 1 })
      s1.setCore core (logAs (s1.core core) cmd.ptag 7 p [if x.count = 65535 then 0 else 1])

/-- A command is performed (R313): it leaves the range checker; its reply, or the end of its reservation; its signal. -/
def mxPerformed (s : State) (core : Nat) (cmd : MxCmd) (reply : Option (Nat × Nat × Nat)) : State :=
  let c := rngDone (s.core core) cmd.id
  let c1 := if mxReplies cmd.i then
      (match reply with
       | none => { c with resv := c.resv.erase (mxTag cmd.seq) }
       | some (src, kind, v) => putReplyAs c cmd.ptag (mxTag cmd.seq) src kind v)
    else c
  mxSignal (s.setCore core c1) core cmd

/-- Replaces a running command, by its item. -/
def mxStep (c : Core) (cmd : MxCmd) : Core :=
  c.setMx { c.mx with run := c.mx.run.map fun x => if x.id = cmd.id then cmd else x }

/-- A running command leaves. -/
def mxEnd (c : Core) (cmd : MxCmd) : Core := c.setMx { c.mx with run := c.mx.run.filter fun x => decide (x.id ≠ cmd.id) }

/-- Poisons rows. -/
def poisonRows (c : Core) (rows : List Nat) : Core :=
  c.setMx (rows.foldl (fun m r => m.setRow r { m.rowOf r with poison := true }) c.mx)

/-- The reply of a discarded command (R330). -/
def deadReply : Instr → Option (Nat × Nat × Nat)
  | .mxst _ _ _ _ _ acc0 _ m _ _ _ _ => some (6, 1, rowBits acc0 m)
  | .mxldbs _ _ _ _ _ _ _ ove _ _ _ => if ove then some (5, 1, 0) else none
  | _ => none

/-- The blocks that a load names. -/
def mxBlks : Instr → List Nat
  | .mxldb _ _ _ _ _ nb n0 _ _ _ => (List.range (nb.toNat + 1)).map fun k => n0.toNat + k
  | .mxldbs _ _ _ _ _ nb _ _ _ _ _ => List.range (nb.toNat + 1)
  | _ => []

/-- A started command is discarded (R327): its blocks or rows are poisoned, and it is performed; it stays only to take or to
give what it counted. -/
def mxDiscard (s : State) (core : Nat) (cmd : MxCmd) : State :=
  let c := s.core core
  let c1 := match cmd.i with
    | .mxldb _ _ _ _ _ _ _ _ _ _ | .mxldbs _ _ _ _ _ _ _ _ _ _ _ =>
      c.setMx ((mxBlks cmd.i).foldl (fun m j =>
        (m.dropOver j).setBlk j { m.blkOf j with st := .empty, poison := true }) c.mx)
    | .mxrun _ _ _ _ _ _ _ _ _ _ | .mxrung _ _ _ _ _ _ _ _ _ _ | .mxfill _ _ _ _ _ _ _ => poisonRows c (mxRows cmd.i)
    | _ => c
  let s1 := mxPerformed (s.setCore core (mxStep c1 { cmd with dead := true, gone := true })) core cmd (deadReply cmd.i)
  if (mxPort cmd.i).isNone && (match cmd.i with
      | .mxrun _ _ _ _ _ _ _ _ _ _ => false
      | _ => true) then s1.setCore core (mxEnd (s1.core core) cmd)
  else s1

/-- A fault that discards a command. -/
def mxBad (s : State) (core : Nat) (cmd : MxCmd) (cause detail addr group col : Nat) : State :=
  mxDiscard (mxFault s core cmd cause detail addr group col) core cmd

/-! ### Starting (R312, R313) -/

/-- Whether a command that has started keeps another from starting (R312): it is not performed, and they share MX state that one of
them writes. -/
def mxClash (a : MxCmd) (b : Instr) : Bool :=
  !a.gone && decide ((mxSets a.i).2 &&& ((mxSets b).1 ||| (mxSets b).2) ≠ 0 ∨ (mxSets a.i).1 &&& (mxSets b).2 ≠ 0)

/-- What the head of the queue may do: nothing, join a semaphore's line, start; a semaphore fault with its DETAIL. -/
inductive HeadOp where
  | none | join (p : Nat) | take (p : Nat) | start | bad (detail : Nat)
deriving DecidableEq, Repr

/-- The head of the queue (R249, R312). One whose wait fails is discarded in its turn: the blocks and rows that this poisons are free of
earlier commands. -/
def mxHead (s : State) (core : Nat) : HeadOp :=
  let c := s.core core
  match c.mx.queue with
  | [] => .none
  | q :: _ =>
    if !matched c q.id || decide (c.mx.held ≠ []) || q.inLine then .none
    else
      let clash := c.mx.run.any fun x => mxClash x q.i
      match (if q.waited then none else mxWait q.i) with
      | some v =>
        (match physSem s q.ctx v.toNat with
         | none => if clash then .none else .bad 7
         | some p =>
           if (s.sem core p).ovf then (if clash then .none else .bad 6)
           else if semReady (s.sem core p) 1 then .take p
           else .join p)
      | none =>
        if clash || rngBlocked c q.id then .none else .start

/-- The EX live mask of the core's software-pipelined loop sets ACC (R134, R464). -/
def accLive (s : State) (core : Nat) : Bool :=
  match imageOf s core, (s.ctx (core * 4 + 1)).levels.find? fun v => v.sp.isSome with
  | some im, some v =>
    (match im.live.find? fun x => decide (some x.1 = v.sp) with
     | some x => (x.2.getD 28 0#8).getLsbD 0
     | none => false)
  | _, _ => false

/-- The entries of the undo log, at most 32 (R464): a full log drops the entry with the lowest tag, and every checkpoint up to
that tag becomes unusable. -/
def trimUndo (c : Core) : Core :=
  if c.rb.undo.length ≤ 32 then c
  else
    let t := (c.rb.undo.map fun e => e.1).foldl min ((c.rb.undo.map fun e => e.1).headD 0)
    match c.rb.undo.find? fun e => decide (e.1 = t) with
    | none => c
    | some e =>
      { c with rb := { c.rb with undo := c.rb.undo.erase e },
               ckpts := c.ckpts.map fun k => if k.act = t / 2 ^ 32 ∧ k.k ≤ t % 2 ^ 32 then { k with ok := false } else k }

/-- Copies the rows that a command writes, when it is the first under its tag to write them (R464). -/
def undoRows (s : State) (core : Nat) (cmd : MxCmd) : State :=
  match cmd.ptag with
  | none => s
  | some t =>
    if !accLive s core then s
    else
      s.setCore core ((mxRows cmd.i).foldl (fun c r =>
        if c.rb.undo.any fun e => decide (e.1 = t ∧ e.2.1 = r) then c
        else trimUndo { c with rb := { c.rb with undo := c.rb.undo ++ [(t, r, c.mx.rowOf r)] } }) (s.core core))

/-- The effect of a command that is performed at its start (R313). -/
def mxNow (c : Core) (cmd : MxCmd) : Core :=
  let m := c.mx
  match cmd.i with
  | .mxz _ _ _ _ _ kind =>
    let v : BitVec 128 := if kind = 0#2 then 0#128 else if kind = 1#2 then BitVec.twoPow 128 127 else BitVec.twoPow 128 127 - 1#128
    let acc : Map Acc := if v = 0#128 then [] else (List.range 512).map fun k => (k, { v := v })
    c.setMx ((mxRows cmd.i).foldl (fun m r =>
      m.setRow r { acc := acc, ranch := m.anchor, poison := (m.rowOf r).poison, tag := cmd.ctx }) m)
  | .mxops _ _ _ len lo hi => c.setMx { m with opLen := len.toNat + 1, ops := hi ++ lo }
  | .mxanc _ _ _ a =>
    c.setMx { m with anchor := match a with
      | .val n => n.toInt
      | .deflt af bf => defaultAnchor (mxFmt af.toNat) (mxFmt bf.toNat) }
  | .mxclrp _ _ _ _ _ _ bm =>
    let m1 := (mxRows cmd.i).foldl (fun m r => m.setRow r { m.rowOf r with poison := false }) m
    c.setMx (((List.range 8).filter fun j => bm.getLsbD j).foldl (fun m j =>
      (m.dropOver j).setBlk j { m.blkOf j with poison := false, st := .empty }) m1)
  | _ => c

/-- Whether a command is performed at its start. -/
def mxIsNow : Instr → Bool
  | .mxz _ _ _ _ _ _ | .mxops _ _ _ _ _ _ | .mxanc _ _ _ _ | .mxfence _ _ _ | .mxclrp _ _ _ _ _ _ _ => true
  | _ => false

/-- Whether a started command cannot be replayed (R467). -/
def mxIrrev : Instr → Bool
  | .mxldb _ _ _ _ _ _ _ _ _ _ | .mxldbs _ _ _ _ _ _ _ _ _ _ _ | .mxspill _ _ _ _ _ _ _ | .mxfill _ _ _ _ _ _ _ => true
  | _ => false

/-- Whether a command writes the pad, a B block or an accumulator (R469). -/
def mxWrites (i : Instr) : Bool := decide ((mxSets i).2 % 2 ^ 40 ≠ 0 ∨ (mxRanges i).2 ≠ [])

/-- The pad range of a command that runs past the end of the pad (R29). -/
def padOver (i : Instr) : Option Nat :=
  (((mxRanges i).1 ++ (mxRanges i).2).find? fun r => decide (0x200000 < r.2)).map fun r => r.1

/-- The code of a command's pad operand, and its range, for the check of R306; MXRUNG makes it row by row. -/
def padFormat (i : Instr) : Option (Nat × (Nat × Nat)) :=
  match i with
  | .mxldb _ _ _ .pad _ _ _ _ _ _ | .mxldbs _ _ _ false _ _ _ _ _ _ _ | .mxrun _ _ _ true _ _ _ _ _ _ =>
    ((mxRanges i).1.head?).map fun r => (mxCode i, r)
  | .mxst _ _ _ true _ _ _ _ _ _ _ _ => ((mxRanges i).2.head?).map fun r => (mxCode i, r)
  | .mxspill _ _ _ true _ _ _ => ((mxRanges i).2.head?).map fun r => (0, r)
  | .mxfill _ _ _ true _ _ _ => ((mxRanges i).1.head?).map fun r => (0, r)
  | _ => none

/-- The head of the queue starts (R312): the undo copies, the marks of R467 and R469, the checks of R29 and R306; a command that
is performed at its start has its effect. -/
def mxStart (s : State) (core : Nat) : State :=
  let c := s.core core
  match c.mx.queue with
  | [] => s
  | q :: t =>
    let s1 := undoRows (s.setCore core (c.setMx { c.mx with queue := t, run := c.mx.run ++ [q] })) core q
    let c1 := s1.core core
    let c2 := if mxIrrev q.i then { logAs c1 q.ptag 9 0 [] with rb := { (logAs c1 q.ptag 9 0 []).rb with irrev := true } } else c1
    let c3 := if mxWrites q.i then { c2 with rb := { c2.rb with wrote := true } } else c2
    let s2 := s1.setCore core c3
    match padOver q.i with
    | some o => mxBad s2 core q 2 0 o 0 0
    | none =>
      match padFormat q.i with
      | some (code, r) =>
        (match wrongBank c3 r code with
         | some o => mxBad s2 core q 6 0 o 0 0
         | none => s2)
      | none =>
        if mxIsNow q.i then mxPerformed (s2.setCore core (mxEnd (mxNow c3 q) q)) core q none else s2

/-! ### Taking elements from a port -/

/-- Whether the port of a command is gone: it has been closed, and opened again perhaps (R230). -/
def mxLost (c : Core) (cmd : MxCmd) (n : Nat) : Bool := decide ((c.port n).st = .closed ∨ (c.port n).inst ≠ cmd.pinst)

/-- How many units a running command still takes at its port. -/
def mxNeed (cmd : MxCmd) : Nat :=
  match mxPort cmd.i with
  | some (_, false, _) => mxUnits cmd.raw cmd.i - cmd.buf.length
  | _ => 0

/-- Whether a running command can take elements, or find that no more come. -/
def mxCanFeed (c : Core) (cmd : MxCmd) : Bool :=
  match mxPort cmd.i with
  | some (n, false, _) =>
    decide (0 < mxNeed cmd) &&
      (mxLost c cmd n || fillOver c n || decide (1 ≤ elementsIn (buf c n).gaps (c.port n).rd (buf c n).wr))
  | _ => false

/-- The format that a command converts its port's elements into: BF or AF; none for bytes and indices (R307). -/
def feedFmt : Instr → Option Fmt
  | .mxldb _ _ _ _ _ _ _ bf _ scl => if scl then none else some (mxFmt bf.toNat)
  | .mxrun _ _ _ _ _ af _ _ _ _ => some (mxFmt af.toNat)
  | _ => none

/-- The codes of elements of a port in a command's format (R201, R307). -/
def feedCodes (c : Core) (n : Nat) (i : Instr) (es : List Nat) : List Nat × Core :=
  match feedFmt i with
  | none => (es.map (elCode c n), c)
  | some f =>
    if fmtOf c n = 0 ∨ codeFmt (fmtOf c n) = some f then (es.map (elCode c n), c)
    else
      let r := convAll c f (buf c n).rm (buf c n).sm (es.map (elValue c n))
      (r.1, r.2.2)

/-- A running command takes the elements that have arrived, or zeros for those that never come (R307). -/
def mxFeed (c : Core) (cmd : MxCmd) : Core :=
  match mxPort cmd.i with
  | some (n, false, _) =>
    let have_ := elementsIn (buf c n).gaps (c.port n).rd (buf c n).wr
    if mxLost c cmd n ∨ have_ = 0 then
      let c1 := if mxLost c cmd n then c
        else c.setPort n { c.port n with short := true, dp := min (c.port n).dp (buf c n).fw }
      mxStep c1 { cmd with buf := cmd.buf ++ List.replicate (mxNeed cmd) 0 }
    else
      let k := min have_ (mxNeed cmd)
      let es := (positions (buf c n).gaps (c.port n).rd k).1
      let pz := (es.zipIdx cmd.buf.length).filterMap fun e => (elPoison c n e.1).map fun u => (e.2, u)
      let r := feedCodes c n cmd.i es
      let c1 := (readEls r.2 n k).2
      mxStep c1 { cmd with buf := cmd.buf ++ r.1, pois := cmd.pois ++ pz }
  | _ => c

/-! ### K-steps -/

/-- An SQPUSH is outstanding in LA, SA or the handler (R25). -/
def sqpushWaits (s : State) (core : Nat) : Bool :=
  [0, 2, 3].any fun e =>
    let ag := core * 4 + e
    decide ((s.ctx ag).run = .run ∨ (s.ctx ag).run = .held ∨ (s.ctx ag).run = .trapped) &&
      (match fetched s ag with
       | some (.sqpush _ _ _) => true
       | _ => false)

/-- The scale codes of the next row (R24, R25): present, still to come, or missing. -/
inductive Codes where
  | wait | missing | ok (l : List Nat)

/-- ACC0 of a run. -/
def acc0Of : Instr → Nat
  | .mxrun _ _ _ _ _ _ _ _ a _ | .mxrung _ _ _ _ _ _ _ _ a _ => a.toNat
  | .mxst _ _ _ _ _ a _ _ _ _ _ _ | .mxspill _ _ _ _ _ a _ | .mxfill _ _ _ _ _ a _ => a.toNat
  | _ => 0

/-- M of a command. -/
def mOf : Instr → Nat
  | .mxrun _ _ _ _ _ _ _ _ _ m | .mxrung _ _ _ _ _ _ _ _ _ m => m.toNat + 1
  | .mxst _ _ _ _ _ _ _ m _ _ _ _ | .mxspill _ _ _ _ _ _ m | .mxfill _ _ _ _ _ _ m => m.toNat + 1
  | _ => 0

/-- Whether a command is an MXRUN or an MXRUNG. -/
def isRun : Instr → Bool
  | .mxrun _ _ _ _ _ _ _ _ _ _ | .mxrung _ _ _ _ _ _ _ _ _ _ => true
  | _ => false

/-- Whether a run that started earlier has still to take scale codes (R24). -/
def codesBefore (c : Core) (cmd : MxCmd) : Bool :=
  (c.mx.run.takeWhile fun x => decide (x.id ≠ cmd.id)).any fun x => isRun x.i && !x.stop && decide (x.row < mOf x.i)

/-- The A scale codes of a row of a command. -/
def rowScales (s : State) (core : Nat) (cmd : MxCmd) : Codes :=
  let c := s.core core
  let n := (kaOf cmd.i + 31) / 32
  if cmd.stop then .ok (List.replicate n 127)
  else if codesBefore c cmd then .wait
  else if n ≤ c.scq.length then .ok ((c.scq.take n).map BitVec.toNat)
  else if cmd.dead || sqpushWaits s core || c.sqBind.isSome then .wait
  else .missing

/-- An A row: not yet whole, its codes with the poisoned unit among them, or a fault of this row alone: cause and offset. -/
inductive ARow where
  | wait | ok (l : List Nat) (pz : Option Nat) | bad (cause off : Nat)

/-- The poisoned unit among n elements of a command from a place on. -/
def poisFrom (cmd : MxCmd) (k n : Nat) : Option Nat :=
  (cmd.pois.find? fun e => decide (k ≤ e.1 ∧ e.1 < k + n)).map fun e => e.2

/-- The next A row of a running MXRUN or MXRUNG (R310, R318, R319). -/
def nextRow (c : Core) (cmd : MxCmd) : ARow :=
  let f := mxFmt (mxCode cmd.i)
  let ka := kaOf cmd.i
  let ab := rowPitch f.bits ka
  match cmd.i with
  | .mxrun _ _ _ true loc _ _ _ _ _ =>
    let o := loc.toNat * 1024 + cmd.row * ab
    .ok (padCodes c o f.bits ka) (padPoison c o ab)
  | .mxrun _ _ _ false _ _ _ _ _ _ =>
    let upTo (r : Nat) : Nat := if cmd.raw then bytesFor f.bits (r * ka) else r * ka
    if cmd.buf.length < upTo (cmd.row + 1) then .wait
    else
      let l := if cmd.raw then groupBytes f.bits (cmd.buf.map fun x => BitVec.ofNat 8 x) else cmd.buf
      .ok ((l.drop (cmd.row * ka)).take ka) (poisFrom cmd (upTo cmd.row) (upTo (cmd.row + 1) - upTo cmd.row))
  | .mxrung _ _ _ tb ip _ _ _ _ _ =>
    if cmd.buf.length ≤ cmd.row then .wait
    else
      let x := numInt ((mxFmt (fmtOf c ip.toNat)).decode (cmd.buf.getD cmd.row 0))
      let o : Int := (tb.toNat * 32768 : Nat) + x * (ab : Int)
      if x < 0 ∨ 0x200000 < o + ab then .bad 8 (o % 2 ^ 64).toNat
      else
        match wrongBank c (o.toNat, o.toNat + ab) (mxCode cmd.i) with
        | some w => .bad 6 w
        | none => .ok (padCodes c o.toNat f.bits ka) ((padPoison c o.toNat ab).or (poisFrom cmd cmd.row 1))
  | _ => .wait

/-- Whether a running command has a row to do now. -/
def canRow (s : State) (core : Nat) (cmd : MxCmd) : Bool :=
  isRun cmd.i && decide (cmd.row < mOf cmd.i)
    && (match nextRow (s.core core) cmd with
        | .wait => false
        | _ => true)
    && (match rowScales s core cmd with
        | .wait => false
        | _ => true)

/-- Whether a K-step of a row of ka elements reads something of a block that holds an uncorrectable error (R329, R465). -/
def blkBad (b : Blk) (ka : Nat) : Bool :=
  b.ue.any fun key =>
    if 2 ^ 22 ≤ key then decide ((key - 2 ^ 22) / 64 < ka)
    else if 2 ^ 20 ≤ key then decide ((key - 2 ^ 20) % 64 * 32 < ka)
    else if b.st = .sparse then (match b.pos.find? fun p => decide (p.1 = key) with
      | some p => decide (p.2 < ka)
      | none => false)
    else decide (key / 64 < min b.k ka)

/-- The K-step of a row with its codes (R298, R327): whatever it reads with an uncorrectable error poisons the rows that the command
writes, and triggers a rollback (R329, R465). -/
def kStep (s : State) (core : Nat) (cmd : MxCmd) (a : List Nat) (pz : Option Nat) (ca : List Nat) : State :=
  let c := s.core core
  let d := acc0Of cmd.i + cmd.row
  let r := c.mx.rowOf d
  if r.tag ≠ cmd.ctx then
    mxFault (s.setCore core (poisonRows c [d])) core cmd 9 0 0 0 0
  else
    let r1 := runRow c.mx cmd.ctx (a.map (mxFmt (mxCode cmd.i)).decode) ca r
    let read (j : Nat) : Bool :=
      let b := c.mx.blkOf j
      !b.poison && !foreignBlk b cmd.ctx && decide (b.st ≠ .empty)
    let bad := pz.isSome || (List.range 8).any fun j =>
      read j && (blkBad (c.mx.blkOf j) a.length || r.ue.any fun col => decide (col / 64 = j))
    let c1 := c.setMx (c.mx.setRow d r1)
    s.setCore core (if bad then mxTrigger (poisonRows c1 (mxRows cmd.i)) cmd.ptag (pz.getD noUnit) true else c1)

/-- One row of a running MXRUN or MXRUNG. -/
def mxRow (s : State) (core : Nat) (cmd : MxCmd) : State :=
  let nx := { cmd with row := cmd.row + 1 }
  match rowScales s core cmd with
  | .wait => s
  | .missing =>
    let rest := (List.range (mOf cmd.i - cmd.row)).map fun k => acc0Of cmd.i + cmd.row + k
    let s1 := mxFault s core cmd 4 0 0 0 0
    let c := poisonRows { s1.core core with scq := [] } rest
    s1.setCore core (mxStep c { cmd with stop := true, row := mOf cmd.i })
  | .ok ca =>
    let c := s.core core
    let n := (kaOf cmd.i + 31) / 32
    let c1 := if cmd.stop then c else logAs { c with scq := c.scq.drop n } cmd.ptag 6 0 ((c.scq.take n).map BitVec.toNat)
    let s1 := s.setCore core (mxStep c1 nx)
    match nextRow c cmd with
    | .wait => s
    | .bad cause off =>
      if cmd.dead then s1
      else mxFault (s1.setCore core (poisonRows (s1.core core) [acc0Of cmd.i + cmd.row])) core cmd cause 0 off cmd.row 0
    | .ok a pz => if cmd.dead then s1 else kStep s1 core cmd a pz ca

/-! ### MATRIX_COMMAND_START -/

/-- The first running command of a core that can take elements or do a row. -/
def mxBusy (s : State) (core : Nat) : Option MxCmd :=
  (s.core core).mx.run.find? fun x => mxCanFeed (s.core core) x || canRow s core x

/-- A core whose matrix command joins a semaphore's line: it joins ahead of the core's other waiters of the cycle (R250). -/
def mxJoiner (s : State) : Option Nat :=
  mfind (fun k _ => match mxHead s k with
    | .join _ => true
    | _ => false) s.cores

/-- The first core whose matrix engine can go on: a running command, or the head of its queue. -/
def mxGo (s : State) : Option Nat :=
  mxJoiner s <|> mfind (fun k _ => (mxBusy s k).isSome || decide (mxHead s k ≠ .none)) s.cores

/-- MATRIX_COMMAND_START (R249, R298, R312): the head's wait is met and it starts; a started run takes its elements and does
its K-steps, row by row. -/
def execMatrixCommandStart (s : State) : Out1 :=
  match mxGo s with
  | none => .next s
  | some core =>
    let c := s.core core
    let head (f : MxCmd → MxCmd) (s : State) : State :=
      s.setCore core ((s.core core).setMx { (s.core core).mx with queue := match (s.core core).mx.queue with
                                                                    | [] => []
                                                                    | q :: t => f q :: t })
    match mxHead s core, mxBusy s core with
    | .join p, _ => .next (semJoin (head (fun q => { q with inLine := true }) s) core p 4096 1)
    | _, some x => .next (if mxCanFeed c x then s.setCore core (mxFeed c x) else mxRow s core x)
    | h, none =>
      match c.mx.queue with
      | [] => .next s
      | q :: t =>
        match h with
        | .none | .join _ => .next s
        | .take p =>
          let s1 := head (fun q => { q with waited := true }) s
          let s2 := s1.setSem core p { s1.sem core p with count := (s1.sem core p).count - 1 }
          .next (s2.setCore core (logAs (s2.core core) q.ptag 8 p [1]))
        | .bad d =>
          .next (mxBad (s.setCore core (c.setMx { c.mx with queue := t, run := c.mx.run ++ [q] })) core q 5 d 0 0 0)
        | .start => .next (mxStart s core)

/-! ### MATRIX_COMMAND_PERFORMED -/

/-- The places of the poisoned bytes among some in memory. -/
def badAt (s : State) (pas : List Nat) : List Nat :=
  if s.poison = [] then [] else ((pas.zipIdx 0).filter fun x => s.poison.contains (x.1 % 2 ^ 40)).map fun x => x.2

/-- The elements of a width that some bytes hold a part of. -/
def badEls (bits : Nat) (l : List Nat) : List Nat :=
  l.flatMap fun y => (List.range ((y * 8 + 7) / bits + 1 - y * 8 / bits)).map fun k => y * 8 / bits + k

/-- Reads n bytes of the command's member at a virtual address (R73, R308): the bytes and the places of the poisoned ones. -/
def mxRead (s : State) (core : Nat) (cmd : MxCmd) (va n : Nat) : (Nat × Nat ⊕ List Byte × List Nat) × State :=
  match xlateEngN s core cmd.ctx cmd.gen (va % 2 ^ 64) n false with
  | (.inl e, s1) => (.inl e, s1)
  | (.inr pas, s1) => (.inr (pas.map (memByte s1), badAt s1 pas), s1)

/-- Reads n pieces of a size at addresses a pitch apart. -/
def mxReads (s : State) (core : Nat) (cmd : MxCmd) (va pitch size : Nat) :
    Nat → (Nat × Nat ⊕ List (List Byte × List Nat)) × State
  | 0 => (.inr [], s)
  | n + 1 =>
    match mxReads s core cmd va pitch size n with
    | (.inl e, s1) => (.inl e, s1)
    | (.inr l, s1) =>
      match mxRead s1 core cmd (va + n * pitch) size with
      | (.inl e, s2) => (.inl e, s2)
      | (.inr x, s2) => (.inr (l ++ [x]), s2)

/-- A load puts its blocks in place, and its overflow entries. -/
def loadBlks (s : State) (core : Nat) (cmd : MxCmd) (mk : Blk → Nat → Blk) (more : List (Byte × Nat × Nat)) : State :=
  let c := s.core core
  let m := (mxBlks cmd.i).foldl (fun m j => (m.dropOver j).setBlk j (mk (m.blkOf j) j)) c.mx
  s.setCore core (c.setMx { m with ovf := m.ovf ++ more })

/-- The pieces of a byte list, n of a size. -/
def pieces (size n : Nat) (bs : List Byte) : List (List Byte) := (List.range n).map fun i => (bs.drop (i * size)).take size

/-- The bytes of a scale row as codes. -/
def scaleRow (bs : List Byte) : List Nat := bs.map BitVec.toNat

/-- MXLDB with its rows and scale rows at hand, each with the places of its bad elements. -/
def putDense (s : State) (core : Nat) (cmd : MxCmd) (n0 bf : Nat) (rows scales : List (List Nat × List Nat)) : State :=
  let s1 := loadBlks s core cmd (fun old j => denseBlk old cmd.ctx bf (64 * (j - n0)) rows scales) []
  let s2 := s1.setCore core (mxEnd (s1.core core) cmd)
  mxPerformed s2 core cmd none

/-- The places of a command's poisoned elements among n of them from a place on, counted from there. -/
def poisIn (cmd : MxCmd) (k n : Nat) : List Nat :=
  (cmd.pois.filter fun e => decide (k ≤ e.1 ∧ e.1 < k + n)).map fun e => e.1 - k

/-- An MXLDB is performed (R309, R316). -/
def doLdb (s : State) (core : Nat) (cmd : MxCmd) (sk : MxKind) (loc nb n0 bf k : Nat) (scl : Bool) : State :=
  let c := s.core core
  let n := 64 * nb
  let b := (mxFmt bf).bits
  let rb := bytesFor b n
  let ns := if scl then (k + 31) / 32 else 0
  let o := loc * 128
  match sk with
  | .port =>
    let bs : List Byte := cmd.buf.map fun x => BitVec.ofNat 8 x
    let rows := if scl ∨ cmd.raw then
        ((pieces rb k bs).map (codesOf b n)).zip ((List.range k).map fun i => badEls b (poisIn cmd (i * rb) rb))
      else (List.range k).map fun i => ((cmd.buf.drop (i * n)).take n, poisIn cmd (i * n) n)
    putDense s core cmd n0 bf rows
      (((pieces n ns (bs.drop (k * rb))).map scaleRow).zip ((List.range ns).map fun i => poisIn cmd (k * rb + i * n) n))
  | .pad =>
    let at_ := (o + k * rb + 63) / 64 * 64
    putDense s core cmd n0 bf ((List.range k).map fun i => (padCodes c (o + i * rb) b n, badEls b (badPad c (o + i * rb) rb)))
      ((List.range ns).map fun i => (scaleRow (c.padN (at_ + i * n) n), badPad c (at_ + i * n) n))
  | .glob =>
    let d := c.padN o 64
    if (d.drop 32).any (fun x => decide (x ≠ 0#8)) then mxBad s core cmd 7 0 o 0 0
    else
      match mxReads s core cmd (recNat d 0 8) (recNat d 8 8) rb k with
      | (.inl (m, va), s1) => mxBad s1 core cmd 1 m va 0 0
      | (.inr rows, s1) =>
        match mxReads s1 core cmd (recNat d 16 8) (recNat d 24 8) n ns with
        | (.inl (m, va), s2) => mxBad s2 core cmd 1 m va 0 0
        | (.inr sc, s2) =>
          putDense s2 core cmd n0 bf (rows.map fun x => (codesOf b n x.1, badEls b x.2)) (sc.map fun x => (scaleRow x.1, x.2))

/-- A fault of the sparse loader: cause, DETAIL, address, group, column. -/
abbrev SpBad := Nat × Nat × Nat × Nat × Nat

/-- Reads bytes of a sparse tile, at an offset from its base: from the pad up to the end of its read set, or from memory. -/
def spRead (s : State) (core : Nat) (cmd : MxCmd) (sg : Bool) (base hi off n g c : Nat) :
    (SpBad ⊕ List Byte × List Nat) × State :=
  if sg then
    match mxRead s core cmd (base + off) n with
    | (.inl (m, va), s1) => (.inl (1, m, va, 0, 0), s1)
    | (.inr x, s1) => (.inr x, s1)
  else if hi < base + off + n then (.inl (2, 0, base + off, g * 0, c * 0), s)
  else (.inr ((s.core core).padN (base + off) n, badPad (s.core core) (base + off) n), s)

/-- The loader over the records that are left (R303, R304), given as (group, column): the records, the offset after them, the
overflow entries. -/
def spLoad (cmd : MxCmd) (core : Nat) (sg ove : Bool) (base hi k d bits kept : Nat) :
    List (Nat × Nat) → State → Nat → List (Byte × Nat × Nat) → (SpBad ⊕ List SpRec × Nat × List (Byte × Nat × Nat)) × State
  | [], s, off, ov => (.inr ([], off, ov), s)
  | (g, c) :: t, s, off, ov =>
    match spRead s core cmd sg base hi off 16 g c with
    | (.inl e, s1) => (.inl e, s1)
    | (.inr (h, p), s1) =>
      let bm := recNat h 0 8
      let cnt := recNat h 8 1
      match recCheck bm cnt g k d (h.drop 9) ove (kept + ov.length) with
      | some det => (.inl (3, det, (base + off) % 2 ^ 64, g, c), s1)
      | none =>
        let len := (cnt + 7) / 8 * 8
        match (if len = 0 then (.inr ([], []), s1) else spRead s1 core cmd sg base hi (off + 16) len g c) with
        | (.inl e, s2) => (.inl e, s2)
        | (.inr (vs, q), s2) =>
          let r : SpRec := { g := g, c := c, pos := (List.range 64).filter fun i => bm.testBit i,
                             val := (vs.take cnt).map fun b => if bits = 4 then b.toNat % 16 else b.toNat
                             bad := if p = [] then q else List.range cnt }
          match spLoad cmd core sg ove base hi k d bits kept t s2 (off + 16 + len) (ov ++ overOf d r) with
          | (.inl e, s3) => (.inl e, s3)
          | (.inr (l, o, v), s3) => (.inr (r :: l, o, v), s3)

/-- The scale rows of a sparse tile. -/
def spScales (s : State) (core : Nat) (cmd : MxCmd) (sg : Bool) (base hi off sva spitch n : Nat) :
    Nat → (SpBad ⊕ List (List Byte × List Nat)) × State
  | 0 => (.inr [], s)
  | b + 1 =>
    match spScales s core cmd sg base hi off sva spitch n b with
    | (.inl e, s1) => (.inl e, s1)
    | (.inr l, s1) =>
      match (if sg then spRead s1 core cmd true (sva + b * spitch) 0 0 n 0 0
          else spRead s1 core cmd false base hi (off + b * n) n 0 0) with
      | (.inl e, s2) => (.inl e, s2)
      | (.inr x, s2) => (.inr (l ++ [x]), s2)

/-- An MXLDBS is performed (R303 to R305, R309, R317). -/
def doLdbs (s : State) (core : Nat) (cmd : MxCmd) (sg : Bool) (loc nb d : Nat) (ove : Bool) (bf k : Nat) : State :=
  let c := s.core core
  let n := 64 * nb
  let o := loc * 128
  let desc := c.padN o 64
  let base := if sg then recNat desc 0 8 else o
  let hi := ((mxRanges cmd.i).1.headD (0, 0)).2
  let kept := (c.mx.ovf.filter fun e => decide (nb ≤ e.2.1 / 64)).length
  let order := (List.range ((k + 63) / 64)).flatMap fun g => (List.range n).map fun x => (g, x)
  if sg ∧ ((desc.drop 32).any (fun x => decide (x ≠ 0#8)) ∨ recNat desc 8 8 ≠ 0) then mxBad s core cmd 7 0 o 0 0
  else
    match spLoad cmd core sg ove base hi k d (mxFmt bf).bits kept order s 0 [] with
    | (.inl (ca, de, ad, g, x), s1) => mxBad s1 core cmd ca de ad g x
    | (.inr (recs, off, ov), s1) =>
      match spScales s1 core cmd sg base hi ((base + off + 63) / 64 * 64 - base) (recNat desc 16 8) (recNat desc 24 8) n
          ((k + 31) / 32) with
      | (.inl (ca, de, ad, _, _), s2) => mxBad s2 core cmd ca de ad 0 0
      | (.inr sc, s2) =>
        let s3 := loadBlks s2 core cmd (fun old j => sparseBlk old cmd.ctx bf k d j recs (sc.map fun x => (scaleRow x.1, x.2))) ov
        mxPerformed (s3.setCore core (mxEnd (s3.core core) cmd)) core cmd (if ove then some (5, 0, ov.length) else none)

/-- The codes of a row of MXST: writeback of its columns, each with its draw, or the poison codes (R320). -/
def stRow (c : Core) (row : Row) (f : Fmt) (rm : Rm) (sm poison : Bool) : List Nat → List Nat × Core
  | [] => ([], c)
  | col :: t =>
    if poison then
      let q := stRow c row f rm sm poison t
      (f.nanCode :: q.1, q.2)
    else
      let d := drawFor rm c.lfsr
      let v := writeback (mget {} row.acc col) row.ranch f rm sm d.1
      let q := stRow { c with lfsr := d.2 } row f rm sm poison t
      (v :: q.1, q.2)

/-- Codes of a format enter a port at the places counted for them (R307): conversion by the port's RM and SM, no flag. -/
def mxPut (c : Core) (cmd : MxCmd) (n : Nat) (f : Fmt) (vs : List Nat) : Core :=
  if mxLost c cmd n then c
  else
    let bf := fmtOf c n
    if bf = 0 then pushCodes c n ((ungroup f.bits vs).map BitVec.toNat)
    else if codeFmt bf = some f then pushCodes c n vs
    else
      let r := convAll c (bankCodec bf) (c.port n).rm (c.port n).sm (vs.map f.decode)
      pushCodes r.2.2 n r.1

/-- Whether a row is written as poison: a discarded command, a poisoned or foreign row, one with an error in a column that is read. -/
def stPoison (cmd : MxCmd) (cols : List Nat) (r : Row) : Bool :=
  cmd.dead || r.poison || r.ue.any (fun c => cols.contains c) || decide (r.tag ≠ cmd.ctx)

/-- The rows of an MXST: their codes, the mask of the rows written as poison, the state after the Foreign records. -/
def stRows (core : Nat) (cmd : MxCmd) (f : Fmt) (rm : Rm) (sm : Bool) (cols : List Nat) :
    List Nat → State → List (List Nat) × Nat × State
  | [], s => ([], 0, s)
  | r :: t, s =>
    let row := (s.core core).mx.rowOf r
    let s1 := if row.tag ≠ cmd.ctx ∧ !cmd.dead then mxFault s core cmd 9 0 0 0 0 else s
    let v := stRow (s1.core core) row f rm sm (stPoison cmd cols row) cols
    let c1 := if row.ue.any (fun c => cols.contains c) && decide (row.tag = cmd.ctx) && !cmd.dead then mxTrigger v.2 cmd.ptag noUnit true else v.2
    let q := stRows core cmd f rm sm cols t (s1.setCore core c1)
    (v.1 :: q.1, (if stPoison cmd cols row then 2 ^ r else 0) + q.2.1, q.2.2)

/-- Writes rows of bytes to the pad, a pitch apart. -/
def putRows (c : Core) (off pitch : Nat) : List (List Byte) → Core
  | [] => c
  | b :: t => putRows (c.putPad off b) (off + pitch) pitch t

/-- An MXST is performed, or a discarded one gives its poison codes to its port (R320, R327). -/
def doSt (s : State) (core : Nat) (cmd : MxCmd) (ps : Bool) (loc acc0 n0 m df : Nat) (rm : Rm) (sm : Bool) (nb : Nat) : State :=
  let f := mxFmt df
  let cols := (List.range (64 * nb)).map fun i => 64 * n0 + i
  let q := stRows core cmd f rm sm cols ((List.range m).map fun i => acc0 + i) s
  let c := q.2.2.core core
  let c1 := if ps then
      putRows c (loc * 1024) (rowPitch f.bits (64 * nb))
        (q.1.map fun l => (ungroup f.bits l ++ List.replicate 64 0#8).take (bytesFor f.bits (64 * nb)))
    else mxPut c cmd loc f q.1.flatten
  let s1 := q.2.2.setCore core (mxEnd c1 cmd)
  if cmd.gone then s1
  else mxPerformed s1 core cmd (if q.2.1 = 0 then none else some (6, 0, q.2.1))

/-- An MXSPILL is performed, or a discarded one gives its records to its port (R326, R327). -/
def doSpill (s : State) (core : Nat) (cmd : MxCmd) (ps : Bool) (loc acc0 m : Nat) : State :=
  let c := s.core core
  let recs := (List.range m).map fun i =>
    let r := c.mx.rowOf (acc0 + i)
    if cmd.dead || decide (r.tag ≠ cmd.ctx) then poisonRec else spillRec r.hurt
  let c1 := if ps then putRows c (loc * 1024) 8704 recs
    else if mxLost c cmd loc then c
    else pushCodes c loc (recs.flatten.map BitVec.toNat)
  let hurt := !cmd.dead && (List.range m).any fun i =>
    decide ((c.mx.rowOf (acc0 + i)).ue ≠ []) && decide ((c.mx.rowOf (acc0 + i)).tag = cmd.ctx)
  let s1 := s.setCore core (mxEnd (if hurt then mxTrigger c1 cmd.ptag noUnit true else c1) cmd)
  if cmd.gone then s1 else mxPerformed s1 core cmd none

/-- The columns of a row that bytes of its record belong to; the bytes after the flags belong to all. -/
def fillBad (l : List Nat) : List Nat :=
  l.flatMap fun y =>
    if y < 8192 then [y / 16] else if y < 8448 then [(y - 8192) * 2, (y - 8192) * 2 + 1] else List.range 512

/-- The records of an MXFILL, row by row, each with the places of its bad bytes (R326). -/
def fillRows (core : Nat) (cmd : MxCmd) (ps : Bool) (loc : Nat) : Nat → List Nat → List (List Byte × List Nat) → State → State
  | i, r :: rs, b :: bs, s =>
    let x := fillRow cmd.ctx b.1
    let c := s.core core
    let s1 := s.setCore core (c.setMx (c.mx.setRow r { x.1 with ue := fillBad b.2 }))
    let s2 := if x.2 then s1 else mxFault s1 core cmd 7 0 (if ps then loc * 1024 + i * 8704 else 0) 0 0
    fillRows core cmd ps loc (i + 1) rs bs s2
  | _, _, _, s => s

/-- An MXFILL is performed (R326). -/
def doFill (s : State) (core : Nat) (cmd : MxCmd) (ps : Bool) (loc acc0 m : Nat) : State :=
  let c := s.core core
  let recs := if ps then (List.range m).map fun i => (c.padN (loc * 1024 + i * 8704) 8704, badPad c (loc * 1024 + i * 8704) 8704)
    else (pieces 8704 m (cmd.buf.map fun x => BitVec.ofNat 8 x)).zip ((List.range m).map fun i => poisIn cmd (i * 8704) 8704)
  let s1 := fillRows core cmd ps loc 0 ((List.range m).map fun i => acc0 + i) recs s
  mxPerformed (s1.setCore core (mxEnd (s1.core core) cmd)) core cmd none

/-- Whether a running command has all that it takes: its elements and its rows. -/
def mxWhole (cmd : MxCmd) : Bool :=
  decide (mxNeed cmd = 0) && (!isRun cmd.i || decide (mOf cmd.i ≤ cmd.row))

/-- The first core with a running command that can be performed, and the command. -/
def toPerform (s : State) : Option (Nat × MxCmd) :=
  match mfind (fun _ c => c.mx.run.any mxWhole) s.cores with
  | none => none
  | some k => ((s.core k).mx.run.find? mxWhole).map fun x => (k, x)

/-- MATRIX_COMMAND_PERFORMED (R313). -/
def execMatrixCommandPerformed (s : State) : Out1 :=
  match toPerform s with
  | none => .next s
  | some (core, cmd) =>
    let fin := s.setCore core (mxEnd (s.core core) cmd)
    .next (match cmd.i with
      | .mxst _ _ _ ps loc acc0 n0 m df rm sm nb =>
        doSt s core cmd ps loc.toNat acc0.toNat n0.toNat (m.toNat + 1) df.toNat rm sm (nb.toNat + 1)
      | .mxspill _ _ _ ps loc acc0 m => doSpill s core cmd ps loc.toNat acc0.toNat (m.toNat + 1)
      | i =>
        if cmd.gone then fin
        else
          match i with
          | .mxldb _ _ _ sk loc nb n0 bf k scl =>
            doLdb s core cmd sk loc.toNat (nb.toNat + 1) n0.toNat bf.toNat (k.toNat + 1) scl
          | .mxldbs _ _ _ sg loc nb dc ove hi bf lo =>
            doLdbs s core cmd sg loc.toNat (nb.toNat + 1) (sparseD dc) ove bf.toNat (sparseK hi lo)
          | .mxfill _ _ _ ps loc acc0 m => doFill s core cmd ps loc.toNat acc0.toNat (m.toNat + 1)
          | _ => mxPerformed fin core cmd none)

end Sys2Proof.Machine
end

