-- ==== Sys2Proof/Machine/Gather.lean ====
section
/-! DEFINITION. The gather and scatter engine (R332 to R355): table descriptors and handles, the gather instructions, the
acceptance of commands, row reads and updates here and on other devices, delivery, ordered epochs, faults and replies. -/

namespace Sys2Proof.Machine

/-! ### Tables (R332 to R335) -/

/-- The bits of an element of a row code. -/
def rcBits (rc : Nat) : Nat := if rc = 0x40 then 8 else if rc = 0x41 then 4 else if rc = 0 then 8 else (mxFmt rc).bits

/-- RB: the bytes of a row (R333). -/
def Desc.rb (d : Desc) : Nat := bytesFor (rcBits d.rcode) d.rlen + (if isEmb d.rcode then 4 else 0)

/-- A descriptor from its 64 bytes (R332). -/
def descOf (b : List Byte) : Desc :=
  let ctl := recNat b 23 1
  { base := recNat b 0 8, pitch := recNat b 8 8, nrows := recNat b 16 4, rlen := recNat b 20 2, rcode := recNat b 22 1,
    dist := ctl % 4, ordered := ctl.testBit 2, v := ctl.testBit 3, rm := ctl / 16 % 8, sm := ctl.testBit 7,
    p := recNat b 24 1, first := recNat b 25 1, home := recNat b 26 1, rspan := recNat b 28 4, gen := recNat b 32 2,
    tid := recNat b 34 2 }

/-- Whether a descriptor breaks R332 or R334 (R342). -/
def descBad (slot : Nat) (b : List Byte) : Bool :=
  let d := descOf b
  decide (recNat b 27 1 ≠ 0) || (b.drop 36).any (fun x => decide (x ≠ 0#8)) || !isBankCode d.rcode
    || decide (d.rlen = 0 ∨ 2048 < d.rlen ∨ d.nrows = 0 ∨ d.pitch < d.rb ∨ 4 < d.rm ∨ d.dist = 3 ∨ d.p = 0 ∨ 64 < d.p
      ∨ 64 < d.first + d.p ∨ 7 < d.home)
    || decide (d.dist = 0 ∧ (d.p ≠ 1 ∨ d.tid ≠ 0))
    || decide (d.dist ≠ 0 ∧ (d.tid = 0 ∨ slot < d.first ∨ d.first + d.p ≤ slot))
    || decide (if d.dist = 2 then d.rspan * d.p < d.nrows else d.rspan ≠ 0)

/-- The member that owns a row, and the row's number there (R334). -/
def ownerOf (d : Desc) (i : Nat) : Nat × Nat :=
  match d.dist with
  | 0 => (0, i)
  | 1 => (i % d.p, i / d.p)
  | _ => (i / d.rspan, i % d.rspan)

/-- Whether this device is the owner of a member's rows. -/
def isHere (s : State) (d : Desc) (m : Nat) : Bool := decide (d.dist = 0 ∨ d.first + m = s.record.slot)

/-- A table handle of a context. -/
def handleOf (s : State) (ctx h : Nat) : Handle := mget {} (s.ctxEnt ctx).handles h

/-- Replaces a table handle. -/
def setHandle (s : State) (ctx h : Nat) (x : Handle) : State :=
  s.setCtxEnt ctx { s.ctxEnt ctx with handles := mput {} (s.ctxEnt ctx).handles h x }

/-- The generations that the device holds: context, handle, descriptor (R335). -/
def bindings (s : State) : List (Nat × Nat × Desc) :=
  (s.ctxTab.flatMap fun e => e.2.handles.flatMap fun h =>
    (h.2.cur.toList ++ h.2.old.toList).map fun d => (e.1, h.1, d))
    ++ (s.ghosts.filter fun g => !g.dead).map fun g => (g.ctx, g.handle, g.d)

/-- The gather commands of the device. -/
def allG (s : State) : List GCmd := s.cores.flatMap fun c => c.2.gcmds

/-- Whether a command has been accepted (R337). -/
def accepted (s : State) (g : GCmd) : Bool :=
  match g.op with
  | .bind _ => false
  | .swap _ => decide ((handleOf s g.ctx g.handle).taken = some (g.core, g.id))
  | .sync => g.ep.isSome
  | _ => g.acc.isSome

/-- The generations that commands still to be accepted will install (R335, R342, R343). -/
def coming (s : State) : List (GCmd × Desc) :=
  (allG s).filterMap fun g => match g.op with
    | .bind (some d) | .swap d => some (g, d)
    | _ => none

/-- The bindings that the device holds or has taken on, each generation once (R335). -/
def heldCount (s : State) : Nat :=
  (bindings s).length + (s.ghosts.filter fun g => g.dead).length + (coming s).length

/-- The unpartitioned table identifiers in use, those of commands on their way included (R342). -/
def tidUsed (s : State) (tid : Nat) : Bool :=
  ((bindings s).map fun e => e.2.2).any (fun d => decide (d.dist ≠ 0 ∧ d.tid = tid))
    || (coming s).any fun x => decide (x.2.dist ≠ 0 ∧ x.2.tid = tid)

/-- The GTBIND of a handle that issued last and is still to be installed. -/
def lastBind (s : State) (ctx h : Nat) : Option GCmd :=
  bestOf (fun a b : GCmd => decide (b.iss < a.iss)) ((allG s).filter fun g => decide (g.ctx = ctx ∧ g.handle = h) &&
    (match g.op with
     | .bind _ => true
     | _ => false))

/-- CUR of a handle as the GTBINDs that have issued leave it: what a command is checked against at issue (R342, R346). -/
def curOf (s : State) (ctx h : Nat) : Option Desc :=
  match lastBind s ctx h with
  | some g => (match g.op with
    | .bind d => d
    | _ => none)
  | none => (handleOf s ctx h).cur

/-- Whether an installed generation is pinned by an accepted command (R339). -/
def pinned (s : State) (d : Desc) : Bool :=
  (allG s).any fun g =>
    (match g.acc with
     | some (e, _, _) => decide (e.uid = d.uid)
     | none => false)

/-! ### The instructions (R340 to R346, R354) -/

/-- The Gather State trap (R354). -/
def gathTrap (reason h : Nat) : Res := .trap 0x12 (dw (reason * 256 + h)) 0

/-- The checks of a descriptor offset: Misaligned, Pad Range (R354). -/
def descAt (s : State) (ra : BitVec 5) (k : List Byte → Res) : Res :=
  let o := (getR s ra.toNat).toNat
  if o % 64 ≠ 0 then .trap 5 (dw o) 0
  else if 0x200000 < o + 64 then .trap 7 (dw o) 0
  else k (s.myCore.padN o 64)

/-- Whether another command on a handle is still to be accepted, or a GTSWAP or GSYNC still to be done. -/
def toAccept (s : State) (ctx h : Nat) : Bool :=
  (allG s).any fun g => decide (g.ctx = ctx ∧ g.handle = h) && (!accepted s g || (match g.op with
    | .swap _ | .sync => true
    | _ => false))

/-- A handle is unbound; its generations stay held until nothing pins them (R342). A killed context's give no reply and are found by
no other device (R335). The buffered updates of the binding, which no GSYNC can apply any more, go. -/
def unbindAt (s : State) (ctx n : Nat) (dead : Bool) : State :=
  let x := handleOf s ctx n
  let gs := (x.cur.toList.map fun d => ({ ctx := ctx, handle := n, d := d, swap := none, dead := dead } : Ghost))
    ++ x.old.toList.map fun d => ({ ctx := ctx, handle := n, d := d, swap := if dead then none else x.swap, dead := dead } : Ghost)
  setHandle { s with ghosts := s.ghosts ++ gs, oupd := s.oupd.filter fun u => decide (u.ctx ≠ ctx ∨ u.handle ≠ n) } ctx n {}

/-- A handle is bound (R342). -/
def bindAt (s : State) (ctx n : Nat) (d : Desc) : State :=
  setHandle { s with gathCtr := s.gathCtr + 1, oupd := s.oupd.filter fun u => decide (u.ctx ≠ ctx ∨ u.handle ≠ n) } ctx n
    { cur := some { d with uid := s.gathCtr } }

/-- What a gather command needs to issue (R336): a slot, a reply reservation but for GTBIND, a range entry if it has ranges. -/
def gathIssue (s : State) (rd wr : List (Nat × Nat)) (g : GCmd) : Res :=
  let c := s.myCore
  let replies := match g.op with
    | .bind _ => false
    | _ => true
  if 8 ≤ c.gcmds.length ∨ (replies = true ∧ 32 ≤ c.resv.length + c.rpl.length)
      ∨ ((rd ≠ [] ∨ wr ≠ []) ∧ 64 ≤ c.rngs.length) then .wait s
  else
    let s1 := publish s
    let n := newItem s1.myCore
    let c1 : Core := { n.2 with
      gcmds := n.2.gcmds ++ [{ g with id := n.1 }]
      resv := if replies then n.2.resv ++ [g.tag] else n.2.resv
      rngs := if rd = [] ∧ wr = [] then n.2.rngs else n.2.rngs ++ [{ id := n.1, rd := rd, wr := wr }] }
    .ok (irrevMe (s1.setMyCore c1))

/-- A gather command of the issuing member, toward the HOME engine of its handle's table (R336). -/
def mkG (s : State) (op : GOp) (home h tag n ri rf : Nat) : GCmd :=
  { op := op, ag := s.cur, id := 0, core := agCore s.cur, ctx := (ctxOf s s.cur).1, gen := (ctxOf s s.cur).2, handle := h,
    tag := tag, n := n, ri := ri, rf := rf, home := home, iss := s.cycle }

/-- GTBIND (R342): checked against the handle as earlier GTBINDs leave it, then a command like any other (R336). -/
def execGtbind (r : Ring) (h rs1 : BitVec 5) (s : State) : Out1 :=
  issue (.gtbind r h rs1) r .noDir (fun s => descAt s rs1 fun b =>
    let d := descOf b
    let n := h.toNat
    match curOf s (ctxOf s s.cur).1 n with
    | none =>
      if !d.v then gathTrap 1 n
      else if d.dist ≠ 0 ∧ tidUsed s d.tid then gathTrap 2 n
      else if 512 ≤ heldCount s then gathTrap 8 n
      else if descBad s.record.slot b then gathTrap 3 n
      else gathIssue s [] [] (mkG s (.bind (some d)) d.home n 0 0 0 0)
    | some cur => if d.v then gathTrap 2 n else gathIssue s [] [] (mkG s (.bind none) cur.home n 0 0 0 0)) s

/-- The new generation of GTSWAP differs from CUR in another field than BASE, PITCH, NROWS and GEN (R343). -/
def swapDiffers (c d : Desc) : Bool :=
  decide ({ d with base := c.base, pitch := c.pitch, nrows := c.nrows, gen := c.gen, uid := c.uid } ≠ c)

/-- GTSWAP (R343). -/
def execGtswap (r : Ring) (h rs1 rs2 : BitVec 5) (s : State) : Out1 :=
  issue (.gtswap r h rs1 rs2) r .noDir (fun s =>
    let n := h.toNat
    let x := handleOf s (ctxOf s s.cur).1 n
    let t := (getR s rs2.toNat).toNat
    if 65535 < t then gathTrap 4 n
    else
      match curOf s (ctxOf s s.cur).1 n with
      | none => gathTrap 1 n
      | some cur =>
        descAt s rs1 fun b =>
          let d := descOf b
          if 512 ≤ heldCount s then gathTrap 8 n
          else if !d.v || descBad s.record.slot b || swapDiffers cur d then gathTrap 3 n
          else if d.gen = cur.gen ∨ (x.old.map fun o => o.gen) = some d.gen then gathTrap 7 n
          else gathIssue s [] [] (mkG s (.swap d) cur.home n t 0 0 0)) s

/-- GSYNC (R341, R349). -/
def execGsync (r : Ring) (h rs2 : BitVec 5) (s : State) : Out1 :=
  issue (.gsync r h rs2) r .noDir (fun s =>
    let n := h.toNat
    let t := (getR s rs2.toNat).toNat
    if 65535 < t then gathTrap 4 n
    else
      match curOf s (ctxOf s s.cur).1 n with
      | none => gathTrap 1 n
      | some d => if !d.ordered then gathTrap 6 n else gathIssue s [] [] (mkG s .sync d.home n t 0 0 0)) s

/-- Whether a range runs past the end of the pad. -/
def pastPad (r : Nat × Nat) : Bool := decide (0x200000 < r.2)

/-- The ranges of a command with their alignments, checked: Misaligned first, then Pad Range (R354). -/
def rangesOk (l : List ((Nat × Nat) × Nat)) (k : Res) : Res :=
  match l.find? fun x => decide (x.1.1 % x.2 ≠ 0) with
  | some x => .trap 5 (dw x.1.1) 0
  | none =>
    match l.find? fun x => pastPad x.1 with
    | some x => .trap 7 (dw x.1.1) 0
    | none => k

/-- The fault area of N elements (R350). -/
def faultArea (rf n : Nat) : Nat × Nat := (rf, rf + 64 * ((n + 511) / 512 + 1))

/-- The pad range of a GATH's destination (R347). -/
def gathDest (c : Core) (d : Desc) (dest n : Nat) : Nat × Nat :=
  let f := c.bankFmt (dest / 8192)
  (dest, dest + if f = 0 ∨ d.rcode = 0 then n * d.rb else bytesFor (elBits f) (n * d.rlen))

/-- Whether a port does not take a gather (R346). -/
def badGathPort (c : Core) (n : Nat) : Bool :=
  decide ((c.port n).st ≠ .run ∨ (c.port n).src ≠ .gath) || (c.port n).fork || (c.port n).closing

/-- The counts of a command are illegal (R345). -/
def badCount (v : DWord) (bags : Bool) : Bool :=
  let n := v.toNat % 8192
  let b := v.toNat / 65536 % 8192
  if bags then decide (n = 0 ∨ 4096 < n ∨ b = 0 ∨ 4096 < b ∨ v.toNat ≠ b * 65536 + n)
  else decide (n = 0 ∨ 4096 < n ∨ v.toNat ≠ n)

/-- GATH (R344 to R347). -/
def execGath (r : Ring) (ri rn rf h : BitVec 5) (dk : Bool) (port rp : BitVec 5) (fz : Bool) (tag : BitVec 16) (s : State) :
    Out1 :=
  issue (.gath r ri rn rf h dk port rp fz tag) r .noDir (fun s =>
    let hn := h.toNat
    let c := projected s.myCore
    let v := getR s rn.toNat
    let n := v.toNat
    let x := (getR s ri.toNat).toNat
    let f := (getR s rf.toNat).toNat
    let dest := (getR s rp.toNat).toNat
    if badCount v false then gathTrap 4 hn
    else
      match curOf s (ctxOf s s.cur).1 hn with
      | none => gathTrap 1 hn
      | some d =>
        let fa := faultArea f n
        let dr := gathDest c d dest n
        let bad := meetsOpen c fa ||
          (if dk then decide (dest % 64 ≠ 0) || mixedBanks c (clipRange dr) || isEmb (c.bankFmt (dest / 8192)) || meetsOpen c dr
              || setsMeet [fa] [dr]
           else badGathPort c port.toNat)
        if bad then gathTrap 5 hn
        else
          rangesOk ([((x, x + 4 * n), 4)] ++ (if dk then [(dr, 64)] else []) ++ [(fa, 64)])
            (if !dk && pendingOn s.myCore port.toNat then .wait s
             else gathIssue s [(x, x + 4 * n)] (fa :: if dk then [dr] else [])
               (mkG s (.gath dk fz (if dk then dest else port.toNat)) d.home hn tag.toNat n x f))) s

/-- GATHP (R344 to R347). -/
def execGathp (r : Ring) (ri rn rf h : BitVec 5) (mean : Bool) (port rb : BitVec 5) (fz : Bool) (tag : BitVec 16)
    (s : State) : Out1 :=
  issue (.gathp r ri rn rf h mean port rb fz tag) r .noDir (fun s =>
    let hn := h.toNat
    let c := projected s.myCore
    let v := getR s rn.toNat
    let n := v.toNat % 8192
    let nb := v.toNat / 65536 % 8192
    let x := (getR s ri.toNat).toNat
    let f := (getR s rf.toNat).toNat
    let bv := (getR s rb.toNat).toNat
    if badCount v true then gathTrap 4 hn
    else
      match curOf s (ctxOf s s.cur).1 hn with
      | none => gathTrap 1 hn
      | some d =>
        let fa := faultArea f n
        if d.rcode = 0 then gathTrap 6 hn
        else if meetsOpen c fa || badGathPort c port.toNat then gathTrap 5 hn
        else
          rangesOk [((x, x + 4 * n), 4), ((bv, bv + 2 * nb), 2), (fa, 64)]
            (if pendingOn s.myCore port.toNat then .wait s
             else gathIssue s [(x, x + 4 * n), (bv, bv + 2 * nb)] [fa]
               (mkG s (.gathp mean fz port.toNat bv nb) d.home hn tag.toNat n x f))) s

/-- The bits of an element of a scatter's source region (R348): bytes for a raw table; for a raw bank the table's own format
(R50). -/
def srcBits (sf : Nat) (d : Desc) : Nat := if d.rcode = 0 then 8 else if sf = 0 then rcBits d.rcode else elBits sf

/-- The pad range of n elements of a scatter's source: whole lines where the banks hold lines of R49. -/
def srcRange (sf : Nat) (d : Desc) (src n : Nat) : Nat × Nat :=
  (src, src + if d.rcode ≠ 0 ∧ isEmb sf then (n + epl sf - 1) / epl sf * 64 else bytesFor (srcBits sf d) n)

/-- SCAT and SCATA (R344 to R346, R348). -/
def scatter (i : Instr) (r : Ring) (ri rn rf h rs : BitVec 5) (tag : BitVec 16) (add : Bool) (s : State) : Out1 :=
  issue i r .noDir (fun s =>
    let hn := h.toNat
    let c := projected s.myCore
    let v := getR s rn.toNat
    let n := v.toNat
    let x := (getR s ri.toNat).toNat
    let f := (getR s rf.toNat).toNat
    let src := (getR s rs.toNat).toNat
    if badCount v false then gathTrap 4 hn
    else
      match curOf s (ctxOf s s.cur).1 hn with
      | none => gathTrap 1 hn
      | some d =>
        let fa := faultArea f n
        let sr := srcRange (c.bankFmt (src / 8192)) d src (n * d.rlen)
        if isEmb d.rcode ∨ (add ∧ d.rcode = 0) then gathTrap 6 hn
        else if meetsOpen c fa || meetsOpen c sr || mixedBanks c (clipRange sr) then gathTrap 5 hn
        else
          rangesOk [((x, x + 4 * n), 4), (sr, 64), (fa, 64)]
            (gathIssue s [(x, x + 4 * n), sr] [fa] (mkG s (if add then .scata src else .scat src) d.home hn tag.toNat n x f))) s

/-- SCAT (R348). -/
def execScat (r : Ring) (ri rn rf h rs : BitVec 5) (tag : BitVec 16) (s : State) : Out1 :=
  scatter (.scat r ri rn rf h rs tag) r ri rn rf h rs tag false s

/-- SCATA (R348). -/
def execScata (r : Ring) (ri rn rf h rs : BitVec 5) (tag : BitVec 16) (s : State) : Out1 :=
  scatter (.scata r ri rn rf h rs tag) r ri rn rf h rs tag true s

/-! ### Acceptance (R337) -/

/-- Replaces a gather command of a core, by its item. -/
def setG (s : State) (core : Nat) (g : GCmd) : State :=
  let c := s.core core
  s.setCore core { c with gcmds := c.gcmds.map fun x => if x.id = g.id then g else x }

/-- Removes a gather command of a core. -/
def endG (s : State) (core : Nat) (g : GCmd) : State :=
  let c := s.core core
  s.setCore core { c with gcmds := c.gcmds.filter fun x => decide (x.id ≠ g.id) }

/-- Whether a command is a GTBIND. -/
def isBind : GOp → Bool
  | .bind _ => true
  | _ => false

/-- Whether a command waits for a GTBIND on its handle that issued before it, or a GTBIND for an earlier command on the handle: a
binding changes at every engine of the device at once (R353). -/
def bindWait (s : State) (g : GCmd) : Bool :=
  (allG s).any fun x => decide (x.ctx = g.ctx ∧ x.handle = g.handle ∧ x.iss < g.iss) && (isBind x.op || isBind g.op) && !accepted s x

/-- Whether an earlier command of the same core for the same engine, of those that satisfy p, is still to be accepted (R337). -/
def behind (s : State) (g : GCmd) (p : GCmd → Bool) : Bool :=
  ((s.core g.core).gcmds.takeWhile fun x => decide (x.id ≠ g.id)).any fun x => decide (x.home = g.home) && p x && !accepted s x

/-- Whether a command arrived earlier at the same engine and is still to be accepted; one that a GTBIND holds back has not
arrived (R337). -/
def laterThan (s : State) (g : GCmd) : Bool :=
  (allG s).any fun x => decide (x.home = g.home ∧ x.arr.isSome ∧ x.arr.getD 0 < g.arr.getD 0) && !accepted s x && !bindWait s x
    && !behind s x (bindWait s)

/-- Whether a command of a core can be accepted now: it has arrived, its engine has accepted what came before it, and its handle is
free; a GTSWAP that waits goes on when OLD has been dropped, also while a GSYNC waits for it. -/
def canAccept (s : State) (core : Nat) (g : GCmd) : Bool :=
  let h := handleOf s g.ctx g.handle
  let free := decide (h.hold = false ∧ h.taken = none)
  g.arr.isSome && !bindWait s g && !behind s g (fun _ => true) && (isBind g.op || !laterThan s g)
    && (match g.op with
        | .bind _ => free && !((allG s).any fun x => decide (x.ctx = g.ctx ∧ x.handle = g.handle ∧ x.op = .sync) && x.ep.isSome)
        | .swap _ => free || decide (h.taken = some (core, g.id) ∧ h.old = none)
        | .sync => g.ep.isNone && free
            && !((allG s).any fun x => decide (x.ctx = g.ctx ∧ x.handle = g.handle ∧ x.op = .sync) && x.ep.isSome)
        | _ => g.acc.isNone && free)

/-- The command that has arrived first of those that can be accepted (R337). -/
def nextAccept (s : State) : Option (Nat × GCmd) :=
  (bestOf (fun a b : GCmd => decide (a.arr.getD 0 < b.arr.getD 0)) ((allG s).filter fun g => canAccept s g.core g)).map fun g => (g.core, g)

/-- A gather command arrives at its engine when the Second has matched it (R336). -/
def arriveG (s : State) (core id : Nat) : State :=
  let c := s.core core
  if c.gcmds.any fun g => decide (g.id = id) then
    s.setCore core { c with gcmds := c.gcmds.map fun g => if g.id = id then { g with arr := some s.cycle } else g }
  else s

/-- n little-endian values of a size at a pad offset. -/
def padVals (c : Core) (off size n : Nat) : List Nat := (List.range n).map fun i => leNat (c.padN (off + i * size) size)

/-- Marks every element of a command faulting (Bag Mismatch, R347). -/
def allFault (s : State) (g : GCmd) : GCmd :=
  { g with next := g.n, faults := (List.range g.n).map fun j => (j, { code := 8, mfc := 0, slot := s.record.slot, va := 0 }) }

/-- A command is accepted (R337, R343, R349). -/
def acceptG (s : State) (core : Nat) (g : GCmd) : State :=
  let h := handleOf s g.ctx g.handle
  match g.op with
  | .bind none => endG (unbindAt s g.ctx g.handle false) core g
  | .bind (some d) => endG (bindAt s g.ctx g.handle d) core g
  | .swap d =>
    if h.old = none then
      endG (setHandle { s with gathCtr := s.gathCtr + 1 } g.ctx g.handle
        { h with old := h.cur, cur := some { d with uid := s.gathCtr }, swap := some (g.tag, core), taken := none }) core g
    else setHandle s g.ctx g.handle { h with taken := some (core, g.id) }
  | .sync =>
    setG (setHandle s g.ctx g.handle { h with sepoch := h.epoch + 1 }) core { g with ep := some h.epoch }
  | _ =>
    match h.cur with
    | none => endG s core g
    | some d =>
      let seq := (h.seq + 1) % 2 ^ 32
      setG { setHandle s g.ctx g.handle { h with seq := seq } with gathCtr := s.gathCtr + 1 } core
        { g with acc := some (d, seq, h.sepoch), ord := s.gathCtr }

/-- Whether an accepted command can read its index vector: no earlier command holds it back (R30, R338). -/
def canLoad (c : Core) (g : GCmd) : Bool := g.acc.isSome && !g.rdy && !rngBlocked c g.id

/-- An accepted command reads its index vector, and its bag vector (R338, R347). -/
def loadG (s : State) (core : Nat) (g : GCmd) : State :=
  let c := s.core core
  let g1 := { g with rdy := true, idx := padVals c g.ri 4 g.n }
  setG s core (match g.op with
    | .gathp _ _ _ bv nb =>
      let b := padVals c bv 2 nb
      if b.sum ≠ g.n then { allFault s g1 with bags := b, bagBad := true } else { g1 with bags := b }
    | _ => g1)

/-- GATHER_ACCEPT (R337). -/
def execGatherAccept (s : State) : Out1 :=
  match nextAccept s with
  | none => .next s
  | some (core, g) => .next (acceptG s core g)

/-! ### Rows at their owner (R338, R348) -/

/-- The physical addresses of n bytes, page by page, or the first failure with its address. -/
def xlateLong (core ctx : Nat) (gen : BitVec 16) (w : Bool) : Nat → State → Nat → Nat → (Nat × Nat ⊕ List Nat) × State
  | 0, s, _, _ => (.inr [], s)
  | f + 1, s, va, n =>
    if n = 0 then (.inr [], s)
    else
      let k := min n (4096 - va % 4096)
      match xlateEngN s core ctx gen va k w with
      | (.inl e, s1) => (.inl e, s1)
      | (.inr a, s1) =>
        match xlateLong core ctx gen w f s1 ((va + k) % 2 ^ 64) (n - k) with
        | (.inl e, s2) => (.inl e, s2)
        | (.inr b, s2) => (.inr (a ++ b), s2)

/-- The core on whose path an engine translates: the first of its die (R75). -/
def engCore (home : Nat) : Nat := 384 + home / 4

/-- The physical addresses of a row under a descriptor, or its fault: code, MFC, address (R338, R351). -/
def rowAt (s : State) (ctx : Nat) (d : Desc) (l : Nat) (w : Bool) : (Nat × Nat × Nat ⊕ List Nat) × State :=
  match xlateLong (engCore d.home) ctx (s.ctxEnt ctx).gen w 4 s ((d.base + l * d.pitch) % 2 ^ 64) d.rb with
  | (.inl (m, va), s1) => (.inl (1, m, va), s1)
  | (.inr pas, s1) => (.inr pas, s1)

/-- A row read (R338, R351): the bytes or the fault. -/
def readRow (s : State) (ctx : Nat) (d : Desc) (l : Nat) : (Nat × Nat × Nat ⊕ List Byte) × State :=
  match rowAt s ctx d l false with
  | (.inl e, s1) => (.inl e, s1)
  | (.inr pas, s1) => if (poisonAt s1 pas).isSome then (.inl (6, 0, 0), foundError s1) else (.inr (pas.map (memByte s1)), s1)

/-- The values of a coded row (R333). -/
def rowValues (rc rlen : Nat) (bs : List Byte) : List Num :=
  let codes := codesOf (rcBits rc) rlen bs
  let k := bytesFor (rcBits rc) rlen
  let h (o : Nat) : Num := (Fmt.fp 11 5).decode (recNat bs o 2)
  if rc = 0x40 then codes.map fun x => embValue ((Fmt.int 8 true).decode x) (h k) (h (k + 2))
  else if rc = 0x41 then codes.map fun x => embValue ((Fmt.int 4 true).decode x) (h k) (h (k + 2))
  else codes.map (mxFmt rc).decode

/-- A draw of an owner's engine: of the LFSR of the issuing core, or a free value where no core of this device issued the update
(R54). -/
def ownerDraw (s : State) (core : Option Nat) : Nat × State :=
  match core with
  | some k =>
    let d := lfsrDraw (s.core k).lfsr
    (d.1, s.setCore k { s.core k with lfsr := d.2 })
  | none => (Config.freeNat s.free % 256, { s with free := s.free + 1 })

/-- Values converted into a row's format, each with its draw (R348). -/
def rowCodes (core : Option Nat) (f : Fmt) (rm : Rm) (sm : Bool) : State → List Num → List Nat × State
  | s, [] => ([], s)
  | s, v :: t =>
    let d := if rm = .rsr then ownerDraw s core else (0, s)
    let q := rowCodes core f rm sm d.2 t
    ((convert v f rm sm d.1).1 :: q.1, q.2)

/-- The bytes of a row from its codes; half a byte beyond the last element keeps its old value. -/
def rowBytes (bits : Nat) (codes : List Nat) (old : List Byte) : List Byte :=
  if bits = 4 ∧ codes.length % 2 = 1 then ungroup 4 (codes ++ [(old.getLastD 0#8).toNat / 16]) else ungroup bits codes

/-- The member whose command writes: agent, context, generation, and the tag of the command's reply (R81). -/
abbrev Writer := Option (Nat × Nat × BitVec 16 × Nat)

/-- Writes the bytes of a row; they are no stores of the command's member (R81), and poisoned if its source is (R465). -/
def putRow (who : Writer) (bad : Bool) (s : State) (bs : List (Nat × Byte)) : State :=
  taintMem (match who with
    | some (ag, ctx, gen, tag) => veilWrite s ag ctx gen (some tag) bs (putBytes s bs)
    | none => putBytes s bs) bad (bs.map fun x => x.1)

/-- The values of the codes of a source row (R348): those of banks of format 0x40 or 0x41 stand with their SCALE and OFFSET
(R49). -/
def srcValues (sf : Nat) (f : Fmt) : List Nat → List Num
  | x :: a :: b :: t =>
    if isEmb sf then
      let h := (Fmt.fp 11 5).decode
      embValue ((if sf = 0x40 then Fmt.int 8 true else Fmt.int 4 true).decode x) (h a) (h b) :: srcValues sf f t
    else (x :: a :: b :: t).map (if sf = 0 then f else mxFmt sf).decode
  | l => l.map (if sf = 0 then f else mxFmt sf).decode

/-- An update of a row with its source row (R348): the fault, or the state with the row written. -/
def applyRow (s : State) (ctx : Nat) (d : Desc) (l : Nat) (core : Option Nat) (who : Writer) (bad add : Bool) (sf : Nat)
    (src : List Nat) : (Nat × Nat × Nat) ⊕ State :=
  match rowAt s ctx d l true with
  | (.inl e, _) => .inl e
  | (.inr pas, s1) =>
    if add && (poisonAt s1 pas).isSome then .inl (6, 0, 0)
    else
      let old := pas.map (memByte s1)
      let put (s : State) (bs : List Byte) : State := putRow who bad s (pas.zip bs)
      if d.rcode = 0 then .inr (put s1 (src.map (BitVec.ofNat 8)))
      else
        let f := mxFmt d.rcode
        let sv := srcValues sf f src
        if !add && decide (sf = 0) then .inr (put s1 (rowBytes f.bits src old))
        else
          let rm := rmOf d.rm
          let vals := if add then List.zipWith (fun a b => (a.add (decide (rm = .rdn)) b).1) (rowValues d.rcode d.rlen old) sv
            else sv
          let r := rowCodes core f rm d.sm s1 vals
          .inr (put r.2 (rowBytes f.bits r.1 old))

/-! ### GATHER_ROW_RETURN, GATHER_PEER_REQUEST, PEER_UNREACHABLE -/

/-- Marks an element faulting. -/
def faultEl (g : GCmd) (j code mfc slot va : Nat) : GCmd :=
  { g with faults := mset g.faults j { code := code, mfc := mfc, slot := slot, va := va } }

/-- Whether a command reads rows, or updates them. -/
def isScat : GOp → Bool
  | .scat _ | .scata _ => true
  | _ => false

/-- Whether a command gathers. -/
def isGath : GOp → Bool
  | .gath _ _ _ | .gathp _ _ _ _ _ => true
  | _ => false

/-- Ships element j of a command to the owner's slot (R338): the request and its record. -/
def shipEl (s : State) (core : Nat) (g : GCmd) (j slot : Nat) (data : List Nat) : State :=
  let id := s.preqCtr
  let s1 := sendFlit { s with preqCtr := id + 1,
                              preqs := s.preqs ++ [{ id := id, slot := slot, at_ := s.cycle, ag := none, gath := some (core, g.id, j) }] }
    1 slot (id :: data)
  setG s1 core { g with ship := mset g.ship j s.cycle, next := j + 1 }

/-- The next element of a command: its index, its owner's slot, whether it lies here, its row there. -/
def nextEl (s : State) (g : GCmd) (d : Desc) : Nat × Nat × Bool × Nat :=
  let i := g.idx.getD g.next 0
  let o := ownerOf d i
  (i, d.first + o.1, isHere s d o.1, o.2)

/-- Whether a command has an element to go on with. -/
def elReady (g : GCmd) : Bool := g.acc.isSome && g.rdy && decide (g.next < g.n)

/-- The next element of a GATH or GATHP (R338). -/
def gathEl (s : State) (core : Nat) (g : GCmd) : State :=
  match g.acc with
  | none => s
  | some (d, _, _) =>
    let (i, slot, here, l) := nextEl s g d
    let g1 := { g with next := g.next + 1 }
    if d.nrows ≤ i then setG s core (faultEl g1 g.next 2 0 s.record.slot i)
    else if here then
      match readRow s g.ctx d l with
      | (.inl (c, m, va), s1) => setG s1 core (faultEl g1 g.next c m s.record.slot va)
      | (.inr bs, s1) => setG s1 core { g1 with rows := mset g.rows g.next bs }
    else if !routeUp s slot then setG s core (faultEl g1 g.next 5 0 slot 0)
    else shipEl s core g g.next slot [1, d.tid, d.gen, i]

/-- A returned row, or a fault, of another device is merged (R338). -/
def mergeRet (s : State) (core cmd j st : Nat) (rest : List Nat) : State :=
  match (s.core core).gcmds.find? fun g => decide (g.id = cmd) with
  | none => s
  | some g =>
    let slot := match g.acc with
      | some (d, _, _) => d.first + (ownerOf d (g.idx.getD j 0)).1
      | none => 0
    let g1 := { g with ship := mdel g.ship j }
    setG s core (if st ≠ 0 then faultEl g1 j st (rest.headD 0) slot (rest.getD 1 0)
      else if isGath g.op then { g1 with rows := mset g.rows j (rest.map (BitVec.ofNat 8)) } else g1)

/-- The fill value of a faulting element (R347). -/
def fillNum (fz : Bool) : Num := if fz then .fin false 0 1 else .nan

/-- The values of element j of a command: its row, or its fill. -/
def elValues (g : GCmd) (d : Desc) (fz : Bool) (j : Nat) : List Num :=
  match mfind (fun k _ => decide (k = j)) g.faults with
  | some _ => List.replicate d.rlen (fillNum fz)
  | none => rowValues d.rcode d.rlen (mget [] g.rows j)

/-- The bytes of element j, copied raw. -/
def elBytes (g : GCmd) (d : Desc) (j : Nat) : List Byte :=
  match mfind (fun k _ => decide (k = j)) g.faults with
  | some _ => List.replicate d.rb 0#8
  | none => mget [] g.rows j

/-- A value rounded into binary32 under RNE, an overflow giving an infinity (R347). -/
def rne32 (v : Num) : Num := f32.decode (convert v f32 .rne true 0).1

/-- The pooled values of a bag whose elements start at j (R347). -/
def poolBag (g : GCmd) (d : Desc) (mean fz : Bool) (j n : Nat) : List Num :=
  if g.bagBad then List.replicate d.rlen (fillNum fz)
  else if n = 0 then List.replicate d.rlen (.fin false 0 1)
  else
    let rows := (List.range n).map fun e => (elValues g d fz (j + e)).map rne32
    let sum := rows.tail.foldl (fun a r => List.zipWith (fun x y => rne32 (x.add false y).1) a r) (rows.headD [])
    if mean then sum.map fun x => rne32 (x.div (.fin false n 1)).1 else sum

/-- Whether elements j to k − 1 of a command have come back or faulted. -/
def haveEls (g : GCmd) (j k : Nat) : Bool :=
  (List.range (k - j)).all fun e =>
    decide (j + e < g.next) && (mfind (fun x _ => decide (x = j + e)) g.ship).isNone

/-- The rows or bags that a command delivers. -/
def outCount (g : GCmd) : Nat :=
  match g.op with
  | .gath _ _ _ => g.n
  | .gathp _ _ _ _ nb => nb
  | _ => 0

/-- The first element of bag b. -/
def bagStart (g : GCmd) (b : Nat) : Nat := (g.bags.take b).sum

/-- Whether the next row or bag is complete. -/
def outReady (g : GCmd) : Bool :=
  match g.op with
  | .gath _ _ _ => haveEls g g.out (g.out + 1)
  | .gathp _ _ _ _ _ => g.rdy && (g.bagBad || haveEls g (bagStart g g.out) (bagStart g (g.out + 1)))
  | _ => false

/-- The destination port of a command. -/
def gathPort (g : GCmd) : Option Nat :=
  match g.op with
  | .gath false _ p => some p
  | .gathp _ _ p _ _ => some p
  | _ => none

/-- Whether an earlier accepted command still delivers to the same port (R347). -/
def portBusy (c : Core) (g : GCmd) : Bool :=
  match gathPort g with
  | none => false
  | some p => c.gcmds.any fun x => decide (gathPort x = some p ∧ x.ord < g.ord) && x.acc.isSome
      && decide (x.out < outCount x ∨ x.pend ≠ [])

/-- The units that a port's fill side can take now. -/
def freeUnits (c : Core) (n : Nat) : Nat :=
  (freedTo c n / epl (fmtOf c n) + bufLines (c.port n)) * epl (fmtOf c n) - (c.port n).wr

/-- Whether a port takes no more of a gather. -/
def gathGone (c : Core) (n : Nat) : Bool := decide ((c.port n).st = .closed ∨ (c.port n).src ≠ .gath) || (c.port n).fend

/-- Whether a command can deliver something now. -/
def canDeliver (c : Core) (g : GCmd) : Bool :=
  isGath g.op && g.acc.isSome && !portBusy c g &&
    (if g.pend ≠ [] then
       (match gathPort g with
        | some p => gathGone c p || decide (0 < freeUnits c p)
        | none => true)
     else decide (g.out < outCount g) && outReady g)

/-- Values of a row or bag on their way to a port: converted by the port's RM and SM (R201, R347). -/
def toPortCodes (c : Core) (p : Nat) (vals : List Num) : List Nat × Core :=
  let r := convAll c (bankCodec (fmtOf c p)) (c.port p).rm (c.port p).sm vals
  (r.1, r.2.2)

/-- Writes codes of a bank format as elements i on of a pad region. -/
def putPadCodes (c : Core) (off fmt i : Nat) : List Nat → Core
  | [] => c
  | v :: t => putPadCodes (putLineEl c off fmt i v) off fmt (i + 1) t

/-- The next row or bag of a command enters the pad, or the list of what its port still takes (R347). -/
def deliverRow (s : State) (core : Nat) (g : GCmd) (d : Desc) : State :=
  let c := s.core core
  let g1 := { g with out := g.out + 1 }
  match g.op with
  | .gath true fz dest =>
    let f := c.bankFmt (dest / 8192)
    let c1 := if f = 0 ∨ d.rcode = 0 then c.putPad (dest + g.out * d.rb) (elBytes g d g.out)
      else putPadCodes c dest f (g.out * d.rlen) ((elValues g d fz g.out).map fun v => (convert v (bankCodec f) .rne false 0).1)
    setG (s.setCore core c1) core g1
  | .gath false fz p =>
    let f := fmtOf c p
    if f = 0 then setG s core { g1 with pend := (elBytes g d g.out).map BitVec.toNat }
    else if d.rcode = 0 then
      let all := g.part ++ elBytes g d g.out
      let u := if elBits f = 4 then 1 else elBits f / 8
      let k := if g1.out = g.n then (all.length + u - 1) / u * u else all.length / u * u
      setG s core { g1 with pend := groupBytes (elBits f) ((all ++ List.replicate u 0#8).take k), part := all.drop k }
    else
      let r := toPortCodes c p (elValues g d fz g.out)
      setG (s.setCore core r.2) core { g1 with pend := r.1 }
  | .gathp mean fz p _ _ =>
    let vals := poolBag g d mean fz (bagStart g g.out) (g.bags.getD g.out 0)
    if fmtOf c p = 0 then
      setG s core { g1 with pend := vals.flatMap fun v => (leBytes 4 (convert v f32 .rne true 0).1).map BitVec.toNat }
    else
      let r := toPortCodes c p vals
      setG (s.setCore core r.2) core { g1 with pend := r.1 }
  | _ => s

/-- A command delivers (R347): what its port has room for, or its next row or bag. -/
def deliver (s : State) (core : Nat) (g : GCmd) : State :=
  let c := s.core core
  if g.pend ≠ [] then
    match gathPort g with
    | none => setG s core { g with pend := [] }
    | some p =>
      if gathGone c p then setG s core { g with pend := [] }
      else
        let k := freeUnits c p
        setG (s.setCore core (pushCodes c p (g.pend.take k))) core { g with pend := g.pend.drop k }
  else
    match g.acc with
    | none => s
    | some (d, _, _) => deliverRow s core g d

/-- The first core with a command that can deliver, or whose next element can go on. -/
def gathGo (s : State) : Option (Nat × GCmd) :=
  let ok (c : Core) (g : GCmd) : Bool := canDeliver c g || (isGath g.op && (elReady g || canLoad c g))
  match mfind (fun _ c => c.gcmds.any (ok c)) s.cores with
  | none => none
  | some k => ((s.core k).gcmds.find? (ok (s.core k))).map fun g => (k, g)

/-- GATHER_ROW_RETURN (R338, R347): a row of another device is merged, or a command delivers, or its next element is read or
shipped. -/
def execGatherRowReturn (s : State) : Out1 :=
  match s.gathRet with
  | (core, cmd, j, st, rest) :: t => .next (mergeRet { s with gathRet := t } core cmd j st rest)
  | [] =>
    match gathGo s with
    | none => .next s
    | some (core, g) =>
      .next (if canDeliver (s.core core) g then deliver s core g else if canLoad (s.core core) g then loadG s core g else gathEl s core g)

/-- The binding that a request of another device names: its context and handle with the descriptor, or the fault code
(R338, R351). -/
def findBinding (s : State) (tid gen : Nat) : Nat ⊕ Nat × Nat × Desc :=
  let l := (bindings s).filter fun e => decide (e.2.2.dist ≠ 0 ∧ e.2.2.tid = tid)
  if l = [] then .inl 4
  else
    match l.find? fun e => decide (e.2.2.gen = gen) with
    | some e => .inr e
    | none => .inl 3

/-- The first request of another device of a kind. -/
def peerWants (s : State) (kind : Nat) : Option (Nat × List Nat) :=
  s.gathIn.find? fun x => decide (x.2.getD 1 0 = kind) 

/-- GATHER_PEER_REQUEST (R338): the owner reads the row of a shipped index and returns it, or its fault. -/
def execGatherPeerRequest (s : State) : Out1 :=
  match peerWants s 1 with
  | none => .next s
  | some (slot, data) =>
    let s0 := { s with gathIn := s.gathIn.erase (slot, data) }
    match data with
    | id :: _ :: tid :: gen :: i :: _ =>
      (match findBinding s tid gen with
       | .inl code => .next (sendBack s0 slot [id, code, 0, 0])
       | .inr (ctx, _, d) =>
         match readRow s0 ctx d (ownerOf d i).2 with
         | (.inl (c, m, va), s1) => .next (sendBack s1 slot [id, c, m, va])
         | (.inr bs, s1) => .next (sendBack s1 slot (id :: 0 :: bs.map BitVec.toNat)))
    | _ => .next s0

/-- The first shipped element that has had no answer for 2^20 cycles, or whose route is down (R338, R423). -/
def deadShip (s : State) : Option PeerReq :=
  s.preqs.find? fun q => decide (q.gath ≠ none) && (!routeUp s q.slot || decide (q.at_ + 2 ^ 20 ≤ s.cycle))

/-- PEER_UNREACHABLE (R338, R351). -/
def execPeerUnreachable (s : State) : Out1 :=
  match deadShip s with
  | none => .next s
  | some q =>
    let s1 := { s with preqs := s.preqs.filter fun x => decide (x.id ≠ q.id) }
    match q.gath with
    | none => .next s1
    | some (core, cmd, j) => .next (mergeRet s1 core cmd j 5 [0, 0])

/-! ### SCATTER_UPDATE (R348, R349) -/

/-- The operation of a scatter. -/
def isAdd : GOp → Bool
  | .scata _ => true
  | _ => false

/-- The source region of a scatter. -/
def srcAt : GOp → Nat
  | .scat o | .scata o => o
  | _ => 0

/-- The codes of source row j of a scatter (R348). -/
def srcRow (c : Core) (g : GCmd) (d : Desc) (j : Nat) : Nat × List Nat :=
  let o := srcAt g.op
  let sf := c.bankFmt (o / 8192)
  if d.rcode ≠ 0 ∧ isEmb sf then
    (sf, (List.range d.rlen).flatMap fun i =>
      let e := j * d.rlen + i
      let off := o + e / epl sf * 64
      [lineEl c off sf (e % epl sf), leNat (c.padN (off + 60) 2), leNat (c.padN (off + 62) 2)])
  else
  let w := srcBits sf d
  let b0 := j * d.rlen * w / 8
  let b1 := ((j + 1) * d.rlen * w + 7) / 8
  let l := groupBytes w (c.padN (o + b0) (b1 - b0))
  (sf, (l.drop (if w = 4 ∧ j * d.rlen % 2 = 1 then 1 else 0)).take d.rlen)

/-- Whether source row j of a scatter is poisoned (R465). -/
def srcBad (c : Core) (g : GCmd) (d : Desc) (j : Nat) : Bool :=
  let o := srcAt g.op
  let sf := c.bankFmt (o / 8192)
  let lo := j * d.rlen
  let b0 := if d.rcode ≠ 0 ∧ isEmb sf then lo / epl sf * 64 else lo * srcBits sf d / 8
  let b1 := if d.rcode ≠ 0 ∧ isEmb sf then (lo + d.rlen + epl sf - 1) / epl sf * 64 else ((lo + d.rlen) * srcBits sf d + 7) / 8
  (padPoison c (o + b0) (b1 - b0)).isSome

/-- The order buffer's capacity (R349). -/
def orderCap : Nat := 65536

/-- A row update at its owner: applied, or buffered in an ORDERED table, or its fault (R348, R349). -/
def updateRow (s : State) (u : OUpd) (who : Writer) : (Nat × Nat × Nat) ⊕ State :=
  let l := (ownerOf u.d u.row).2
  if u.d.ordered then
    if orderCap ≤ s.oupd.length then .inl (7, 0, 0)
    else
      match rowAt s u.ctx u.d l true with
      | (.inl e, _) => .inl e
      | (.inr _, s1) => .inr { s1 with oupd := s1.oupd ++ [u] }
  else applyRow s u.ctx u.d l u.core who u.bad u.add u.fmt u.data

/-- The next element of a SCAT or SCATA; a write of another generation than its context's is discarded (R97). -/
def scatEl (s : State) (core : Nat) (g : GCmd) : State :=
  match g.acc with
  | none => s
  | some (d, seq, ep) =>
    let (i, slot, here, _) := nextEl s g d
    let g1 := { g with next := g.next + 1 }
    let r := srcRow (s.core core) g d g.next
    if d.nrows ≤ i then setG s core (faultEl g1 g.next 2 0 s.record.slot i)
    else if (s.ctxEnt g.ctx).gen ≠ g.gen then setG s core g1
    else if here then
      let u : OUpd := { ctx := g.ctx, handle := g.handle, slot := s.record.slot, seq := seq, elem := g.next, epoch := ep, row := i,
                        add := isAdd g.op, fmt := r.1, data := r.2, core := some core, d := d, bad := srcBad (s.core core) g d g.next }
      match updateRow s u (some (g.ag, g.ctx, g.gen, g.tag)) with
      | .inl (c, m, va) => setG (if c = 6 then foundError s else s) core (faultEl g1 g.next c m s.record.slot va)
      | .inr s1 => setG s1 core g1
    else if !routeUp s slot then setG s core (faultEl g1 g.next 5 0 slot 0)
    else shipEl s core g g.next slot ([2, d.tid, d.gen, i, bit (isAdd g.op), seq, g.next, ep, r.1] ++ r.2)

/-- The first scatter whose next element can go on. -/
def scatGo (s : State) : Option (Nat × GCmd) :=
  let ok (g : GCmd) : Bool := isScat g.op && (elReady g || canLoad (s.core g.core) g)
  match mfind (fun _ c => c.gcmds.any ok) s.cores with
  | none => none
  | some k => ((s.core k).gcmds.find? ok).map fun g => (k, g)

/-- SCATTER_UPDATE (R348, R349): an update of another device, or the next one of a command of this device. -/
def execScatterUpdate (s : State) : Out1 :=
  match peerWants s 2 with
  | some (slot, data) =>
    let s0 := { s with gathIn := s.gathIn.erase (slot, data) }
    (match data with
     | id :: _ :: tid :: gen :: i :: add :: seq :: el :: ep :: fmt :: codes =>
       (match findBinding s tid gen with
        | .inl code => .next (sendBack s0 slot [id, code, 0, 0])
        | .inr (ctx, h, d) =>
          let u : OUpd := { ctx := ctx, handle := h, slot := slot, seq := seq, elem := el, epoch := ep, row := i,
                            add := decide (add = 1), fmt := fmt, data := codes, d := d }
          match updateRow s0 u none with
          | .inl (c, m, va) => .next (sendBack (if c = 6 then foundError s0 else s0) slot [id, c, m, va])
          | .inr s1 => .next (sendBack s1 slot [id, 0]))
     | _ => .next s0)
  | none =>
    match scatGo s with
    | none => .next s
    | some (core, g) => .next (if canLoad (s.core core) g then loadG s core g else scatEl s core g)

/-! ### Ordered epochs (R349) -/

/-- The slots of the other members of a table. -/
def otherMembers (s : State) (d : Desc) : List Nat :=
  if d.dist = 0 then [] else ((List.range d.p).map fun m => d.first + m).filter fun x => decide (x ≠ s.record.slot)

/-- Whether a scatter of an epoch of a handle is still to be performed here. -/
def scatPending (s : State) (ctx h e : Nat) : Bool :=
  (allG s).any fun g => isScat g.op && decide (g.ctx = ctx ∧ g.handle = h) &&
    (match g.acc with
     | some (_, _, ep) => decide (ep = e)
     | none => false)

/-- Whether an accepted command other than a GSYNC is outstanding on a handle. -/
def handleBusy (s : State) (ctx h : Nat) : Bool :=
  (allG s).any fun g => decide (g.ctx = ctx ∧ g.handle = h ∧ g.op ≠ .sync) && accepted s g

/-- Whether a GSYNC can go on: to send its CLOSEs, to hold back acceptance, to apply its epoch. -/
def syncReady (s : State) (g : GCmd) : Bool :=
  match g.ep, (handleOf s g.ctx g.handle).cur with
  | some e, some d =>
    g.fin.isNone && decide (g.op = .sync) &&
      (match g.next with
       | 0 => !scatPending s g.ctx g.handle e && (otherMembers s d).all fun m => routeUp s m
       | 1 => (otherMembers s d).all fun m => s.oclose.contains (d.tid, m, e)
       | _ => !handleBusy s g.ctx g.handle)
  | _, _ => false

/-- The order of buffered updates: source slot, sequence number, element (R349). -/
def updLt (a b : OUpd) : Bool :=
  decide (a.slot < b.slot) || (decide (a.slot = b.slot) && (decide (a.seq < b.seq)
    || (decide (a.seq = b.seq) && decide (a.elem < b.elem))))

/-- Inserts an update in that order. -/
def insertUpd (u : OUpd) : List OUpd → List OUpd
  | [] => [u]
  | x :: t => if updLt u x then u :: x :: t else x :: insertUpd u t

/-- Applies updates in order, each under its own generation (R337, R348); one whose row cannot be reached any more changes nothing. The
number applied comes with the state (R352). -/
def applyUpds (who : Writer) : List OUpd → State → Nat × State
  | [], s => (0, s)
  | u :: t, s =>
    match applyRow s u.ctx u.d (ownerOf u.d u.row).2 u.core who u.bad u.add u.fmt u.data with
    | .inl _ => applyUpds who t s
    | .inr s1 =>
      let r := applyUpds who t s1
      (r.1 + 1, r.2)

/-- The next phase of a GSYNC (R349). -/
def syncStep (s : State) (core : Nat) (g : GCmd) : State :=
  let h := handleOf s g.ctx g.handle
  match g.ep, h.cur with
  | some e, some d =>
    (match g.next with
     | 0 => setG ((otherMembers s d).foldl (fun s m => sendFlit s 1 m [0, 3, d.tid, e]) s) core { g with next := 1 }
     | 1 => setG (setHandle s g.ctx g.handle { h with hold := true }) core { g with next := 2 }
     | _ =>
       let mine := s.oupd.filter fun u => decide (u.ctx = g.ctx ∧ u.handle = g.handle ∧ u.epoch = e)
       let r := applyUpds (some (g.ag, g.ctx, g.gen, g.tag)) (mine.foldr insertUpd []) s
       let s1 := r.2
       let s2 := { s1 with oupd := s1.oupd.filter fun u => decide (¬(u.ctx = g.ctx ∧ u.handle = g.handle ∧ u.epoch = e)),
                           oclose := s1.oclose.filter fun c => decide (¬(d.dist ≠ 0 ∧ c.1 = d.tid ∧ c.2.2 = e)) }
       setG (setHandle s2 g.ctx g.handle { h with epoch := e + 1, hold := false }) core { g with fin := some r.1 })
  | _, _ => s

/-- The first GSYNC that can go on. -/
def syncGo (s : State) : Option (Nat × GCmd) :=
  match mfind (fun _ c => c.gcmds.any (syncReady s)) s.cores with
  | none => none
  | some k => ((s.core k).gcmds.find? (syncReady s)).map fun g => (k, g)

/-- GSYNC_CLOSE (R349): a CLOSE of a member arrives; or a GSYNC sends its own, and, when all have come, applies its epoch. -/
def execGsyncClose (s : State) : Out1 :=
  match peerWants s 3 with
  | some (slot, data) =>
    let s0 := { s with gathIn := s.gathIn.erase (slot, data) }
    .next { s0 with oclose := s0.oclose ++ [(data.getD 2 0, slot, data.getD 3 0)] }
  | none =>
    match syncGo s with
    | none => .next s
    | some (core, g) => .next (syncStep s core g)

/-! ### GATHER_PERFORMED, GENERATION_DROP (R350 to R353, R339) -/

/-- Whether a command has done all its work (R353). -/
def gDone (g : GCmd) : Bool :=
  match g.op with
  | .bind _ | .swap _ => false
  | .sync => g.fin.isSome
  | op => g.acc.isSome && decide (g.n ≤ g.next ∧ g.ship = []) &&
      (isScat op || decide (outCount g ≤ g.out ∧ g.pend = []))

/-- The bytes of the fault area (R350). -/
def faultBytes (g : GCmd) : List Byte :=
  let bits := maskOf ((List.range ((g.n + 511) / 512 * 512)).map fun j => (mfind (fun k _ => decide (k = j)) g.faults).isSome)
  let f := g.faults.head?
  let e := (f.map fun x => x.2).getD { code := 0, mfc := 0, slot := 0, va := 0 }
  leBytes (64 * ((g.n + 511) / 512)) bits
    ++ leBytes 2 ((f.map fun x => x.1).getD 0xFFFF) ++ leBytes 1 e.code ++ leBytes 1 (if e.code = 1 then e.mfc else 0)
    ++ leBytes 2 g.faults.length ++ leBytes 1 e.slot ++ leBytes 1 0
    ++ leBytes 8 (if e.code = 1 ∨ e.code = 2 then e.va else 0) ++ leBytes 48 0

/-- GOOD and the fault-area offset of a reply (R352). -/
def gReplyVal (g : GCmd) : Nat := (if g.bagBad then 0 else g.n - g.faults.length) + g.rf * 2 ^ 13

/-- The first gather command that has done all its work. -/
def gathDone (s : State) : Option (Nat × GCmd) :=
  match mfind (fun _ c => c.gcmds.any gDone) s.cores with
  | none => none
  | some k => ((s.core k).gcmds.find? gDone).map fun g => (k, g)

/-- GATHER_PERFORMED (R350, R352, R353). -/
def execGatherPerformed (s : State) : Out1 :=
  match gathDone s with
  | none => .next s
  | some (core, g) =>
    let c := rngDone (s.core core) g.id
    let c1 := match g.fin with
      | some n => putReply c g.tag 1 3 n
      | none => putReply (c.putPad g.rf (faultBytes g)) g.tag 1 (if g.bagBad then 2 else if g.faults = [] then 0 else 1) (gReplyVal g)
    .next (endG (s.setCore core c1) core g)

/-- A handle whose OLD is no longer pinned. -/
def oldFree (s : State) : Option (Nat × Nat) :=
  let ok (_ : Nat) (x : Handle) : Bool :=
    match x.old with
    | some d => !pinned s d
    | none => false
  match mfind (fun _ e => (mfind ok e.handles).isSome) s.ctxTab with
  | none => none
  | some ctx => (mfind ok (s.ctxEnt ctx).handles).map fun h => (ctx, h)

/-- The reply of a GTSWAP when the generation it replaced is dropped (R352). -/
def swapReply (s : State) (swap : Option (Nat × Nat)) (gen : Nat) : State :=
  match swap with
  | some (tag, core) =>
    if (s.core core).resv.contains tag then s.setCore core (putReply (s.core core) tag 1 4 gen) else s
  | none => s

/-- GENERATION_DROP (R339, R343): an OLD generation, or one of an unbound handle, that nothing pins is dropped. -/
def execGenerationDrop (s : State) : Out1 :=
  match s.ghosts.find? fun g => !pinned s g.d with
  | some g => .next (swapReply { s with ghosts := s.ghosts.erase g } g.swap g.d.gen)
  | none =>
    match oldFree s with
    | none => .next s
    | some (ctx, h) =>
      let x := handleOf s ctx h
      .next (swapReply (setHandle s ctx h { x with old := none, swap := none }) x.swap ((x.old.map fun d => d.gen).getD 0))

end Sys2Proof.Machine
end

