-- ==== Sys2Proof/Machine/Gambit.lean ====
section
/-! DEFINITION. The Gambit predictor (R357 to R373): GBLD, GBTH, GBPRED and GBCHK at issue, and what Gambit computes when it
performs them. -/

namespace Sys2Proof.Machine

/-- The Stream State reason of a port that Gambit is to push into (R366, R202): beside those of a destination port, reason 5 for a
format other than 0x05 and 0x06. -/
def gamReason (c : Core) (n : Nat) : Option Nat :=
  match dstReason c n with
  | some r => some r
  | none => if fmtOf c n = 5 ∨ fmtOf c n = 6 then none else some 5

/-- Pushes a command to the Gambit queue. -/
def gamQueue (c : Core) (q : GbCmd) : Core := { c with gam := { c.gam with queue := c.gam.queue ++ [q] } }

/-- GBLD (R362). -/
def execGbld (r : Ring) (xa : BitVec 4) (s : State) : Out1 :=
  issue (.gbld r xa) r .ex (fun s =>
    let v := (getR s xa.toNat).toNat
    if v % 64 ≠ 0 ∨ 2 ^ 21 ≤ v then .trap 1 (word1 (.gbld r xa)) 0
    else if 4 ≤ s.myCore.gam.queue.length then .wait s
    else
      let n := newItem s.myCore
      .ok (s.setMyCore (gamQueue n.2 (.ld v n.1 (tagOf s.myCore 1))))) s

/-- GBTH (R363). -/
def execGbth (r : Ring) (xh xl xe xt : BitVec 4) (s : State) : Out1 :=
  issue (.gbth r xh xl xe xt) r .ex (fun s =>
    if 4 ≤ s.myCore.gam.queue.length then .wait s
    else
      let n := newItem s.myCore
      .ok (s.setMyCore (gamQueue n.2
        (.th (getR s xh.toNat) (getR s xl.toNat) (getR s xe.toNat) ((getR s xt.toNat).setWidth 32) n.1 (tagOf s.myCore 1))))) s

/-- What GBPRED and GBCHK do at issue (R202, R360, R364, R366, R368, R371) once their counts are legal: the checks of their ports,
the waits, the pop of the input, the reservation and FW of OU. -/
def gamIssue (s : State) (inp : VIn) (outs : List Nat) (ou : Option (Nat × Nat)) (tag : Nat)
    (mk : List Nat → Nat → Option Nat → GbCmd) : Res :=
  let c := s.myCore
  let pc := projected c
  let reasons := (if inp.f < 32 then [] else [(inp.f - 32, srcReason pc (inp.f - 32))])
    ++ outs.map fun n => (n, gamReason pc n)
  let bad := (firstReason reasons).or ((reasons.find? fun x => decide (x.2 = some 5)).map fun x => (5, x.1))
  let room := match ou with
    | some (n, k) => roomFor c n k
    | none => true
  match bad with
  | some (reason, n) => .trap 0x11 (dw (reason * 256 + n)) 0
  | none =>
    if outs.any (fun n => pendingOn c n || gamPushes c n) || (decide (32 ≤ inp.f) && pendingOn c (inp.f - 32)) then .wait s
    else if !srcsReady c [inp] then .wait (beginStall s)
    else if 4 ≤ c.gam.queue.length ∨ 32 ≤ c.resv.length + c.rpl.length ∨ !room then .wait s
    else
      match popPoison c [inp] with
      | some u => .poison u true
      | none =>
        let s1 := endStall s
        let v := readSrc s1.myCore inp
        let n := newItem v.2
        let c1 := match ou with
          | some (p, k) => n.2.setPort p { n.2.port p with fw := (n.2.port p).fw + k }
          | none => n.2
        .ok (s1.setMyCore { gamQueue c1 (mk v.1 n.1 (tagOf c 1)) with resv := c1.resv ++ [tag] })

/-- GBPRED (R364). -/
def execGbpred (r : Ring) (inp oa ou : BitVec 6) (xbf : Bool) (tag : BitVec 16) (xn xu : BitVec 4) (s : State) : Out1 :=
  issue (.gbpred r inp oa ou xbf tag xn xu) r .ex (fun s =>
    let cnt := (getR s xn.toNat).toNat
    let ucap := (getR s xu.toNat).toNat
    if cnt = 0 ∨ 8192 < cnt ∨ 8192 < ucap ∨ (inp.toNat < 32 ∧ 2048 < cnt * 2) then
      .trap 1 (word1 (.gbpred r inp oa ou xbf tag xn xu)) 0
    else
      let a := oa.toNat - 32
      let u := ou.toNat - 32
      gamIssue s { f := inp.toNat, fmt := elemFmt (if xbf then .bf16 else .f16) 0#8, n := cnt } [a, u] (some (u, ucap)) tag.toNat
        fun d id pt => .pred d xbf a u ucap tag.toNat id pt) s

/-- GBCHK (R368). -/
def execGbchk (r : Ring) (inp orp : BitVec 6) (ht : ElemT) (xu : BitVec 4) (tag : BitVec 16) (s : State) : Out1 :=
  issue (.gbchk r inp orp ht xu tag) r .ex (fun s =>
    let ucap := (getR s xu.toNat).toNat
    let f := elemFmt ht 0#8
    if 8192 < ucap ∨ (inp.toNat < 32 ∧ 2048 < ucap * (f.bits / 8)) then .trap 1 (word1 (.gbchk r inp orp ht xu tag)) 0
    else
      let o := orp.toNat - 32
      gamIssue s { f := inp.toNat, fmt := f, n := ucap } [o] none tag.toNat
        fun d id pt => .chk d ht o ucap tag.toNat id pt) s

/-! ### What Gambit computes -/

/-- A signed 4-bit number. -/
def s4 (v : Nat) : Int := if 8 ≤ v then (v : Int) - 16 else v

/-- Loads the control state from a descriptor line (R358, R362). -/
def gamLoad (g : Gambit) (b : List Byte) : Gambit :=
  let p := recNat b 0 4
  let u := recNat b 4 4
  let w := recNat b 8 4
  let d := recNat b 12 2
  let nn := recNat b 14 2
  let rk := recNat b 16 1
  let x := recNat b 17 1
  let xs : Int := if 128 ≤ x then (x : Int) - 256 else x
  if p % 16 = 0 ∧ u % 16 = 0 ∧ 1 ≤ d ∧ d ≤ 8192 ∧ 1 ≤ nn ∧ nn ≤ 8192 ∧ 1 ≤ rk ∧ rk ≤ 32 ∧ -32 ≤ xs ∧ xs ≤ 31
      ∧ (b.drop 18).all (fun v => decide (v = 0#8)) ∧ p + 16 * d ≤ 0x200000 ∧ u + 16 * nn ≤ 0x200000 ∧ w + nn ≤ 0x200000 then
    { g with valid := true, pvalid := false, poff := p, uoff := u, woff := w, d := d, nn := nn, rnk := rk, xs := xs }
  else { g with valid := false, pvalid := false }

/-- The quantised input element (R365): its value times 2^XS, rounded to an integer and clamped; NaN is read as zero. -/
def quant (xs : Int) (v : Num) : Int :=
  let clamp (x : Int) : Int := max (-32768) (min 32767 x)
  match v with
  | .nan => 0
  | .inf neg => if neg then -32768 else 32767
  | .fin neg n d => clamp (sgn neg (roundMag n d (-xs) .rne neg 0))

/-- The first k int4 elements of 16 bytes of the pad (R359). -/
def int4Row (c : Core) (off k : Nat) : List Int :=
  let b := c.padN off 16
  (List.range k).map fun i => s4 ((leNat ((b.drop (i / 2)).take 1)) / 2 ^ (4 * (i % 2)) % 16)

/-- A sum of products. -/
def dot (a b : List Int) : Int := (List.zipWith (fun x y => x * y) a b).sum

/-- z of R365: the sum of the rows of P, each times its quantised element. -/
def gamZ (c : Core) (g : Gambit) (xq : List Int) : List Int :=
  (List.range g.d).foldl (fun z i => List.zipWith (fun a p => a + xq.getD i 0 * p) z (int4Row c (g.poff + 16 * i) g.rnk))
    (List.replicate g.rnk 0)

/-- The entries of a list with an index. -/
def indexed {α : Type} : Nat → List α → List (Nat × α)
  | _, [] => []
  | i, x :: t => (i, x) :: indexed (i + 1) t

/-- The indices of a class, ascending. -/
def ofClass (k : NClass) (cls : List NClass) : List Nat :=
  ((indexed 0 cls).filter fun x => decide (x.2 = k)).map fun x => x.1

/-- The neuron of a list that a comparison of scores prefers, an earlier one standing unless it is beaten. -/
def pickBy (better : Int → Int → Bool) (score : List Int) : List Nat → Option Nat
  | [] => none
  | j :: t => some (t.foldl (fun b i => if better (score.getD i 0) (score.getD b 0) then i else b) j)

/-- Demotes n uncertain neurons to SKIP: each time the one of least score, the highest index among equals (R365). -/
def demote (score : List Int) : Nat → List NClass → List NClass
  | 0, cls => cls
  | n + 1, cls =>
    match pickBy (fun a b => decide (a ≤ b)) score (ofClass .unc cls) with
    | none => cls
    | some j => demote score n (cls.set j .skip)

/-- GBPRED (R365): the lists for OA and OU, the reply's KIND and VALUE, and the unit with the prediction. -/
def gamPredict (c : Core) (g : Gambit) (data : List Nat) (bf : Bool) (ucap : Nat) : Gambit × List Nat × List Nat × Nat × Nat :=
  if !g.valid then ({ g with pvalid := false }, [], List.replicate ucap 0, 4, 0)
  else
    let f := elemFmt (if bf then .bf16 else .f16) 0#8
    let xs := (fitTo g.d (data.take g.d)).map f.decode
    let nan := xs.any fun v => v.isNan
    let z := gamZ c g (xs.map (quant g.xs))
    let score := (List.range g.nn).map fun j => dot z (int4Row c (g.uoff + 16 * j) g.rnk)
    let cls0 := score.map fun v => if g.thi.toInt ≤ v then NClass.act else if g.tlo.toInt ≤ v then .unc else .skip
    let n0 := (ofClass .unc cls0).length
    let cls := demote score (n0 - ucap) cls0
    let act := ofClass .act cls
    let unc := ofClass .unc cls
    ({ g with pvalid := true, pucap := ucap, score := score, cls := cls, unc := unc,
              w := (List.range g.nn).map fun j => leNat (c.padN (g.woff + j) 1) },
      act, unc ++ List.replicate (ucap - unc.length) g.nn, (if ucap < n0 then 1 else 0) + (if nan then 2 else 0),
      act.length + unc.length * 2 ^ 14)

/-- The verdicts on the uncertain list (R369): the classes, the mispredicted neurons, whether a NaN was met. -/
def gamJudge (tact : Num) : List Nat → List Num → List NClass → List NClass × List Nat × Bool
  | j :: t, h :: u, cls =>
    if h.isNan || tact.isNan then
      let q := gamJudge tact t u cls
      (q.1, j :: q.2.1, true)
    else if decide (h.cmp tact = .gt) then
      let q := gamJudge tact t u cls
      (q.1, j :: q.2.1, q.2.2)
    else gamJudge tact t u (cls.set j .drop)
  | _, _, cls => (cls, [], false)

/-- Promotes skipped neurons while the estimate is above E (R369): those promoted. -/
def promote (score : List Int) (w : List Nat) (e : Nat) : Nat → Nat → List NClass → List Nat
  | 0, _, _ => []
  | n + 1, est, cls =>
    if est ≤ e then []
    else
      match pickBy (fun a b => decide (b < a)) score (ofClass .skip cls) with
      | none => []
      | some j => j :: promote score w e n (est - (score.getD j 0).natAbs * w.getD j 0) (cls.set j .prom)

/-- GBCHK (R369): the replay list, the reply's KIND and VALUE. -/
def gamCheck (g : Gambit) (data : List Nat) (ht : ElemT) (ucap : Nat) : List Nat × Nat × Nat :=
  if !g.pvalid || decide (ucap ≠ g.pucap) then
    if g.valid then (List.range g.nn, 4, g.nn * 2 ^ 14) else ([], 4, 0)
  else
    let r := gamJudge ((elemFmt .f32 0#8).decode g.tact.toNat) g.unc (data.map (elemFmt ht 0#8).decode) g.cls
    let est := ((ofClass .skip r.1).map fun j => (g.score.getD j 0).natAbs * g.w.getD j 0).sum
    let pr := promote g.score g.w g.e.toNat g.nn est r.1
    ((List.range g.nn).filter fun j => r.2.1.contains j || pr.contains j, if r.2.2 then 1 else 0,
      r.2.1.length + pr.length * 2 ^ 14)

/-- The poisoned pad line among P, U and the norms, if any (R465). -/
def gamPoison (c : Core) (g : Gambit) : Option Nat :=
  ((padPoison c g.poff (16 * g.d)).or (padPoison c g.uoff (16 * g.nn))).or (padPoison c g.woff g.nn)

/-! ### GAMBIT_PERFORM -/

/-- Gambit begins its head command (R360): a GBLD or GBTH is performed; a GBPRED or GBCHK leaves its lists to be pushed, and its
reply. -/
def gamBegin (c : Core) (q : GbCmd) : Core :=
  let g := c.gam
  match q with
  | .ld off _ _ => { c with gam := { gamLoad g (c.padN off 64) with queue := g.queue.drop 1 } }
  | .th hi lo e act _ _ => { c with gam := { g with thi := hi, tlo := lo, e := e, tact := act, queue := g.queue.drop 1 } }
  | .pred data bf oa ou ucap tag _ pt =>
    let c1 := match (if g.valid then gamPoison c g else none) with
      | some u => mxTrigger c pt u true
      | none => c
    let r := gamPredict c g data bf ucap
    { c1 with gam := { r.1 with out := [(oa, r.2.1), (ou, r.2.2.1)], reply := some (tag, 2, r.2.2.2.1, r.2.2.2.2) } }
  | .chk data ht o ucap tag _ _ =>
    let r := gamCheck g data ht ucap
    { c with gam := { g with pvalid := false, out := [(o, r.1)], reply := some (tag, 3, r.2.1, r.2.2) } }

/-- The elements that fit at the fill side of a port now. -/
def gamRoom (c : Core) (n : Nat) : Nat :=
  (freedTo c n / epl (fmtOf c n) + bufLines (c.port n)) * epl (fmtOf c n) - (c.port n).wr

/-- Whether a port takes no more of a list: it has been closed. -/
def gamLost (c : Core) (n : Nat) : Bool := decide ((c.port n).st = .closed)

/-- What Gambit does next in a core, if it can do something: push elements, end a list, give the reply, begin a command. -/
def gamNext (c : Core) : Option Core :=
  let g := c.gam
  match g.out, g.reply with
  | (n, vs) :: t, _ =>
    if gamLost c n then some { c with gam := { g with out := t } }
    else if vs = [] then some (let c1 := endFill c n; { c1 with gam := { g with out := t } })
    else if gamRoom c n = 0 then none
    else
      let k := gamRoom c n
      some (pushCodes { c with gam := { g with out := (n, vs.drop k) :: t } } n (vs.take k))
  | [], some (tag, src, kind, val) =>
    let pt := match g.queue with
      | .pred _ _ _ _ _ _ _ p :: _ | .chk _ _ _ _ _ _ p :: _ => p
      | _ => none
    some (putReplyAs { c with gam := { g with reply := none, queue := g.queue.drop 1 } } pt tag src kind val)
  | [], none =>
    match g.queue with
    | [] => none
    | q :: _ =>
      let id := match q with
        | .ld _ i _ => i
        | .th _ _ _ _ i _ => i
        | .pred _ _ _ _ _ _ i _ => i
        | .chk _ _ _ _ _ i _ => i
      if matched c id then some (gamBegin c q) else none

/-- The first core whose Gambit can go on. -/
def gamGo (s : State) : Option Nat := mfind (fun _ c => (gamNext c).isSome) s.cores

/-- GAMBIT_PERFORM (R360, R365 to R370). -/
def execGambitPerform (s : State) : Out1 :=
  match gamGo s with
  | none => .next s
  | some k =>
    match gamNext (s.core k) with
    | none => .next s
    | some c => .next (s.setCore k c)

end Sys2Proof.Machine
end

