-- ==== Sys2Proof/Machine/Kill.lean ====
section
/-! DEFINITION. Ending a job or a context (R97, R443, R453): what is discarded, and what a kill waits for. -/

namespace Sys2Proof.Machine

/-- Withdraws the message requests of an agent that no target has accepted (R176). -/
def withdrawMsgs (s : State) (ag : Nat) : State :=
  { s with cores := s.cores.map fun p => (p.1, { p.2 with msgs := p.2.msgs.filter fun q => decide (q.ag ≠ some ag) }) }

/-- Takes an agent out of everything it waits for; its held stores are discarded. -/
def dropAgent (s : State) (ag : Nat) : State :=
  dropWalks (leaveLines (withdrawMsgs s ag) ag) ag

/-- Whether a gather command goes on when its context or job ends: one that has been accepted and does not push to a port. -/
def gathKept (s : State) (g : GCmd) : Bool :=
  accepted s g && (match g.op with
    | .gath _ _ _ | .scat _ | .scata _ => true
    | _ => false)

/-- The engine commands of a core's job that have not started are discarded, its ports closed without draining, its queues
emptied; commands that have started go on without their replies (R443). `h`: the handler's gather commands stay as they are. -/
def dropCommands (s : State) (core : Nat) : State :=
  let c := s.core core
  let sems := c.sems.map fun p => (p.1, { p.2 with line := p.2.line.filter fun e => decide (e.1 ≠ 4096) })
  let gone := c.gcmds.filter fun g => decide (g.ag % 4 ≠ 3) && !gathKept s g
  let c1 := (mkeys c.ports).foldl closePort { c with strq := [], merge := none, sems := sems }
  let ids := (c.mx.queue.map fun q => q.id) ++ gone.map fun g => g.id
  s.setCore core
    { c1 with rngs := c1.rngs.filter fun r => !ids.contains r.id, secq := [], outb := [], upset := [],
              gcmds := c1.gcmds.filter fun g => !gone.any fun x => decide (x.id = g.id),
              mx := { c1.mx with queue := [] }, gam := { c1.gam with queue := [], out := [], reply := none } }

/-- A job ends at once: its engines stop, its commands are discarded, its queues emptied; the core becomes idle (R443). -/
def endJob (s : State) (core : Nat) : State :=
  let s1 := (List.range 3).foldl (fun s e => dropAgent s (core * 4 + e)) s
  clearCore (tidyMsgs (dropCommands s1 core) core) core

/-- A handler run ends at once and its message is freed; the context becomes dormant (R443, R453). -/
def endRun (s : State) (core : Nat) : State :=
  let ag := core * 4 + 3
  let s1 := dropAgent s ag
  let c := s1.core core
  let c1 := match c.hrun with
    | some h => freeRun c h
    | none => c
  let s2 := s1.setCore core { c1 with hrun := none, rb := { c1.rb with handler := false } }
  s2.setCtx ag { s2.ctx ag with run := .idle, stores := [], veil := [], wait := .none, ans := none, strong := none, stopAfter := false }

/-- The start requests of a context at a core are dropped, and their messages freed. -/
def dropStarts (s : State) (core ctx : Nat) : State :=
  let c := s.core core
  let c1 := (c.hstart.filter fun h => decide (h.ctx = ctx)).foldl freeRun c
  s.setCore core { c1 with hstart := c1.hstart.filter fun h => decide (h.ctx ≠ ctx) }

/-- The barriers of a context become free, their generations as they are (R443). -/
def freeBars (ctx : Nat) (b : Barrier) : Barrier :=
  if !b.free && decide (b.owner = ctx) then { gen := b.gen } else b

/-- The ports that a killed context has opened on a core close without draining, and its stream commands that have not taken effect are
discarded: those of a handler run of it that another context's job leaves open (R77, R97, R443). -/
def dropOwned (ctx : Nat) (c : Core) : Core :=
  let opens (n : Nat) : Bool := c.strq.any fun x => match x.2 with
    | .opn k v => decide (k = n ∧ v.octx = ctx)
    | .rest k _ _ x _ => decide (k = n ∧ x = ctx)
    | _ => false
  let own (n : Nat) : Bool := decide ((c.port n).st ≠ .closed ∧ (c.port n).octx = ctx) || opens n
  let gone := c.strq.filter fun x => (strPorts x.2).any own
  let ids := gone.map fun x => x.1
  ((mkeys c.ports).filter fun n => decide ((c.port n).octx = ctx)).foldl closePort
    { c with strq := c.strq.filter (fun x => !ids.contains x.1), secq := c.secq.filter (fun i => !ids.contains i),
             rngs := c.rngs.filter fun r => !ids.contains r.id }

/-- Steps 1 and 2 of R443 on one core. -/
def killCore (ctx : Nat) (s : State) (core : Nat) : State :=
  let c := s.core core
  let s1 := match c.job with
    | some j => if j.ctx = ctx then endJob s core else s
    | none => s
  let s2 := match c.hrun with
    | some h => if h.ctx = ctx then endRun s1 core else s1
    | none => s1
  let s3 := dropStarts s2 core ctx
  let d := dropOwned ctx (s3.core core)
  let gone := d.gcmds.filter fun g => decide (g.ctx = ctx) && !gathKept s3 g
  tidyMsgs (s3.setCore core { d with gcmds := d.gcmds.filter fun g => !gone.any fun x => decide (x.id = g.id),
                                     rngs := d.rngs.filter fun r => !gone.any fun x => decide (x.id = r.id) }) core

/-- KILLCTX's steps on a valid context (R97, R443), but for the draining of its writes. -/
def killCtx (s : State) (ctx : Nat) : State :=
  let s1 := ((mkeys s.cores).filter fun k => decide (k < 384)).foldl (killCore ctx) s
  let e := s1.ctxEnt ctx
  let s2 := s1.setCtxEnt ctx { e with gen := e.gen + 1#16, used := [] }
  let s3 := ((s2.insts.filter fun i => decide (i.ctx = ctx) && !i.done).map fun i => i.nix).foldl
    (fun s n => completeInst (dropInst s n) n 2) s2
  let s4 := (mkeys s3.clocks).foldl (fun s k =>
    match imageNow s (clkNat (s.clk k).rec_ 32 2) with
    | some im => if im.ctx = ctx then clkOff s k else s
    | none => s) s3
  let s5 := (mkeys (s4.ctxEnt ctx).handles).foldl (fun s h => unbindAt s ctx h true) s4
  { s5 with
    clusters := s5.clusters.map fun p => (p.1, { p.2 with bars := p.2.bars.map fun b => (b.1, freeBars ctx b.2) })
    oupd := s5.oupd.filter fun u => decide (u.ctx ≠ ctx ∨ u.slot ≠ s5.record.slot) }

/-- Whether writes of a killed context are still under way: gather commands, matrix commands, accesses of other devices (R97). -/
def killPending (s : State) (ctx : Nat) : Bool :=
  let g := (s.ctxEnt ctx).gen
  s.cores.any (fun p => p.2.gcmds.any (fun x => decide (x.ctx = ctx ∧ x.gen ≠ g))
      || p.2.mx.run.any (fun x => decide (x.ctx = ctx ∧ x.gen ≠ g)))
    || s.preqs.any fun q => decide (q.ctx = some ctx)

/-- Restarts the stopped sides of a port at their failing items (R212); a remote port asks again the targets that refused. -/
def wakePort (s : State) (core n : Nat) : State :=
  let c := s.core core
  let p := c.port n
  let p1 := { p with st := if p.fend then .done else .run, faultVa := 0#64, faultSide := 0, faultMfc := 0, fault2 := none }
  let s1 := s.setCore core (c.setPort n p1)
  match p.sending with
  | none => s1
  | some (k, ts) =>
    let f := fmtOf c n
    let q : MsgReq := { ag := none, sport := some (core, n), qn := (p.remote.extractLsb' 17 3).toNat,
                        lines := (k + epl f - 1) / epl f, he := p.remote.getLsbD 20, hpc := (p.remote.extractLsb' 21 14).toNat,
                        src := core, ctx := p.octx, gen := p.ogen, off := 0, here := false }
    ts.foldl (fun s t =>
      if (s.core t).msgs.any fun x => decide (x.sport = some (core, n)) then s
      else s.setCore t { s.core t with msgs := (s.core t).msgs ++ [q] }) s1

end Sys2Proof.Machine
end

