-- ==== Sys2Proof/Machine/Monitor.lean ====
section
/-! DEFINITION. The monitors (R483 to R487): taking samples, the level sources, the records, MONSNAP. -/

namespace Sys2Proof.Machine

/-! ### Samples (R484, R485) -/

/-- A value clamped to a signed 32-bit number (R484). -/
def clamp32 (v : Int) : Int := max (-0x80000000) (min 0x7FFFFFFF v)

/-- BASE of MONEDGE. -/
def Mon.base (m : Mon) : Int := (m.edge.extractLsb' 32 32).toInt

/-- WIDTH of MONEDGE. -/
def Mon.width (m : Mon) : Nat := (m.edge.extractLsb' 0 32).toNat

/-- The bin of a difference d (R485). -/
def Mon.bin (m : Mon) (d : Int) : Nat :=
  let w : Int := m.width
  if m.cfg.getLsbD 1 then
    (((List.range 15).reverse.find? fun i => decide (2 ^ i * w ≤ d)).map fun i => i + 1).getD 0
  else if d < w then 0 else Nat.min 15 (d / w).toNat

/-- Records a sample (R485): SUM and the bins saturate. -/
def Mon.add (m : Mon) (v0 : Int) : Mon :=
  let v := clamp32 v0
  let k := m.bin (v - m.base)
  let s : Int := Max.max (-(2 ^ 63)) (Min.min (2 ^ 63 - 1) (m.sum + v))
  let n := mget 0 m.bins k
  { m with count := (m.count + 1) % 2 ^ 64, sum := s, min := Min.min m.min v, max := Max.max m.max v,
           bins := mset m.bins k (Min.min (n + 1) 0xFFFFFFFF), sat := m.sat || decide (s ≠ m.sum + v ∨ n = 0xFFFFFFFF) }

/-- Whether a monitor records a sample of its die. -/
def Mon.takes (m : Mon) (x : Sample) : Bool :=
  let sub := (m.cfg.extractLsb' 20 3).toNat
  let core := (m.cfg.extractLsb' 23 9).toNat
  m.cfg.getLsbD 0 && decide ((m.cfg.extractLsb' 8 8).toNat = x.src ∧ (sub = x.sub ∨ (x.src = 3 ∧ sub = 7)))
    && (decide (core = 0x1FF ∨ core = x.core) || decide (x.src ≠ 4 ∧ x.src ≠ 5 ∧ x.src ≠ 9))

/-- MONITOR_SAMPLE (R484, R485): the samples that wait enter the monitors of a die. -/
def execMonitorSample (s : State) : Out1 :=
  match mfind (fun _ d => decide (d.samples ≠ [])) s.dies with
  | none => .next s
  | some die =>
    let d := s.die die
    let f (m : Mon) : Mon := d.samples.foldl (fun m x => if m.takes x then m.add x.val else m) m
    .next (s.setDie die { d with samples := [], mons := d.mons.map fun p => (p.1, f p.2) })

/-- What a queue of a core holds (source 0x05). -/
def occupancy (c : Core) (sub : Nat) : Nat :=
  match sub with
  | 0 => c.mx.queue.length
  | 1 => c.scq.length
  | 2 => c.rpl.length
  | 3 => c.strq.length
  | _ => c.deque.length

/-- The level samples of a die that have become due since its last ones: the queues every 1,024 cycles, the sensors every
150,000. -/
def levelSamples (s : State) (die : Nat) : List Sample :=
  let q := if s.cycle / 1024 = (s.die die).tick / 1024 then [] else
    (List.range 5).flatMap fun sub => (List.range 192).filterMap fun k =>
      if wantsSample (s.die die) 5 sub (die * 192 + k) then
        some { src := 5, sub := sub, core := die * 192 + k, val := occupancy (s.core (die * 192 + k)) sub } else none
  let l := if s.cycle / 150000 = (s.die die).tick / 150000 then [] else
    [(6, 0), (6, 1), (7, 0), (7, 1), (7, 2), (8, 0)].filterMap fun (src, sub) =>
      if wantsSample (s.die die) src sub 0 then
        some { src := src, sub := sub, core := 0, val := Config.sensor src sub die s.cycle } else none
  q ++ l

/-- The first die with a level source to be sampled. -/
def levelDue (s : State) : Option Nat :=
  mfind (fun n d => decide (s.cycle / 1024 ≠ d.tick / 1024 ∨ s.cycle / 150000 ≠ d.tick / 150000)
    && d.mons.any (fun p => p.2.cfg.getLsbD 0) && decide (levelSamples s n ≠ [])) s.dies

/-- MONITOR_LEVEL_TICK (R484). -/
def execMonitorLevelTick (s : State) : Out1 :=
  match levelDue s with
  | none => .next s
  | some die =>
    let d := s.die die
    .next (s.setDie die { d with tick := s.cycle, samples := d.samples ++ levelSamples s die })

/-! ### Records (R486, R487) -/

/-- The 128-byte record of a monitor. -/
def monRecord (s : State) (die n : Nat) : List Byte :=
  let m : Mon := mget {} (s.die die).mons n
  let c := m.cfg
  leBytes 1 n ++ leBytes 1 (c.extractLsb' 8 8).toNat
    ++ leBytes 1 ((if c.getLsbD 1 then 1 else 0) + (if m.sat then 2 else 0) + (if c.getLsbD 0 then 4 else 0))
    ++ leBytes 1 (c.extractLsb' 20 3).toNat ++ leBytes 2 (c.extractLsb' 23 9).toNat ++ leBytes 2 0
    ++ leBytes 8 s.time ++ leBytes 8 m.count ++ leInt 8 m.sum ++ leInt 4 m.min ++ leInt 4 m.max
    ++ leBytes 4 (m.edge.extractLsb' 32 32).toNat ++ leBytes 4 m.width ++ leBytes 16 0
    ++ (List.range 16).flatMap fun k => leBytes 4 (mget 0 m.bins k)

/-- The monitors of a mask, ascending. -/
def maskMons (mask : DWord) : List Nat := (List.range 64).filter fun n => mask.getLsbD n

/-- The records of the monitors of a mask. -/
def monRecords (s : State) (die : Nat) (mask : DWord) : List Byte := (maskMons mask).flatMap fun n => monRecord s die n

/-- Clears the data of the monitors of a mask (R486). -/
def clearMons (s : State) (die : Nat) (mask : DWord) : State :=
  let d := s.die die
  let f (m : Map Mon) (n : Nat) : Map Mon := mset m n { cfg := (mget ({} : Mon) m n).cfg, edge := (mget ({} : Mon) m n).edge }
  s.setDie die { d with mons := (maskMons mask).foldl f d.mons }

end Sys2Proof.Machine
end

