-- ==== Sys2Proof/Machine/Director.lean ====
section
/-! DEFINITION. The system instructions of the Director (R438 to R458), but for ADJOURN; the event ring (R437); the limits of
DRAIN and TIMERD (R446, R455). -/

namespace Sys2Proof.Machine

/-! ### Operands (R439) -/

/-- Illegal Instruction, quoting the word (R184). -/
def illegal (i : Instr) : Res := .trap 1 (word1 i) 0

/-- Whether n bytes from an address on lie in the device's own HBM, at an alignment (R64, R439). -/
def ownHbm (s : State) (a n align : Nat) : Bool :=
  decide (a < 2 ^ 46 ∧ a / 2 ^ 40 = s.record.slot ∧ a % 2 ^ 40 + n ≤ 0xC000000000 ∧ a % align = 0)

/-- A core operand: a core of the Director's own die; bit 12 may be set when the entry names a flag there. -/
def coreOperand (s : State) (v : DWord) (flag : Bool) : Option Nat :=
  let k := (v.extractLsb' 0 9).toNat
  if k < 384 ∧ k / 192 = agDie s.cur ∧ v.toNat - k = (if flag && v.getLsbD 12 then 4096 else 0) then some k else none

/-- A context operand. -/
def ctxOperand (v : DWord) : Option Nat := if v.toNat < 64 then some v.toNat else none

/-- A system instruction (R439): the Director's earlier stores are released; what it does may need several steps. -/
def sysIssue (i : Instr) (body : State → Res) (s : State) : Out1 :=
  issue i { wp := false, wn := false, sp := false, sn := false } .dir (fun s => body (publish s)) s

/-- A system instruction completes with a value in RD. -/
def done (s : State) (rd : BitVec 5) (v : Nat) : Res := .ok (setR s rd.toNat (dw v))

/-- A Director that would consume poison in n bytes of memory does not go on: a warm reset (R465, R473). -/
def reading (s : State) (a n : Nat) (k : Res) : Res :=
  match memPoison s a n with
  | some u => .poison u false
  | none => k

/-- A system instruction waits. -/
def waitFor (s : State) (w : Wait) : Res := .wait (s.setMe { s.me with wait := w })

/-! ### Contexts and their table (R440 to R444) -/

/-- Whether anything of a context remains (R440). -/
def ctxLive (s : State) (ctx : Nat) : Bool :=
  let e := s.ctxEnt ctx
  s.insts.any (fun i => !i.done && decide (i.ctx = ctx)) || decide (e.used ≠ [])
    || e.handles.any (fun h => h.2.cur.isSome || h.2.old.isSome)
    || s.cores.any fun p => match p.2.job with
      | some j => decide (j.ctx = ctx)
      | none => false

/-- Whether a context descriptor breaks the table of R440. -/
def ctxDescBad (s : State) (d : List Byte) : Bool :=
  let n (k len : Nat) : Nat := leNat ((d.drop k).take len)
  !ownHbm s (n 0 8) 4096 4096 || decide (n 8 8 % 4096 ≠ 0 ∨ 2 ^ 46 ≤ n 8 8 ∨ 4096 < n 16 2 ∨ 2 ^ 21 ≤ n 20 3 ∨ 2 ≤ n 23 1 ∨ n 34 30 ≠ 0)
    || (if n 8 8 = 0 then decide (n 16 2 ≠ 0 ∨ n 18 2 ≠ 0) else decide (n 18 2 = 0))

/-- ASIDSET (R440). -/
def execAsidset (rd rs1 rs2 : BitVec 5) (s : State) : Out1 :=
  let i := Instr.asidset rd rs1 rs2
  sysIssue i (fun s =>
    let a := (getR s rs2.toNat).toNat
    match ctxOperand (getR s rs1.toNat) with
    | none => illegal i
    | some c =>
      let d := memN s a 64
      if !ownHbm s a 64 64 then illegal i
      else reading s a 64 <|
        if ctxDescBad s d then illegal i else
        let n (k len : Nat) : Nat := leNat ((d.drop k).take len)
        let e := s.ctxEnt c
        let sp := n 20 3
        if n 23 1 = 1 then
          done (s.setCtxEnt c
            { e with v := true, root := n 0 8, pool := n 8 8, nslot := n 16 2, slotsz := n 18 2,
                     spbound := if sp = 0 ∨ 0x100000 < sp then 0x100000 else sp,
                     sem := BitVec.ofNat 80 (n 24 10), used := [] }) rd 0
        else if ctxLive s c then done s rd 4
        else done (s.setCtxEnt c { e with v := false }) rd 0) s

/-- PTBASE (R441). -/
def execPtbase (rd rs1 rs2 : BitVec 5) (s : State) : Out1 :=
  let i := Instr.ptbase rd rs1 rs2
  sysIssue i (fun s =>
    let a := (getR s rs2.toNat).toNat
    match ctxOperand (getR s rs1.toNat) with
    | none => illegal i
    | some c =>
      if !ownHbm s a 4096 4096 then illegal i
      else if !(s.ctxEnt c).v then done s rd 3
      else done (s.setCtxEnt c { s.ctxEnt c with root := a }) rd 0) s

/-- The log2 of the sizes of TLBINV; none for a reserved one; 48 for every address. -/
def invSize (n : Nat) : Option Nat :=
  match n with
  | 0 => some 12
  | 1 => some 16
  | 2 => some 21
  | 3 => some 25
  | 4 => some 30
  | 5 => some 34
  | 15 => some 48
  | _ => none

/-- Whether TLBINV drops a translation: its scope takes it and it overlaps the aligned range. -/
def invHits (ctx : Nat) (all g : Bool) (va sh : Nat) (t : Tlb) : Bool :=
  let lo := va / 2 ^ sh * 2 ^ sh
  (if t.g then g else all || decide (t.ctx = ctx)) && decide (lo < t.va + t.size ∧ t.va < lo + 2 ^ sh)

/-- Drops the translations that meet a condition from every buffer of the device. -/
def dropTlb (s : State) (f : Tlb → Bool) : State :=
  let k (l : List Tlb) : List Tlb := l.filter fun t => !f t
  { s with cores := s.cores.map fun p => (p.1, { p.2 with tlb := k p.2.tlb })
           clusters := s.clusters.map fun p => (p.1, { p.2 with tlb := k p.2.tlb })
           dies := s.dies.map fun p => (p.1, { p.2 with tlb := k p.2.tlb }) }

/-- TLBINV (R442): the walks that began before it discard their results. -/
def execTlbinv (rd rs1 rs2 : BitVec 5) (s : State) : Out1 :=
  let i := Instr.tlbinv rd rs1 rs2
  sysIssue i (fun s =>
    let x := getR s rs1.toNat
    let y := getR s rs2.toNat
    match invSize (y.extractLsb' 0 4).toNat with
    | none => illegal i
    | some sh =>
      if x &&& ~~~0x33F#64 ≠ 0#64 ∨ y &&& ~~~0xFFFFFFFFF00F#64 ≠ 0#64 then illegal i
      else
        let f := invHits (x.extractLsb' 0 6).toNat (x.getLsbD 8) (x.getLsbD 9) ((y.extractLsb' 12 36).toNat * 4096) sh
        done (dropTlb { s with walks := [] } f) rd 0) s

/-- KILLCTX (R97, R443): its steps, then the context's writes drain. -/
def execKillctx (rd rs1 : BitVec 5) (s : State) : Out1 :=
  let i := Instr.killctx rd rs1
  sysIssue i (fun s =>
    match ctxOperand (getR s rs1.toNat) with
    | none => illegal i
    | some c =>
      match s.me.wait with
      | .kill _ => if killPending s c then .wait s else done s rd 0
      | _ =>
        if !(s.ctxEnt c).v then done s rd 3
        else
          let s1 := killCtx s c
          if killPending s1 c then waitFor s1 (.kill c) else done s1 rd 0) s

/-- SEMMAP (R444). -/
def execSemmap (rd rs1 rs2 : BitVec 5) (s : State) : Out1 :=
  let i := Instr.semmap rd rs1 rs2
  sysIssue i (fun s =>
    let y := getR s rs2.toNat
    match ctxOperand (getR s rs1.toNat) with
    | none => illegal i
    | some c =>
      if 512 ≤ y.toNat then illegal i
      else if !(s.ctxEnt c).v then done s rd 3
      else
        let e := s.ctxEnt c
        let sh := 5 * (y.extractLsb' 0 4).toNat
        let f : BitVec 80 := (y.extractLsb' 4 5).setWidth 80
        done (s.setCtxEnt c { e with sem := (e.sem &&& ~~~(0x1F#80 <<< sh)) ||| (f <<< sh) }) rd 0) s

/-! ### Stopping, saving and loading jobs (R445 to R452) -/

/-- Whether the job of a core has stopped and is the Director's to act on: not one that waits for the save of its walker's mark
(R437, R446, R447). -/
def dirStopped (s : State) (core : Nat) : Bool :=
  match (s.core core).job with
  | some j => j.stopped && (trapStopped s core || decide (j.mark ≠ some 0))
  | none => false

/-- Marks the job of a core for the Director (R394, R445): a job that a walker's mark has stopped is then the Director's. -/
def markDir (s : State) (core : Nat) : State :=
  let c := s.core core
  match c.job with
  | none => s
  | some j =>
    let s1 := s.setCore core { c with job := some { j with mark := some 1 } }
    if j.stopped then (if j.mark = some 0 ∧ !trapStopped s core then stoppedEvent s1 core (jobIdOf s core) 1 1 0 else s1)
    else checkStopped s1 core

/-- PREEMPT (R445): of a gang, every running job is marked, as R392 marks one. -/
def execPreempt (rd rs1 : BitVec 5) (s : State) : Out1 :=
  let i := Instr.preempt rd rs1
  sysIssue i (fun s =>
    match coreOperand s (getR s rs1.toNat) false with
    | none => illegal i
    | some k =>
      match (s.core k).job with
      | none => done s rd 2
      | some j =>
        let same (n : Nat) : Bool := match (s.core n).job with
          | some x => x.gang && decide (x.nix = j.nix)
          | none => false
        let ks := if j.gang then ((List.range 8).map fun p => clusterCore (devCluster k) p).filter same else [k]
        done (ks.foldl markDir s) rd 0) s

/-- The status that an instruction on a stopped job returns when there is none (R446, R448). -/
def notStopped (s : State) (core : Nat) : Nat := if (s.core core).job.isSome then 1 else 2

/-- CTXSAVE (R448, R495): the job is drained, its message queues are stopped and their handler runs end; then the area is
written. -/
def execCtxsave (rd rs1 rs2 : BitVec 5) (s : State) : Out1 :=
  let i := Instr.ctxsave rd rs1 rs2
  sysIssue i (fun s =>
    let x := getR s rs1.toNat
    let a := (getR s rs2.toNat).toNat
    match coreOperand s x true with
    | none => illegal i
    | some k =>
      if !ownHbm s a (max 4096 (areaSize s k)) 4096 then illegal i
      else
        match (s.core k).job with
        | none => done s rd 2
        | some j =>
          if !dirStopped s k then done s rd (notStopped s k)
          else if !drainDone s k ∨ !portsSavable (s.core k) then waitFor s (.drain k 0)
          else if !portsQuiet (s.core k) then waitFor (s.setCore k (quietPorts (s.core k))) (.drain k 0)
          else
            let n := areaSize s k
            let s1 := saveJob s k a (x.getLsbD 12)
            done (if x.getLsbD 12 then returnJob s1 k a j false else s1) rd (n * 2 ^ 32)) s

/-- The job that an area gives a core (R450). -/
def areaJob (s : State) (a : Nat) : Job :=
  let nix := areaNat s a 20 4
  let b := areaNat s a 14 1
  { nix := nix, tile := areaNat s a 16 4, ctx := areaNat s a 6 1, gen := BitVec.ofNat 16 (areaNat s a 8 2), run := b, b := b,
    starved := false, since := s.cycle,
    gang := match instOf s nix with
      | some x => (match instNest s x with
        | some n => n.gang
        | none => false)
      | none => false }

/-- CTXLOAD (R450, R452): an earlier job's engine commands are performed first, and the image's text is copied into the core when
its handler is dormant (R36); nothing is loaded during an adjournment. -/
def execCtxload (rd rs1 rs2 : BitVec 5) (s : State) : Out1 :=
  let i := Instr.ctxload rd rs1 rs2
  sysIssue i (fun s =>
    let x := getR s rs1.toNat
    let a := (getR s rs2.toNat).toNat
    match coreOperand s x true with
    | none => illegal i
    | some k =>
      let c := s.core k
      if !ownHbm s a 4096 4096 then illegal i
      else if s.phase = .adjourning ∨ s.phase = .adjourned then done s rd 9
      else if !c.online then done s rd 6
      else if c.job.isSome || c.next.isSome then done s rd 1
      else if !areaOk s a then done s rd 5
      else
        match areaImage s a with
        | none => done s rd 5
        | some im =>
          let same := decide (c.img = some (im.img, im.reg))
          if enginesBusy c || (!same && (c.hrun.isSome || decide ((s.ctx (k * 4 + 3)).run ≠ .idle))) then waitFor s (.drain k 0)
          else
            let s1 := if same then s else s.setCore k (loadText c im)
            done (loadArea s1 k a (areaJob s a) (x.getLsbD 12)) rd 0) s

/-- DRAIN (R446). -/
def execDrain (rd rs1 rs2 : BitVec 5) (s : State) : Out1 :=
  let i := Instr.drain rd rs1 rs2
  sysIssue i (fun s =>
    let y := (getR s rs2.toNat).toNat
    match coreOperand s (getR s rs1.toNat) false with
    | none => illegal i
    | some k =>
      if s.me.ans = some .timeout then done s rd 8
      else if !dirStopped s k then done s rd (notStopped s k)
      else if drainDone s k then done s rd 0
      else
        match s.me.wait with
        | .drain _ _ => .wait s
        | _ => waitFor s (.drain k (if y = 0 then 0 else s.cycle + y))) s

/-- Resumes the engines of a stopped job; a trapped one executes its instruction again (R453). -/
def resumeJob (s : State) (core : Nat) : State :=
  let c := s.core core
  match c.job with
  | none => s
  | some j =>
    let j1 := { j with stopped := false, hold := false, told := false }
    let c1 := { c with job := some j1, ports := c.ports.map fun p => (p.1, { p.2 with quiet := false }) }
    let go (s : State) (e : Nat) : State :=
      let x := s.ctx (core * 4 + e)
      if x.run = .held ∨ x.run = .trapped then s.setCtx (core * 4 + e) (goOn s x) else s
    let s1 := (List.range 3).foldl go (s.setCore core c1)
    if allRdv s1 core then endOfJob s1 core else s1

/-- WAKE (R453). -/
def execWake (rd rs1 rs2 : BitVec 5) (s : State) : Out1 :=
  let i := Instr.wake rd rs1 rs2
  sysIssue i (fun s =>
    let y := (getR s rs2.toNat).toNat
    let port := y / 16
    match coreOperand s (getR s rs1.toNat) false with
    | none => illegal i
    | some k =>
      if 512 ≤ y ∨ 5 ≤ y % 16 ∨ (y % 16 ≠ 4 ∧ port ≠ 0) then illegal i
      else
        let c := s.core k
        let trapped := decide ((s.ctx (k * 4 + 3)).run = .trapped)
        match y % 16 with
        | 0 =>
          if !dirStopped s k then done s rd 2
          else if s.phase = .adjourning then done s rd 9
          else done (resumeJob s k) rd 0
        | 1 =>
          (match c.job with
           | none => done s rd 2
           | some j => if dirStopped s k then done (countTile (endJob s k) k j.nix true) rd 0 else done s rd 2)
        | 2 =>
          if trapped then done (s.setCtx (k * 4 + 3) { s.ctx (k * 4 + 3) with run := .run }) rd 0 else done s rd 2
        | 3 => if trapped then done (endRun s k) rd 0 else done s rd 2
        | _ => if (c.port port).st = .fault then done (wakePort s k port) rd 0 else done s rd 7) s

/-! ### Launch, time, scoresheet and monitors (R454 to R458) -/

/-- LQPUSH (R379 to R381, R454). -/
def execLqpush (rd rs1 : BitVec 5) (s : State) : Out1 :=
  let i := Instr.lqpush rd rs1
  sysIssue i (fun s =>
    let a := (getR s rs1.toNat).toNat
    if !ownHbm s a 32 8 then illegal i
    else reading s a 32 <|
      let d := memN s a 32
      let n (k len : Nat) : Nat := leNat ((d.drop k).take len)
      let all := (List.range 4).map fun j => n (16 + 4 * j) 4
      let deps := all.take (n 6 1)
      if s.phase = .adjourning ∨ s.phase = .adjourned then done s rd (0x0E * 2 ^ 32)
      else if 16 < n 4 1 ∨ 2 ≤ n 5 1 ∨ 4 < n 6 1 ∨ n 7 1 ≠ 0 ∨ (all.drop (n 6 1)).any (fun x => decide (x ≠ 0)) then
        done s rd (5 * 2 ^ 32)
      else
        match imageNow s (n 0 2) with
        | none => done s rd (0x0A * 2 ^ 32)
        | some im =>
          if im.nests.length ≤ n 2 2 then done s rd (0x0A * 2 ^ 32)
          else if (firstBadDep s deps).isSome then done s rd (8 * 2 ^ 32)
          else if tableFull s then done s rd (7 * 2 ^ 32)
          else
            let die := agDie s.cur
            let x := { newInst s im (n 2 2) (n 4 1) die (dw (n 8 8)) deps 3 with
                       notify := if n 5 1 = 1 then some die else none }
            let l := launch s x
            done l.2 rd l.1) s

/-- The event ring of a Director holds an entry (R437). -/
def ringHolds (s : State) : Bool := decide ((s.die (agDie s.cur)).evHead ≠ (s.die (agDie s.cur)).evTail)

/-- TIMERD (R455). -/
def execTimerd (rd rs1 : BitVec 5) (s : State) : Out1 :=
  let i := Instr.timerd rd rs1
  sysIssue i (fun s =>
    let d := (getR s rs1.toNat).toNat
    if ringHolds s then done s rd 1
    else if d = 0 ∨ s.me.ans = some .timeout then done s rd 0
    else waitFor s (.timer d)) s

/-- An entry of the scoresheet from its 64-byte image (R457, R480). -/
def scoreImage (d : List Byte) : Score :=
  let n (k len : Nat) : Nat := leNat ((d.drop k).take len)
  { sseq := n 0 8, tacc := n 8 8, tdone := n 16 8, sess := n 24 2, origin := n 26 1, op := n 27 1, st := n 28 1,
    status := n 29 1, outcome := n 30 1, result := (d.drop 32).take 8, digest := (d.drop 40).take 24 }

/-- SCORE (R457). -/
def execScore (rd rs1 rs2 : BitVec 5) (s : State) : Out1 :=
  let i := Instr.score rd rs1 rs2
  sysIssue i (fun s =>
    let a := (getR s rs1.toNat).toNat
    let y := getR s rs2.toNat
    let n := (y.extractLsb' 8 56).toNat
    let e := scoreImage (memN s a 64)
    if !ownHbm s a 64 64 || decide (2 ≤ (y.extractLsb' 0 8).toNat) then illegal i
    else reading s a 64 <| if (y.extractLsb' 0 8).toNat = 0 then done (addScore s e).2 rd (addScore s e).1
    else if (scoreOf s n).isNone then done s rd 0
    else done (updScore s n fun o => { o with st := e.st, result := e.result, tdone := e.tdone }) rd n) s

/-- MONSNAP (R458, R486, R487). -/
def execMonsnap (rd rs1 rs2 : BitVec 5) (s : State) : Out1 :=
  let i := Instr.monsnap rd rs1 rs2
  sysIssue i (fun s =>
    let m := getR s rs1.toNat
    let a := (getR s rs2.toNat).toNat
    let die := agDie s.cur
    let r := monRecords s die m
    if !ownHbm s a r.length 64 then illegal i
    else done (clearMons (putN s a r) die m) rd r.length) s

/-! ### The limits of DRAIN and TIMERD -/

/-- The first Director whose DRAIN has reached its limit. -/
def lateDrain (s : State) : Option Nat :=
  mfind (fun ag c => decide (1536 ≤ ag ∧ c.ans = none) && (match c.wait with
    | .drain _ t => decide (t ≠ 0 ∧ t ≤ s.cycle)
    | _ => false)) s.ctxs

/-- DRAIN_TIMEOUT (R446). -/
def execDrainTimeout (s : State) : Out1 :=
  match lateDrain s with
  | none => .next s
  | some ag => .next (s.setCtx ag { s.ctx ag with ans := some .timeout })

/-- The first Director whose TIMERD has reached its deadline without an event. -/
def lateTimer (s : State) : Option Nat :=
  mfind (fun ag c => decide (1536 ≤ ag ∧ c.ans = none) && (match c.wait with
    | .timer d => decide (d ≠ 2 ^ 64 - 1 ∧ d ≤ s.time ∧ (s.die (ag - 1536)).evHead = (s.die (ag - 1536)).evTail)
    | _ => false)) s.ctxs

/-- TIMERD_DEADLINE (R455). -/
def execTimerdDeadline (s : State) : Out1 :=
  match lateTimer s with
  | none => .next s
  | some ag => .next (s.setCtx ag { s.ctx ag with ans := some .timeout })

/-! ### The event ring (R437) -/

/-- The matrix fault record of R328. -/
def mxRecord (f : MxFault) : List Byte :=
  leBytes 8 f.addr ++ leBytes 1 f.cause ++ leBytes 1 f.detail ++ leBytes 1 f.seq ++ leBytes 1 f.ctx
    ++ leBytes 2 f.core ++ leBytes 2 f.epc ++ leBytes 2 f.group ++ leBytes 2 f.col ++ leBytes 4 0 ++ leBytes 8 f.jobid.toNat

/-- The event of a matrix fault record. -/
def mxEvent (f : MxFault) : Event := { ty := 3, core := f.core, time := f.time, body := mxRecord f }

/-- The cluster of a die with a fault record whose record arose first. -/
def firstFault (s : State) (die : Nat) : Option Nat :=
  let l := ((List.range 24).map fun k => die * 24 + k).filter fun k => decide ((s.clus k).faults ≠ [])
  let t (k : Nat) : Nat := match (s.clus k).faults with
    | f :: _ => f.time
    | [] => 0
  l.foldl (fun b k => match b with
    | none => some k
    | some x => if t k < t x then some k else b) none

/-- The event that enters the ring of a die next: of the lowest TYPE the first, with its place: in the list, or a cluster. -/
def nextEvent (s : State) (die : Nat) : Option (Event × (Nat ⊕ Nat)) :=
  let w := (s.die die).waiting
  let i := (List.range w.length).foldl (fun b k => match b, w[k]? with
    | none, some e => some (k, e.1)
    | some (x, y), some e => if e.1.ty < y.ty then some (k, e.1) else some (x, y)
    | b, none => b) (none : Option (Nat × Event))
  match i, firstFault s die with
  | some (k, e), some f =>
    if e.ty ≤ 3 then some (e, .inl k)
    else (match (s.clus f).faults with
      | x :: _ => some (mxEvent x, .inr f)
      | [] => some (e, .inl k))
  | some (k, e), none => some (e, .inl k)
  | none, some f => (match (s.clus f).faults with
    | x :: _ => some (mxEvent x, .inr f)
    | [] => none)
  | none, none => none

/-- Whether the ring of a die is full. -/
def ringFull (d : Die) : Bool := decide (256 ≤ (d.evTail - d.evHead).toNat)

/-- Whether an event of a die has begun to wait for room and is not counted yet. -/
def newStall (s : State) (die : Nat) : Bool :=
  let d := s.die die
  d.evEn && ringFull d
    && (d.waiting.any (fun e => !e.2) || (List.range 24).any fun k => (s.clus (die * 24 + k)).faults.any fun f => !f.late)

/-- The first die whose ring an event enters, or whose waiting events are to be counted. -/
def ringReady (s : State) : Option Nat :=
  (List.range 2).find? fun die =>
    (s.die die).evEn && ((!ringFull (s.die die) && (nextEvent s die).isSome) || newStall s die)

/-- The 64 bytes of an event's entry. -/
def eventBytes (e : Event) : List Byte :=
  leBytes 1 e.ty ++ leBytes 1 0 ++ leBytes 2 e.core ++ leBytes 4 0 ++ leBytes 8 e.time
    ++ (e.body ++ List.replicate 48 0#8).take 48

/-- Takes an event out of what waits. -/
def takeEvent (s : State) (die : Nat) : Nat ⊕ Nat → State
  | .inl k => s.setDie die { s.die die with waiting := (s.die die).waiting.take k ++ (s.die die).waiting.drop (k + 1) }
  | .inr k => s.setClus k { s.clus k with faults := (s.clus k).faults.drop 1 }

/-- The events that wait for room are counted once each in STALLS. -/
def countStalls (s : State) (die : Nat) : State :=
  let d := s.die die
  let a := (d.waiting.filter fun e => !e.2).length
  let ks := (List.range 24).map fun k => die * 24 + k
  let b := ks.foldl (fun n k => n + ((s.clus k).faults.filter fun f => !f.late).length) 0
  let s1 := s.setDie die { d with waiting := d.waiting.map fun e => (e.1, true), evStalls := min (d.evStalls + a + b) (2 ^ 32 - 1) }
  ks.foldl (fun s k => if (s.clus k).faults = [] then s
    else s.setClus k { s.clus k with faults := (s.clus k).faults.map fun f => { f with late := true } }) s1

/-- EVENT_RING_WRITE (R437): the entry is written before EVTAIL advances. -/
def execEventRingWrite (s : State) : Out1 :=
  match ringReady s with
  | none => .next s
  | some die =>
    if ringFull (s.die die) then .next (countStalls s die)
    else
      match nextEvent s die with
      | none => .next s
      | some (e, w) =>
        let s1 := takeEvent s die w
        let d := s1.die die
        let s2 := putN s1 (d.evBase + d.evTail.toNat % 256 * 64) (eventBytes e)
        .next (s2.setDie die { d with evTail := d.evTail + 1#32 })

end Sys2Proof.Machine
end

