-- ==== Sys2Proof/Machine/Frame.lean ====
section
/-! DEFINITION. The frames of the host ports: which standard function a frame belongs to (R409), and MACsec (R420). -/

namespace Sys2Proof.Machine

/-- The payload bytes of a frame: an IP header of 20 or 40 bytes, a header of 8; ARP has 28 bytes, neighbour discovery 72. -/
def payLen (f : Frame) : Nat :=
  let ip (a : List Byte) : Nat := if a.length = 4 then 20 else 40
  match f.pay with
  | .udp a _ _ _ d | .echo a _ _ d => ip a + 8 + d.length
  | .resolve a _ _ _ => if a.length = 4 then 28 else 72
  | .mka _ | .ptp _ => 128
  | .other d => d.length

/-- Whether an address is one that the record gives a host port (R409). -/
def ownIp (s : State) (port : Nat) (a : List Byte) : Bool := (mget [] s.record.ips port).contains a

/-- Whether a frame is for this port alone: its MAC address. -/
def toMe (s : State) (f : Frame) : Bool := decide (f.dst = macOf s f.port)

/-- Whether a frame is for a group of stations. -/
def toGroup (f : Frame) : Bool := (f.dst.headD 0#8).getLsbD 0

/-- The standard function that a frame belongs to (R409): 0 ECP, 1 ARP or neighbour discovery, 2 echo, 3 MKA, 4 PTP, 5 none. A frame of
more than 1,500 bytes, for another station or address, or of another UDP port belongs to none. -/
def frameKind (s : State) (f : Frame) : Nat :=
  if 1500 < payLen f then 5
  else
    match f.pay with
    | .udp _ d _ p _ => if toMe s f && ownIp s f.port d && decide (p = 38120) then 0 else 5
    | .resolve _ _ _ _ => if toMe s f || toGroup f then 1 else 5
    | .echo _ d r _ => if toMe s f && ownIp s f.port d && !r then 2 else 5
    | .mka _ => if toMe s f || toGroup f then 3 else 5
    | .ptp _ => if toMe s f || toGroup f then 4 else 5
    | .other _ => 5

/-- The whole packet number of a frame: with 64 bits the frame carries the low 32, and the number is the least above the last whose low
bits they are (R420). -/
def fullPn (k : Macsec) (pn : Nat) : Nat :=
  if k.xpn then
    let hi := (k.rxPn + 1) / 2 ^ 32
    if (k.rxPn + 1) % 2 ^ 32 ≤ pn % 2 ^ 32 then hi * 2 ^ 32 + pn % 2 ^ 32 else (hi + 1) * 2 ^ 32 + pn % 2 ^ 32
  else pn

/-- Whether a frame is protected and valid (R420): the port has a secure channel, the association is its own, the packet number is above the last
(the replay window is 0), the check is right. -/
def secValid (s : State) (f : Frame) : Bool :=
  match f.sec, s.macsec.find? fun p => decide (p.1 = f.port) with
  | some t, some (_, k) =>
    let pn := fullPn k t.pn
    decide (t.an = k.an ∧ k.rxPn < pn ∧ pn < (if k.xpn then 2 ^ 64 else 2 ^ 32) ∧ t.icv = Config.gcmIcv k.key pn (frameText f))
  | _, _ => false

/-- Whether a frame passes its port's protection (R420). -/
def framePasses (s : State) (f : Frame) : Bool := !protectedPort s f.port || exempt s f || secValid s f

/-- The secure channel after a frame that passed: its packet number has been received. -/
def noteRx (s : State) (f : Frame) : State :=
  if !protectedPort s f.port || !secValid s f then s
  else
    match f.sec with
    | none => s
    | some t =>
      let k := mget {} s.macsec f.port
      { s with macsec := mset s.macsec f.port { k with rxPn := fullPn k t.pn } }

end Sys2Proof.Machine
end

