-- ==== Sys2Proof/Machine/Image.lean ====
section
/-! DEFINITION. The loader of kernel images: the ELF file (R130, R131), the declarations (R133 to R135, R153, R374 to R376), the
occupancy checks (R38, R39); and global accesses through a context's page table for the ECP (R77). -/

namespace Sys2Proof.Machine

/-! ### The file -/

/-- A number of n bytes at an offset of a file. -/
def at_ (b : List Byte) (k n : Nat) : Nat := leNat ((b.drop k).take n)

/-- The header checks of R130; e_flags must name MAJOR 1 and MINOR 0 (R3, R4). -/
def elfOk (b : List Byte) : Bool :=
  decide (64 ≤ b.length ∧ at_ b 0 4 = 0x464C457F ∧ at_ b 4 1 = 2 ∧ at_ b 5 1 = 1 ∧ at_ b 7 1 = 0 ∧ at_ b 16 2 = 2
    ∧ at_ b 18 2 = 0xCA3E ∧ at_ b 24 8 = 0 ∧ at_ b 48 4 = 0x100)

/-- A section of a file: its name, its type, its address, its offset and size. -/
structure Sect where
  name : List Byte
  ty   : Nat
  addr : Nat
  off  : Nat
  size : Nat
deriving DecidableEq, Repr

/-- The bytes of a file up to a zero byte. -/
def untilZero (b : List Byte) : List Byte := b.takeWhile fun x => decide (x ≠ 0#8)

/-- The names of the sections of a kernel image (R131). -/
def kernelSects : List String := [".text.la", ".text.ex", ".text.sa", ".text.hdl", ".data", ".claez.decl", ".symtab", ".strtab"]

/-- The names of the sections of a firmware image (R132). -/
def firmSects : List String := [".text.dir", ".data", ".symtab", ".strtab"]

/-- The bytes of an ASCII name. -/
def nameBytes (n : String) : List Byte := n.toList.map fun c => BitVec.ofNat 8 c.toNat

/-- The sections of a file but the null section; none when the tables do not lie in the file. The section that holds the names counts if
its own name is one of R131 or R132, as .strtab is: ELF needs the table, and R131 names no other place for it. -/
def sections (b : List Byte) : Option (List Sect) :=
  let off := at_ b 40 8
  let n := at_ b 60 2
  let ix := at_ b 62 2
  let hdr (i : Nat) : List Byte := (b.drop (off + 64 * i)).take 64
  if at_ b 58 2 ≠ 64 ∨ b.length < off + 64 * n ∨ n ≤ ix then none
  else
    let names := (b.drop (at_ (hdr ix) 24 8)).take (at_ (hdr ix) 32 8)
    let named (i : Nat) : List Byte := untilZero (names.drop (at_ (hdr i) 0 4))
    let listed (i : Nat) : Bool := (kernelSects ++ firmSects).any fun k => decide (nameBytes k = named i)
    let all := ((List.range n).filter fun i => decide (at_ (hdr i) 4 4 ≠ 0) && (decide (i ≠ ix) || listed i)).map fun i =>
      ({ name := named i, ty := at_ (hdr i) 4 4, addr := at_ (hdr i) 16 8, off := at_ (hdr i) 24 8, size := at_ (hdr i) 32 8 } : Sect)
    if all.all fun x => decide (x.off + x.size ≤ b.length) then some all else none

/-- The section of a name, if the file has exactly one. -/
def sectOf (l : List Sect) (n : String) : Option Sect :=
  match l.filter fun x => decide (x.name = nameBytes n) with
  | [x] => some x
  | _ => none

/-- Whether the sections are those of a list, each once and no other, the first k of them at address 0 and at most 64 KiB. -/
def sectsAre (names : List String) (k : Nat) (l : List Sect) : Bool :=
  names.all (fun n => (sectOf l n).isSome) && decide (l.length = names.length)
    && (names.take k).all fun n => match sectOf l n with
      | some x => decide (x.addr = 0 ∧ x.size ≤ 65536)
      | none => false

/-- Whether the sections are those of R131. -/
def sectsOk (l : List Sect) : Bool := sectsAre kernelSects 4 l

/-- The bytes of a section. -/
def sectBytes (b : List Byte) (l : List Sect) (n : String) : List Byte :=
  match sectOf l n with
  | some x => (b.drop x.off).take x.size
  | none => []

/-- The text and data of a firmware image that keeps R132: the header of R130, exactly the sections of R132, .data at most 16 MiB. -/
def firmOf (b : List Byte) : Option (Map Word × List Byte) :=
  match if elfOk b then sections b else none with
  | none => none
  | some l =>
    let t := sectBytes b l ".text.dir"
    let d := sectBytes b l ".data"
    if !sectsAre firmSects 1 l || decide (0x1000000 < d.length) then none
    else some ((List.range ((t.length + 3) / 4)).map (fun i => (i, BitVec.ofNat 32 (at_ t (4 * i) 4))), d)

/-! ### The declarations (R133) -/

/-- The records of .claez.decl: TYPE, whether its header keeps R133, LENGTH and the body; what follows a header whose LENGTH does not
fit is one bad record. The first argument bounds their number. -/
def records : Nat → List Byte → List (Nat × Bool × Nat × List Byte)
  | 0, _ => []
  | n + 1, b =>
    if b = [] then []
    else
      let len := at_ b 4 4
      let ty := at_ b 0 2
      if b.length < 8 ∨ len < 8 ∨ b.length < len then [(ty, false, len, b.drop 8)]
      else (ty, decide (at_ b 2 2 = 0), len, (b.take len).drop 8) :: records n (b.drop ((len + 7) / 8 * 8))

/-- The length of a record of each type, header included. -/
def recLen (ty : Nat) : Nat :=
  match ty with
  | 1 | 2 => 64
  | 3 => 24
  | 4 => 48
  | 5 => 24
  | _ => 16

/-- Whether n bytes from k on are zero. -/
def zeroAt (b : List Byte) (k n : Nat) : Bool := ((b.drop k).take n).all fun x => decide (x = 0#8)

/-- Whether a code is a bank format (R48). -/
def bankCode (c : Nat) : Bool := decide (c = 0) || (codeFmt c).isSome || isEmb c

/-- Whether a record of TYPE 4 to 8 keeps its layout and its ranges (R133 to R135). -/
def plainOk (ty : Nat) (b : List Byte) : Bool :=
  match ty with
  | 4 => decide (at_ b 0 2 < 64 ∧ at_ b 34 1 < 16 ∧ at_ b 36 1 < 2) && zeroAt b 2 6 && zeroAt b 37 3
  | 5 =>
    decide (at_ b 0 4 % 64 = 0 ∧ at_ b 4 4 % 64 = 0 ∧ at_ b 4 4 ≠ 0 ∧ at_ b 0 4 + at_ b 4 4 ≤ 0x200000 ∧ at_ b 8 1 < 2) && zeroAt b 9 7
  | 6 => decide (at_ b 0 2 < 256) && bankCode (at_ b 2 1) && zeroAt b 3 5
  | 7 => decide (at_ b 0 1 < 32 ∧ 1 ≤ at_ b 2 1 ∧ at_ b 2 1 ≤ 64 ∧ at_ b 1 1 + at_ b 2 1 ≤ 256) && zeroAt b 3 5
  | _ => true

/-- Whether .claez.decl breaks R133: a reserved type, a bad header, a record of TYPE 4 to 8 that is not as R133 has it, a second
stream-buffer record of a port. -/
def declBad (rs : List (Nat × Bool × Nat × List Byte)) : Bool :=
  let ports := (rs.filter fun r => decide (r.1 = 7)).map fun r => at_ r.2.2.2 0 1
  rs.any (fun r => decide (r.1 = 0 ∨ 8 < r.1) || ((!r.2.1 || decide (r.2.2.1 ≠ recLen r.1) || !plainOk r.1 r.2.2.2) && decide (4 ≤ r.1)))
    || ports.any fun p => decide (1 < (ports.filter fun q => decide (q = p)).length)

/-- A loop record (R153). -/
def loopRecOf (b : List Byte) : LoopRec :=
  { rec_ := at_ b 0 1, eng := at_ b 1 1, pro := at_ b 2 2, ker := at_ b 4 2, kend := at_ b 6 2, eend := at_ b 8 2, kind := at_ b 10 1,
    reg := at_ b 11 1, trip := at_ b 12 4 }

/-- Whether a loop record keeps R153. -/
def loopOk (l : LoopRec) : Bool :=
  decide (l.rec_ < 64 ∧ l.eng < 3 ∧ l.kind < 2 ∧ l.pro ≤ l.ker ∧ l.ker ≤ l.kend ∧ l.kend ≤ l.eend ∧ l.eend ≤ 16383
    ∧ l.reg < (if l.eng = 1 then 16 else 32))

/-- The levels of a nest record (R374). -/
def levelsOf (b : List Byte) : List NLevel :=
  (List.range (at_ b 1 1)).map fun l => { extent := at_ b (8 + 8 * l) 4, kind := at_ b (12 + 8 * l) 1, order := at_ b (13 + 8 * l) 1 }

/-- The role entries of a role map (R375). -/
def rolesOf (b : List Byte) : List Nat := (List.range 24).map fun k => at_ b (8 + 2 * k) 2

/-- GANG as R375 gives it: the positions do not all carry the same entries. -/
def rolesGang (r : List Nat) : Bool := (List.range 24).any fun k => decide (r.getD k 0 ≠ r.getD (k % 3) 0)

/-- A nest with its role map. -/
def nestOf (b : List Byte) (roles : List Nat) : Nest :=
  { prio := at_ b 0 1, gang := decide (at_ b 2 1 % 2 = 1), levels := levelsOf b, roles := roles }

/-- Whether a nest record and its role map keep R374 to R376; `sizes` are the sizes of .text.la, .text.ex and .text.sa. -/
def nestOk (sizes : List Nat) (b : List Byte) (n : Nest) : Bool :=
  let k := at_ b 1 1
  decide (at_ b 0 1 < 16 ∧ 1 ≤ k ∧ k ≤ 6 ∧ at_ b 2 1 < 2) && zeroAt b 3 5 && zeroAt b (8 + 8 * k) (48 - 8 * k)
    && (List.range k).all (fun o => n.levels.any fun l => decide (l.order = o))
    && (List.range k).all (fun l => zeroAt b (14 + 8 * l) 2)
    && n.levels.all (fun l => decide (l.kind < 3 ∧ l.extent ≠ 0))
    && decide ((n.levels.filter fun l => decide (l.kind = 2)).length ≤ 1)
    && decide (tilesOf (n.levels.filter fun l => decide (l.kind ≠ 0)) < 2 ^ 32)
    && decide (n.gang = rolesGang n.roles)
    && (List.range 24).all fun i =>
      let a := n.roles.getD i 0
      decide (a = 0xFFFF ∨ (a ≤ 16383 ∧ sizes.getD (i % 3) 0 ≠ 0))

/-! ### Occupancy (R38, R39, R135) -/

/-- The number of INDEX values of an ITEM (R135); 0 for another. -/
def itemIdx (item : Nat) : Nat :=
  match item with
  | 1 => 6
  | 2 => 2
  | 3 => 32
  | 4 => 8
  | 5 | 6 | 7 => 1
  | _ => 0

/-- The limit of an item (R38); `bufs` are the stream-buffer records. -/
def itemLimit (bufs : List (Nat × Nat × Nat)) (item ix : Nat) : Nat :=
  match item with
  | 1 => 16
  | 2 => 4
  | 3 => min 8192 (128 * (match bufs.find? fun b => decide (b.1 = ix) with
    | some b => b.2.2
    | none => 0))
  | 4 => 128 * bufs.foldl (fun n b => max n b.2.2) 0
  | 5 => 32
  | 6 => 256
  | _ => 16

/-- Whether an item must be declared (R38). -/
def itemNeeded (bufs : List (Nat × Nat × Nat)) (item ix : Nat) : Bool :=
  match item with
  | 3 => bufs.any fun b => decide (b.1 = ix)
  | 4 => false
  | _ => true

/-- The refusal of R39: its cause and index. An item that is declared more than once is over its limit when one declaration is. -/
def occupancyBad (bufs : List (Nat × Nat × Nat)) (occ : List (Nat × Nat × Nat)) : Option (Nat × Nat) :=
  match occ.find? fun o => decide (itemIdx o.1 ≤ o.2.1) with
  | some o => some (8, o.2.1)
  | none =>
    ((List.range 8).flatMap fun item => (List.range (itemIdx item)).map fun ix => (item, ix)).findSome? fun x =>
      let mine := occ.filter fun o => decide (o.1 = x.1 ∧ o.2.1 = x.2)
      if mine = [] then (if itemNeeded bufs x.1 x.2 then some (8, x.2) else none)
      else if mine.any fun o => decide (itemLimit bufs x.1 x.2 < o.2.2) then some x
      else none

/-! ### The loader (R415) -/

/-- What the loader finds: an image, or a refusal: STATUS, DETAIL and reply body (R414). -/
inductive Loaded where
  | ok (i : Image)
  | bad (status detail : Nat) (body : List Byte)
deriving DecidableEq, Repr

/-- The image of some bytes, for an IMG, a context and a DATAVA, or its refusal: the checks of R130 to R133 and R376 in the order
of their DETAIL, then those of R38. -/
def loadImage (b : List Byte) (img ctx dva reg : Nat) : Loaded :=
  if !elfOk b then .bad 0x0A 1 []
  else
    match sections b with
    | none => .bad 0x0A 2 []
    | some l =>
      if !sectsOk l then .bad 0x0A 2 []
      else
        let text := (kernelSects.take 4).map fun n => sectBytes b l n
        let d := sectBytes b l ".claez.decl"
        let rs := records (d.length + 1) d
        let of (ty : Nat) : List (List Byte) := (rs.filter fun r => decide (r.1 = ty)).map fun r => r.2.2.2
        let lenBad (ty : Nat) : Bool := rs.any fun r => decide (r.1 = ty) && (!r.2.1 || decide (r.2.2.1 ≠ recLen ty))
        let loops := (of 3).map loopRecOf
        let maps := of 2
        let nests := (of 1).zip (List.range (of 1).length)
        let mine (k : Nat) : List (List Byte) := maps.filter fun m => decide (at_ m 0 2 = k)
        let ns := nests.map fun x => nestOf x.1 (rolesOf ((mine x.2).headD []))
        let bufs := (of 7).map fun r => (at_ r 0 1, at_ r 1 1, at_ r 2 1)
        let occ := (of 8).map fun r => (at_ r 0 2, at_ r 2 2, at_ r 4 4)
        if declBad rs then .bad 0x0A 3 []
        else if lenBad 3 || loops.any (fun x => !loopOk x)
            || loops.any (fun x => decide (1 < (loops.filter fun y => decide (y.rec_ = x.rec_)).length)) then .bad 0x0A 4 []
        else if lenBad 1 || lenBad 2 || maps.any (fun m => !zeroAt m 2 6 || decide (ns.length ≤ at_ m 0 2))
            || nests.any (fun x => decide ((mine x.2).length ≠ 1)) || !((of 1).zip ns).all (fun x => nestOk (text.map List.length) x.1 x.2)
            then .bad 0x0A 5 []
        else
          match occupancyBad bufs occ with
          | some (cause, ix) => .bad 9 cause (leBytes 4 ix)
          | none =>
            .ok { img := img, ctx := ctx, reg := reg, text := text, nests := ns, loops := loops,
                  live := (of 4).map fun r => (at_ r 0 2, r.drop 8), pads := (of 5).map fun r => (at_ r 0 4, at_ r 4 4, decide (at_ r 8 1 = 1)),
                  banks := (of 6).map fun r => (at_ r 0 2, at_ r 2 1), bufs := bufs, data := sectBytes b l ".data", dva := dva,
                  digest := sha384 b }

/-! ### Accesses of the ECP in a context (R77) -/

/-- The physical address of an access of the ECP member, or its MFC. -/
def ecpXlate (s : State) (ctx va : Nat) (w : Bool) : Nat ⊕ Nat :=
  if 2 ^ 48 ≤ va then .inl 8
  else
    match walk s ctx (s.ctxEnt ctx).gen va with
    | .inl m => .inl m
    | .inr t => tlbApply s t va w false

/-- The pieces of n bytes at a virtual address, page by page: the physical address and the length of each; or an MFC with the lowest
byte in the failing page. The first argument bounds the pages. -/
def ecpPieces (s : State) (ctx : Nat) (w : Bool) : Nat → Nat → Nat → (Nat × Nat) ⊕ List (Nat × Nat)
  | 0, _, _ => .inr []
  | k + 1, va, n =>
    if n = 0 then .inr []
    else
      match ecpXlate s ctx va w with
      | .inl m => .inl (m, va)
      | .inr pa =>
        let here := min n (4096 - va % 4096)
        match ecpPieces s ctx w k (va + here) (n - here) with
        | .inl e => .inl e
        | .inr l => .inr ((pa, here) :: l)

/-- The pieces of an access. -/
def ecpAccess (s : State) (ctx va n : Nat) (w : Bool) : (Nat × Nat) ⊕ List (Nat × Nat) := ecpPieces s ctx w (n / 4096 + 2) va n

/-- Writes bytes to the pieces of an access. -/
def putPieces (s : State) : List (Nat × Nat) → List Byte → State
  | [], _ => s
  | (pa, n) :: t, b => putPieces (putN s pa (b.take n)) t (b.drop n)

/-- Registers an image (R415): its .data is placed, and it replaces the image of the same number; or the MFC and address that kept
its .data from being placed. -/
def register (s : State) (i : Image) : (Nat × Nat) ⊕ State :=
  match ecpAccess s i.ctx i.dva i.data.length true with
  | .inl e => .inl e
  | .inr l => .inr { putPieces s l i.data with images := s.images ++ [i], regCtr := s.regCtr + 1 }

end Sys2Proof.Machine
end

