-- ==== Sys2Proof/Machine/Ecp.lean ====
section
/-! DEFINITION. The Enmuent Command Protocol (R409 to R416): requests, sessions, replies, the commands but for ADJOURN and RESUME;
attestation (R430). -/

namespace Sys2Proof.Machine

/-! ### Requests (R409, R410) -/

/-- An ECP request: where it came from, its OP, session, SEQ, header and body. -/
structure Req where
  port : Nat
  src  : Client
  op   : Nat
  sess : Nat
  seq  : Nat
  head : List Byte
  body : List Byte
deriving DecidableEq, Repr

/-- The bytes of an ECP datagram for this device (R409), and its client. -/
def ecpData (s : State) (f : Frame) : Option (Client × List Byte) :=
  match f.pay with
  | .udp a d p _ b => if frameKind s f = 0 then some ({ mac := f.src, ip := a, own := d, uport := p }, b) else none
  | _ => none

/-- The request in a datagram; none for one that is dropped: a wrong MAGIC or LEN, a bit that a request has zero (FLAGS, STATUS,
DETAIL, bytes [23:20]), no valid protection on a protected port (R410, R420). -/
def reqOf (s : State) (f : Frame) : Option Req :=
  match ecpData s f with
  | none => none
  | some (c, b) =>
    if !framePasses s f ∨ b.length < 32 ∨ b.take 4 ≠ [0x45#8, 0x43#8, 0x50#8, 0x01#8]
        ∨ at_ b 5 3 ≠ 0 ∨ at_ b 20 4 ≠ 0 ∨ 1024 < at_ b 16 4 ∨ at_ b 16 4 ≠ b.length - 32 then none
    else some { port := f.port, src := c, op := at_ b 4 1, sess := at_ b 8 2, seq := at_ b 12 4, head := b.take 32, body := b.drop 32 }

/-- Whether a frame belongs to another standard function than ECP (R409). -/
def otherKind (s : State) (f : Frame) : Bool := decide (frameKind s f ≠ 0 ∧ frameKind s f ≠ 5)

/-- The codes of R413. -/
def ecpOps : List Nat :=
  [0x01, 0x02, 0x03, 0x10, 0x11, 0x12, 0x13, 0x20, 0x21, 0x22, 0x30, 0x31, 0x32, 0x40, 0x41, 0x50]

/-- The fragments of a reply body; at least one. -/
def fragments : Nat → List Byte → List (List Byte)
  | 0, b => [b]
  | n + 1, b => if b.length ≤ 1024 then [b] else b.take 1024 :: fragments n (b.drop 1024)

/-- The datagrams of a reply (R410). -/
def replyFrames (s : State) (r : Req) (sess status detail sseq : Nat) (body : List Byte) : List Frame :=
  let fs := fragments (body.length / 1024 + 1) body
  ((List.range fs.length).zip fs).map fun x =>
    toClient s r.port r.src
      (ecpHeader r.op (if x.1 + 1 < fs.length then 5 else 1) status (detail % 256) sess x.1 r.seq x.2.length sseq ++ x.2)

/-- A session. -/
def State.ses (s : State) (n : Nat) : Sess := mget {} s.sess n

/-- Sends the reply to the request of a session and stores it; the request is no longer being executed (R412). -/
def answer (s : State) (r : Req) (status detail sseq : Nat) (body : List Byte) : State :=
  let fs := replyFrames s r r.sess status detail sseq body
  let s1 := if s.sess.any fun p => decide (p.1 = r.sess) then
      { s with sess := mset s.sess r.sess { s.ses r.sess with busy := false, reply := fs } } else s
  sendAll s1 fs

/-- Sends a reply that changes nothing else. -/
def refuse (s : State) (r : Req) (status : Nat) : State := sendAll s (replyFrames s r r.sess status 0 0 [])

/-! ### Executing a request (R412 to R414) -/

/-- What executing a request comes to: a refusal, with what R415 lets it change; a success with its reply body, and the state of its scoresheet entry for a command
that has one; a reply that comes later, with the context or handle it waits for. -/
inductive Done where
  | bad (status detail : Nat) (body : List Byte)
  | badS (s : State) (status detail : Nat) (body : List Byte)
  | ok (s : State) (body : List Byte)
  | scored (s : State) (body : List Byte) (st : Nat)
  | later (s : State) (waits : Nat)

/-- The digest of a request (R480): its header with SSEQ zero, and its body. -/
def reqDigest (r : Req) : List Byte := (sha384 (r.head.take 24 ++ leBytes 8 0 ++ r.body)).take 24

/-- The scoresheet entry of a request that has taken effect (R480). -/
def reqScore (s : State) (r : Req) (st : Nat) (body : List Byte) : Nat × State :=
  addScore s { sseq := 0, tacc := 0, tdone := if st = 2 then s.time else 0, sess := r.sess, origin := 0, op := r.op, st := st,
               result := body.take 8, digest := reqDigest r }

/-- Executes an accepted request of a session. -/
def execute (s : State) (r : Req) (run : State → Req → Done) : State :=
  match run s r with
  | .bad st d b => answer s r st d 0 b
  | .badS s1 st d b => answer s1 r st d 0 b
  | .ok s1 b => answer s1 r 0 0 0 b
  | .scored s1 b st =>
    let x := reqScore s1 r st b
    answer x.2 r 0 0 x.1 b
  | .later s1 w =>
    let x := reqScore s1 r 0 []
    { x.2 with ecpq := x.2.ecpq ++ [{ sess := r.sess, seq := r.seq, op := r.op, sseq := x.1, port := r.port, src := r.src, ctx := w }],
               sess := mset x.2.sess r.sess { x.2.ses r.sess with busy := true } }

/-- Why an accepted request is not executed: its OP, a failed boot, an adjournment or a start-up (R414, R490, R493). -/
def notServed (s : State) (op : Nat) : Option Nat :=
  if !ecpOps.contains op then some 4
  else if s.bootFail ∧ !([0x01, 0x02, 0x32, 0x50].contains op) then some 0x0F
  else if s.phase ≠ .run ∧ !s.bootFail ∧ !([0x01, 0x02, 0x30, 0x32, 0x41, 0x50].contains op) then some 0x0E
  else none

/-- A request of an open session (R412). -/
def inSession (s : State) (r : Req) (run : State → Req → Done) : State :=
  let x := s.ses r.sess
  let s1 := { s with sess := mset s.sess r.sess { x with at_ := s.cycle, port := r.port, src := r.src } }
  if r.seq = x.last then
    (if x.busy then s1
     else sendAll s1 (x.reply.map fun f => match f.pay with
       | .udp _ _ _ _ d => toClient s r.port r.src d
       | _ => f))
  else if r.seq ≠ (x.last + 1) % 2 ^ 32 then refuse s1 r 1
  else if x.busy then refuse s1 r 2
  else
    let s2 := { s1 with sess := mset s1.sess r.sess { s1.ses r.sess with last := r.seq } }
    match notServed s r.op with
    | some st => answer s2 r st 0 0 []
    | none => execute s2 r run

/-- An ECP request arrives as the command of one row: a dropped datagram is counted, one of another row is left to that row. -/
def ecpArm (op : Nat) (run : State → Req → Done) (s : State) : Out1 :=
  if s.phase = .off ∨ otherKind s s.arg.frame then .next s
  else
    match reqOf s s.arg.frame with
    | none => .next (countDrop s)
    | some r =>
      let s1 := noteRx s s.arg.frame
      if r.op ≠ op ∧ ecpOps.contains r.op then .next s
      else if !s.sess.any (fun p => decide (p.1 = r.sess)) then .next (refuse s1 r 3)
      else .next (inSession s1 r run)

/-! ### Body checks (R413, R414) -/

/-- The first byte of a body that is not zero where the table has zeros. -/
def zeroBad (b : List Byte) (k n : Nat) : Option Nat :=
  ((List.range n).find? fun i => decide (b.getD (k + i) 0#8 ≠ 0#8)).map fun i => k + i

/-- The first missing or the first surplus byte of a body. -/
def lenBad (b : List Byte) (lo hi : Nat) : Option Nat :=
  if b.length < lo then some b.length else if hi < b.length then some hi else none

/-- A field that is out of its range is bad at its first byte. -/
def fieldBad (k : Nat) (bad : Bool) : Option Nat := if bad then some k else none

/-- BADFIELD with the first bad byte of a body, or what follows. -/
def checked (l : List (Option Nat)) (k : Done) : Done :=
  match l.filterMap id with
  | [] => k
  | a :: t => .bad 5 (t.foldl min a) []

/-- MEMFAULT (R414). -/
def memFault (e : Nat × Nat) : Done := .bad 6 e.1 (leBytes 8 e.2)

/-! ### Sessions (R411) -/

/-- OPEN (R411). -/
def execOpenSession (s0 : State) : Out1 :=
  if s0.phase = .off ∨ otherKind s0 s0.arg.frame then .next s0
  else
    match reqOf s0 s0.arg.frame with
    | none => .next (countDrop s0)
    | some r =>
      let s := noteRx s0 s0.arg.frame
      if r.op ≠ 0x01 then
        (if ecpOps.contains r.op then .next s0
         else if !s.sess.any (fun p => decide (p.1 = r.sess)) then .next (refuse s r 3)
         else .next (inSession s r fun _ _ => .bad 4 0 []))
      else if r.sess ≠ 0 ∨ r.seq ≠ 0 then .next (refuse s r 1)
      else if r.body ≠ [] then .next (refuse s r 5)
      else
        match ((List.range 16).map fun k => k + 1).find? fun n => !s.sess.any fun p => decide (p.1 = n) with
        | none => .next (refuse s r 2)
        | some n =>
          let fs := replyFrames s r n 0 0 0 []
          .next (sendAll { s with sess := mset s.sess n { at_ := s.cycle, port := r.port, src := r.src, reply := fs } } fs)

/-- Ends a session: its subscription and the image that it was staging go with it (R411, R413); a command that it has had accepted is still
executed, with no reply. -/
def endSession (s : State) (n : Nat) : State :=
  { s with sess := mdel s.sess n, stages := mdel s.stages n,
           ecpq := s.ecpq.map fun w => if w.sess = n then { w with sess := 0 } else w }

/-- CLOSE (R411, R413). -/
def execCloseSession (s0 : State) : Out1 :=
  if s0.phase = .off ∨ otherKind s0 s0.arg.frame then .next s0
  else
    match reqOf s0 s0.arg.frame with
    | none => .next (countDrop s0)
    | some r =>
      let s := noteRx s0 s0.arg.frame
      if r.op ≠ 0x02 then ecpArm 0x02 (fun _ _ => .bad 4 0 []) s0
      else if !s.sess.any (fun p => decide (p.1 = r.sess)) then .next (refuse s r 3)
      else if r.seq ≠ (s.ses r.sess).last ∧ r.seq = ((s.ses r.sess).last + 1) % 2 ^ 32 ∧ !(s.ses r.sess).busy ∧ r.body = [] then
        .next (endSession (refuse s r 0) r.sess)
      else .next (inSession s r fun _ r => checked [lenBad r.body 0 0] (.bad 4 0 []))

/-- The cycles of 600 s (R411). -/
def sessionCycles : Nat := 900000000000

/-- The first session that has had no request for 600 s. -/
def staleSession (s : State) : Option Nat := mfind (fun _ x => decide (x.at_ + sessionCycles ≤ s.cycle)) s.sess

/-- SESSION_TIMEOUT (R411). -/
def execSessionTimeout (s : State) : Out1 :=
  match staleSession s with
  | none => .next s
  | some n => .next (endSession s n)

/-- SUBSCRIBE (R413, R416): a mask of 8 bytes and 56 bytes of zero. -/
def execSubscribe (s : State) : Out1 :=
  ecpArm 0x03 (fun s r =>
    checked [lenBad r.body 64 64, fieldBad 0 (decide (8 ≤ at_ r.body 0 1)), zeroBad r.body 1 63]
      (.ok { s with sess := mset s.sess r.sess { s.ses r.sess with mask := at_ r.body 0 8 } } [])) s

/-! ### Images and memory -/

/-- One chunk of an image: the staged image after it; none when its place is wrong or it grows beyond 64 MiB (R415). -/
def stageChunk (s : State) (r : Req) : Option Stage :=
  let b := r.body
  let data := b.drop 16
  let x : Stage := { img := at_ b 0 1, ctx := at_ b 1 1, dva := at_ b 8 8, body := data }
  if at_ b 2 1 % 2 = 1 then (if at_ b 4 4 = 0 then some x else none)
  else
    match s.stages.find? fun p => decide (p.1 = r.sess) with
    | none => none
    | some (_, g) =>
      if g.body.length ≠ at_ b 4 4 ∨ g.img ≠ x.img ∨ g.ctx ≠ x.ctx ∨ g.dva ≠ x.dva ∨ 0x4000000 < g.body.length + data.length then none
      else some { g with body := g.body ++ data }

/-- LOADIMG (R415). -/
def execLoadimg (s : State) : Out1 :=
  ecpArm 0x10 (fun s r =>
    let b := r.body
    checked [lenBad b 17 1024, fieldBad 0 (decide (64 ≤ at_ b 0 1)), fieldBad 1 (decide (64 ≤ at_ b 1 1)), fieldBad 2 (decide (4 ≤ at_ b 2 1)),
        zeroBad b 3 1]
      (if !(s.ctxEnt (at_ b 1 1)).v then .bad 0x0D 0 []
       else
         match stageChunk s r with
         | none => .badS { s with stages := mdel s.stages r.sess } 0x0A 6 []
         | some g =>
           if at_ b 2 1 < 2 then .ok { s with stages := mset s.stages r.sess g } []
           else
             match loadImage g.body g.img g.ctx g.dva s.regCtr with
             | .bad st d x => .bad st d x
             | .ok i =>
               match register s i with
               | .inl e => memFault e
               | .inr s1 => .scored { s1 with stages := mdel s1.stages r.sess } [] 2)) s

/-- WRITEMEM (R413). -/
def execWritemem (s : State) : Out1 :=
  ecpArm 0x11 (fun s r =>
    let b := r.body
    checked [lenBad b 17 1024, fieldBad 0 (decide (64 ≤ at_ b 0 1)), zeroBad b 1 7]
      (if !(s.ctxEnt (at_ b 0 1)).v then .bad 0x0D 0 []
       else
         match ecpAccess s (at_ b 0 1) (at_ b 8 8) (b.length - 16) true with
         | .inl e => memFault e
         | .inr l => .scored (putPieces s l (b.drop 16)) [] 2)) s

/-- READMEM (R413). -/
def execReadmem (s : State) : Out1 :=
  ecpArm 0x12 (fun s r =>
    let b := r.body
    let n := at_ b 2 2
    checked [lenBad b 16 16, fieldBad 0 (decide (64 ≤ at_ b 0 1)), zeroBad b 1 1, fieldBad 2 (decide (n = 0 ∨ 1024 < n)), zeroBad b 4 4]
      (if !(s.ctxEnt (at_ b 0 1)).v then .bad 0x0D 0 []
       else
         match ecpAccess s (at_ b 0 1) (at_ b 8 8) n false with
         | .inl e => memFault e
         | .inr l => .ok s (l.flatMap fun x => memN s x.1 x.2))) s

/-! ### Tables -/

/-- The first waiting request of an OP that can be completed, with its place. -/
def waitDone (s : State) (op : Nat) (ready : EcpWait → Bool) : Option (Nat × EcpWait) :=
  ((List.range s.ecpq.length).zip s.ecpq).find? fun x => decide (x.2.op = op) && ready x.2

/-- A waiting request is complete: its entry is DONE and its reply is sent. -/
def finish (s : State) (k : Nat) (w : EcpWait) : State :=
  let s1 := updScore { s with ecpq := s.ecpq.take k ++ s.ecpq.drop (k + 1) } w.sseq fun e => { e with st := 2, tdone := s.time }
  if w.sess = 0 then s1 else answer s1 { port := w.port, src := w.src, op := w.op, sess := w.sess, seq := w.seq, head := [], body := [] } 0 0 w.sseq []

/-- The unbinding that waits and can be done: every command on the handle has been accepted. -/
def toUnbind (s : State) : Option (Nat × EcpWait) := waitDone s 0x13 fun w => !toAccept s (w.ctx / 32) (w.ctx % 32)

/-- BINDTABLE (R342, R413): with V = 0 it waits until every command on the handle has been accepted. -/
def execBindtable (s : State) : Out1 :=
  if s.arg = {} then
    match toUnbind s with
    | none => .next s
    | some (k, w) => .next (finish (unbindAt s (w.ctx / 32) (w.ctx % 32) false) k w)
  else
    ecpArm 0x13 (fun s r =>
      let b := r.body
      let ctx := at_ b 0 1
      let n := at_ b 1 1
      let raw := b.drop 16
      let d := descOf raw
      checked [lenBad b 80 80, fieldBad 0 (decide (64 ≤ ctx)), fieldBad 1 (decide (32 ≤ n)), zeroBad b 2 14]
        (if !(s.ctxEnt ctx).v then .bad 0x0D 0 []
         else
           let x := handleOf s ctx n
           if !d.v then
             (if x.cur = none then .bad 0x0C 1 []
              else if toAccept s ctx n then .later s (ctx * 32 + n)
              else .scored (unbindAt s ctx n false) [] 2)
           else if x.cur ≠ none ∨ curOf s ctx n ≠ none ∨ (d.dist ≠ 0 ∧ tidUsed s d.tid) then .bad 0x0C 2 []
           else if 512 ≤ heldCount s then .bad 0x0C 8 []
           else if descBad s.record.slot raw then .bad 0x0C 3 []
           else .scored (bindAt s ctx n d) [] 2)) s

/-! ### Launch, Clock, kill -/

/-- The dependences that a LAUNCH names. -/
def depsOf (b : List Byte) : List Nat := (List.range (at_ b 6 1)).map fun k => at_ b (16 + 4 * k) 4

/-- The body checks of LAUNCH, and what keeps it from being launched. -/
def launchCheck (s : State) (r : Req) : Done ⊕ Image :=
  let b := r.body
  let n := at_ b 6 1
  let bad := [lenBad b (if 16 ≤ b.length ∧ n ≤ 4 then 16 + 4 * n else 16) (if n ≤ 4 then 16 + 4 * n else 1024), fieldBad 4 (decide (16 < at_ b 4 1)),
    fieldBad 5 (decide (2 < at_ b 5 1)), fieldBad 6 (decide (4 < n)), zeroBad b 7 1].filterMap id
  match bad with
  | a :: t => .inl (.bad 5 (t.foldl min a) [])
  | [] =>
    match imageNow s (at_ b 0 2) with
    | none => .inl (.bad 0x0A 0 [])
    | some im =>
      if im.nests.length ≤ at_ b 2 2 then .inl (.bad 0x0A 0 [])
      else if !(s.ctxEnt im.ctx).v then .inl (.bad 0x0D 0 [])
      else
        match firstBadDep s (depsOf b) with
        | some k => .inl (.bad 8 k [])
        | none => if tableFull s then .inl (.bad 7 0 []) else .inr im

/-- LAUNCH (R379 to R382, R413): the reply comes at acceptance. -/
def execLaunch (s : State) : Out1 :=
  ecpArm 0x20 (fun s r =>
    match launchCheck s r with
    | .inl d => d
    | .inr im =>
      let b := r.body
      let n := (nextNix s).1
      let i := newInst s im (at_ b 2 2) (at_ b 4 1) (at_ b 5 1) (dw (at_ b 8 8)) (depsOf b) 0
      .scored (launch s { i with scored := s.sseq }).2 (leBytes 4 n) 1) s

/-- CLOCK (R400, R401, R413). -/
def execClock (s : State) : Out1 :=
  ecpArm 0x21 (fun s r =>
    let b := r.body
    let rec_ := BitVec.ofNat 512 (at_ b 8 64)
    checked [lenBad b 72 72, fieldBad 0 (decide (64 ≤ at_ b 0 1)), zeroBad b 1 7]
      (if clkBad s rec_ then .bad 0x0B 0 [] else .scored (clkWrite s (at_ b 0 1) rec_) [] 2)) s

/-- The kill that waits and whose context's writes have drained. -/
def toFinishKill (s : State) : Option (Nat × EcpWait) := waitDone s 0x22 fun w => !killPending s w.ctx

/-- KILL (R97, R413, R443): the reply follows its completion. -/
def execKill (s : State) : Out1 :=
  if s.arg = {} then
    match toFinishKill s with
    | none => .next s
    | some (k, w) => .next (finish s k w)
  else
    ecpArm 0x22 (fun s r =>
      let c := at_ r.body 0 1
      checked [lenBad r.body 8 8, fieldBad 0 (decide (64 ≤ c)), zeroBad r.body 1 7]
        (if !(s.ctxEnt c).v then .bad 0x0D 0 [] else .later (killCtx s c) c)) s

/-! ### Reading the device's records -/

/-- The entry that READSCORE returns for a number (R480). -/
def scoreReply (s : State) (n : Nat) : List Byte :=
  match scoreOf s n with
  | some e => scoreBytes e
  | none => leBytes 8 n ++ leBytes 20 0 ++ leBytes 1 (if s.sseq ≤ n then 0xFE else 0xFF) ++ leBytes 35 0

/-- READSCORE (R413, R480). -/
def execReadscore (s : State) : Out1 :=
  ecpArm 0x30 (fun s r =>
    let b := r.body
    let n := at_ b 8 1
    checked [lenBad b 16 16, fieldBad 8 (decide (n = 0 ∨ 15 < n)), zeroBad b 9 7]
      (.ok s ((List.range n).flatMap fun k => scoreReply s ((at_ b 0 8 + k) % 2 ^ 64)))) s

/-- READMON (R413, R487). -/
def execReadmon (s : State) : Out1 :=
  ecpArm 0x31 (fun s r =>
    let b := r.body
    checked [lenBad b 16 16, fieldBad 0 (decide (2 ≤ at_ b 0 1)), zeroBad b 1 7]
      (.ok s (monRecords s (at_ b 0 1) (dw (at_ b 8 8))))) s

/-- MAPREV (R3). -/
def mapRev : Nat := 0x7A48C76801000000

/-- The cores that are offline, one bit each. -/
def offlineBits (s : State) : Nat := s.cores.foldl (fun n p => if p.2.online then n else n + 2 ^ p.1) 0

/-- The health record (R481). -/
def healthRecord (s : State) : List Byte :=
  let h := s.health
  leBytes 8 h.boots ++ leBytes 8 h.wresets ++ leBytes 8 h.adjourns ++ leBytes 8 h.corrected ++ leBytes 8 h.uncorr
    ++ leBytes 8 h.rollbacks ++ leBytes 8 h.mismatch ++ leBytes 8 (s.sseq - 1) ++ leBytes 48 (offlineBits s) ++ leBytes 8 h.dropped
    ++ leBytes 2 h.retired.length ++ leBytes 1 h.fetchAhead.length ++ leBytes 133 0
    ++ ((h.fetchAhead.flatMap fun f => leBytes 8 (f.1 + f.2.1 * 2 ^ 14 + f.2.2 * 2 ^ 17)) ++ List.replicate 128 0#8).take 128
    ++ h.retired.flatMap fun a => leBytes 8 a

/-- READHEALTH (R413, R481). -/
def execReadhealth (s : State) : Out1 :=
  ecpArm 0x32 (fun s r => checked [lenBad r.body 0 0] (.ok s (leBytes 8 mapRev ++ healthRecord s))) s

/-- What ATTEST's reply holds before its signatures (R430). -/
def attestBody (s : State) (nonce : List Byte) : List Byte :=
  let now := s.images.filter fun i => decide (imageNow s i.img = some i)
  let digest (p : Option Pkg) : List Byte := (match p with
    | some x => sha384 x.body
    | none => List.replicate 48 0#8)
  nonce ++ leBytes 8 mapRev ++ leBytes 8 s.fwVer ++ digest s.fwPkg ++ digest (some s.record.pkg)
    ++ leBytes 2 now.length ++ now.flatMap fun i => leBytes 1 i.img ++ i.digest

/-- ATTEST (R413, R430): the signatures and the keys are the device's own. -/
def execAttest (s : State) : Out1 :=
  ecpArm 0x50 (fun s r =>
    let b := r.body
    checked [lenBad b 40 40, fieldBad 32 (decide (2 ≤ at_ b 32 1)), zeroBad b 33 7]
      (let x := attestBody s (b.take 32)
       .ok s (x ++ (List.range 64).map (Config.ed25519 x) ++ (List.range 3309).map (Config.mldsa x)
         ++ if at_ b 32 1 = 1 then (List.range 1984).map Config.pubKeys ++ s.record.cert else []))) s

end Sys2Proof.Machine
end

