-- ==== Sys2Proof/Machine/Net.lean ====
section
/-! DEFINITION. The other standard functions of the host ports (R409), the key agreement of MACsec (R420), PTP and its servo (R417
to R419). -/

namespace Sys2Proof.Machine

/-! ### Address resolution and echo (R409) -/

/-- A frame of a standard function: dropped and counted when it does not pass its port's protection, served else. -/
def stdFrame (kind : Nat) (serve : State → Frame → State) (s : State) : Out1 :=
  let f := s.arg.frame
  if s.phase = .off ∨ frameKind s f ≠ kind then .next s
  else if framePasses s f then .next (serve (noteRx s f) f)
  else .next (countDrop s)

/-- The answer to an ARP request or a neighbour solicitation for an address of the port: its MAC address. -/
def answerResolve (s : State) (f : Frame) : State :=
  match f.pay with
  | .resolve a b false m =>
    if ownIp s f.port b then
      sendFrame s { port := f.port, dst := m, src := macOf s f.port, pay := .resolve b a true (macOf s f.port) }
    else s
  | _ => s

/-- NEIGHBOUR_DISCOVERY: ICMPv6 neighbour discovery and ARP (R409). -/
def execNeighbourDiscovery (s : State) : Out1 := stdFrame 1 answerResolve s

/-- The reply to an echo request: its data, from the address that it was sent to. -/
def answerEcho (s : State) (f : Frame) : State :=
  match f.pay with
  | .echo a b false d => sendFrame s { port := f.port, dst := f.src, src := macOf s f.port, pay := .echo b a true d }
  | _ => s

/-- ECHO: ICMPv6 and ICMP echo (R409). -/
def execEcho (s : State) : Out1 := stdFrame 2 answerEcho s

/-- OTHER_FRAME (R409): dropped and counted. -/
def execOtherFrame (s : State) : Out1 :=
  if s.phase = .off ∨ frameKind s s.arg.frame ≠ 5 then .next s else .next (countDrop s)

/-! ### Key agreement (R420) -/

/-- What the integrity check of an MKA message covers; the standard gives its exact layout. -/
def mkaText (m : Mka) : List Byte := frameText { pay := .mka m }

/-- An MKA message of the device: key server priority 255. -/
def mkaOut (s : State) (port : Nat) (sak : Option (List Byte × Nat × Bool)) : State :=
  let m : Mka := { prio := 255, able := true, sak := sak }
  sendFrame s { port := port, dst := [0x01#8, 0x80#8, 0xC2#8, 0x00#8, 0x00#8, 0x03#8], src := macOf s port,
                pay := .mka { m with icv := Config.mkaIcv s.record.cak (mkaText m) } }

/-- A port's secure channels begin with a key. -/
def setSak (s : State) (port : Nat) (key : List Byte) (an : Nat) (xpn : Bool) : State :=
  { s with macsec := mset s.macsec port { key := key, an := an, xpn := xpn } }

/-- Whether the sender of an MKA message is the key server (R420): it is able to be, for its priority is never worse than the device's. -/
def peerServes (m : Mka) : Bool := m.able

/-- MKA_FRAME (R420): a message that is not authentic under the connectivity association key is dropped. The peer's key is taken and
the device answers; a peer that cannot be key server is given a key of the device's. -/
def execMkaFrame (s : State) : Out1 :=
  let f := s.arg.frame
  if s.phase = .off ∨ frameKind s f ≠ 3 then .next s
  else
    match f.pay with
    | .mka m =>
      if !protectedPort s f.port || decide (m.icv ≠ Config.mkaIcv s.record.cak (mkaText m)) then .next (countDrop s)
      else if peerServes m then
        (match m.sak with
         | some (w, an, xpn) => .next (mkaOut (setSak s f.port (Config.mkaUnwrap s.record.cak w) an xpn) f.port none)
         | none => .next (mkaOut s f.port none))
      else
        let k := Config.newSak s.free
        let an := ((mget {} s.macsec f.port).an + 1) % 4
        .next (mkaOut (setSak { s with free := s.free + 1 } f.port k an true) f.port (some (Config.mkaWrap s.record.cak k, an, true)))
    | _ => .next s

/-! ### The servo (R419) -/

/-- LOCK after an offset that is not stepped (R419). -/
def lockNext (p : Ptp) (good bad : Nat) : Nat :=
  if 16 ≤ good then 2
  else if p.lock = 2 ∧ bad < 4 then 2
  else 1

/-- A frequency correction within 500 ppm (R419). -/
def clampPpm (x : Int) : Int := max (-500000) (min 500000 x)

/-- The servo takes a measured offset at a port (R419). -/
def ptpOffset (s : State) (port : Nat) (v : Int) : State :=
  let p := s.ptp
  if (p.stepthr : Int) < v.natAbs then
    stepped s.time { s with timeOfs := s.timeOfs - v,
                            ptp := { p with ofs := v, actport := port, lock := 1, good := 0, bad := 0, syncs := 0 } }
  else
    let good := if v.natAbs < 100 then min 16 (p.good + 1) else 0
    let bad := if 1000 ≤ v.natAbs then min 4 (p.bad + 1) else 0
    let k := lockNext p good bad
    { s with ptp := { p with ofs := v, actport := port, lock := k, good := if k = 1 ∧ bad = 4 then 0 else good, bad := bad,
                             syncs := if k = 2 then min 255 (p.syncs + 1) else 0, freq := clampPpm (Config.servo v p.freq) } }

/-! ### PTP messages (R417) -/

/-- What PTP has heard at a port. -/
def ptpPort (s : State) (port : Nat) : PtpPort := mget {} s.ptp.ports port

/-- Replaces it. -/
def setPtpPort (s : State) (port : Nat) (x : PtpPort) : State := { s with ptp := { s.ptp with ports := mset s.ptp.ports port x } }

/-- The device's port identity at a host port. -/
def ptpIdent (s : State) (port : Nat) : Nat := leNat (macOf s port) * 4 + port

/-- Whether a master has been heard within three of its intervals. -/
def masterLive (s : State) (x : PtpPort) : Bool := x.src.isSome && decide (s.cycle < x.at_ + 3 * x.ivl)

/-- The order of the best-master-clock algorithm on what Announce messages carry: the lesser at the first difference. -/
def rankLt : List Nat → List Nat → Bool
  | a :: s, b :: t => decide (a < b) || (decide (a = b) && rankLt s t)
  | [], _ :: _ => true
  | _, [] => false

/-- The port that is followed (R417, R418): the selected one, or the port of the best live master. -/
def bestPort (s : State) : Nat :=
  if s.ptp.port ≠ 2 then s.ptp.port
  else
    let a := ptpPort s 0
    let b := ptpPort s 1
    if masterLive s b && (!masterLive s a || rankLt b.rank a.rank) then 1 else 0

/-- Sends a PTP message of the device. -/
def sendPtp (s : State) (port : Nat) (m : PtpMsg) : State :=
  sendFrame s { port := port, dst := [0x01#8, 0x1B#8, 0x19#8, 0x00#8, 0x00#8, 0x00#8], src := macOf s port,
                pay := .ptp { m with src := ptpIdent s port, std := s.ptp.profile } }

/-- TIME as a timestamp. -/
def now (s : State) : Int := (s.time : Int)

/-- A pair of timestamps of one Sync is there: the offset is measured if the path delay is known, and the delay is asked for again: from
the master under IEEE 1588, from the neighbour under IEEE 802.1AS. -/
def ptpPair (s : State) (port : Nat) (t1 t2 : Int) : State :=
  let x := ptpPort s port
  let s1 := setPtpPort s port { x with sync := none, pair := some (t1, t2), seq := (x.seq + 1) % 65536, req := some (x.seq, now s), resp := none }
  let s2 := sendPtp s1 port { type := if s.ptp.profile = 0 then 1 else 2, seq := x.seq, ts := now s }
  match x.delay with
  | some d => ptpOffset s2 port (t2 - t1 - d)
  | none => s2

/-- A message of the master that a port follows, or of the neighbour that answers the device's delay request. -/
def ptpHear (s : State) (port : Nat) (m : PtpMsg) : State :=
  let x := ptpPort s port
  let mine := decide (m.req = ptpIdent s port)
  match m.type with
  | 0 => if m.two then setPtpPort s port { x with sync := some (m.seq, now s - m.corr) } else ptpPair s port (m.ts + m.corr) (now s)
  | 8 =>
    (match x.sync with
     | some (q, t2) => if q = m.seq then ptpPair s port (m.ts + m.corr) t2 else s
     | none => s)
  | 9 =>
    (match x.req, x.pair with
     | some (q, t3), some (t1, t2) =>
       if mine && decide (q = m.seq ∧ s.ptp.profile = 0) then
         setPtpPort s port { x with req := none, delay := some (((t2 - t1) + (m.ts - m.corr - t3)) / 2) }
       else s
     | _, _ => s)
  | 3 =>
    if mine && decide (s.ptp.profile = 1) && (match x.req with
        | some (q, _) => decide (q = m.seq)
        | none => false) then setPtpPort s port { x with resp := some (m.ts + m.corr, now s) } else s
  | 10 =>
    (match x.req, x.resp with
     | some (q, t1), some (t2, t4) =>
       if mine && decide (q = m.seq) then
         setPtpPort s port { x with req := none, resp := none, delay := some (((t4 - t1) - (m.ts + m.corr - t2)) / 2) }
       else s
     | _, _ => s)
  | _ => s

/-- The answer of a time-aware end station to a neighbour's delay request (R417). -/
def ptpAnswer (s : State) (port : Nat) (m : PtpMsg) : State :=
  sendPtp (sendPtp s port { type := 3, seq := m.seq, two := true, ts := now s, req := m.src }) port
    { type := 10, seq := m.seq, ts := now s, req := m.src }

/-- An Announce: the port follows its sender if it follows it already, its master is silent, or the sender is better (R417). -/
def ptpAnnounce (s : State) (port : Nat) (m : PtpMsg) : State :=
  let x := ptpPort s port
  if x.src = some m.src then setPtpPort s port { x with rank := m.rank, at_ := s.cycle }
  else if !masterLive s x || rankLt m.rank x.rank then
    setPtpPort s port { src := some m.src, rank := m.rank, at_ := s.cycle, ivl := if m.ivl = 0 then 1500000000 else m.ivl, seq := x.seq,
                        delay := if s.ptp.profile = 1 then x.delay else none }
  else s

/-- PTP_EVENT_MESSAGE (R417 to R420): a PTP message at a selected port, of the selected standard. -/
def execPtpEventMessage (s : State) : Out1 :=
  let f := s.arg.frame
  if s.phase = .off ∨ frameKind s f ≠ 4 then .next s
  else if !framePasses s f then .next (countDrop s)
  else
    let s1 := noteRx s f
    match f.pay with
    | .ptp m =>
      if !s.ptp.en || decide (s.ptp.port ≠ 2 ∧ s.ptp.port ≠ f.port) || decide (m.std ≠ s.ptp.profile) then .next s1
      else if m.type = 11 then .next (ptpAnnounce s1 f.port m)
      else if m.type = 2 then .next (if s.ptp.profile = 1 then ptpAnswer s1 f.port m else s1)
      else if m.type = 3 ∨ m.type = 10 then .next (ptpHear s1 f.port m)
      else if (ptpPort s f.port).src ≠ some m.src then .next s1
      else
        let x := ptpPort s f.port
        let s2 := setPtpPort s1 f.port { x with at_ := s.cycle, ivl := if m.ivl = 0 then x.ivl else m.ivl }
        .next (if bestPort s2 = f.port then ptpHear s2 f.port m else s2)
    | _ => .next s

/-- Whether the port that is followed has had no message of its master for three intervals (R419). -/
def ptpSilent (s : State) : Bool :=
  s.ptp.en && decide (s.ptp.lock = 1 ∨ s.ptp.lock = 2) && !masterLive s (ptpPort s (bestPort s))

/-- PTP_HOLDOVER (R419): LOCK becomes holdover, and TIME runs on the last frequency correction. -/
def execPtpHoldover (s : State) : Out1 :=
  if s.phase = .off ∨ !ptpSilent s then .next s
  else .next { s with ptp := { s.ptp with lock := 3, good := 0, bad := 0, syncs := 0 } }

end Sys2Proof.Machine
end

