-- ==== Sys2Proof/Machine/Second.lean ====
section
/-! DEFINITION. The Second, rolling back an iteration, escalation, offline cores (R460 to R472). -/

namespace Sys2Proof.Machine

/-! ### The Second (R461, R462) -/

/-- Whether a core's Second has found a disagreement that is not handled yet. -/
def mismatched (c : Core) : Bool :=
  match c.rb.pending with
  | some t => t.mis
  | none => false

/-- The oldest item of a core, with what the Second has found of it, if it differs (R461). -/
def badHead (c : Core) : Option Outb :=
  match c.secq with
  | [] => none
  | id :: _ => (mget none (c.outb.map fun p => (p.1, some p.2)) id).filter fun x => x.bad

/-- The disagreement of a core that is to be handled next: one that a direct item or a checkpoint has shown, or that of its oldest
item; none while a trigger waits, which does not lose it (R462). -/
def disagreement (c : Core) : Option (Nat × Nat) :=
  if c.rb.pending.isSome then none
  else match c.upset with
    | x :: _ => some x
    | [] => (badHead c).map fun x => (x.eng, x.tag)

/-- The first core with an item that its Second is to match, or with a disagreement to be handled. -/
def toMatch (s : State) : Option Nat :=
  mfind (fun _ c => (decide (c.secq ≠ []) && !mismatched c && (badHead c).isNone) || (disagreement c).isSome) s.cores

/-- The oldest item of a core is matched and issues; a STEER entry enters its queue (R20, R27). -/
def matchItem (c : Core) : Core :=
  match c.secq with
  | [] => c
  | id :: t =>
    let mine := c.steerP.filter fun x => decide (x.1 = id)
    { c with secq := t, steerP := c.steerP.filter fun x => decide (x.1 ≠ id), outb := mdel c.outb id,
             steerL := c.steerL ++ (mine.filter fun x => !x.2.1).map fun x => x.2.2,
             steerS := c.steerS ++ (mine.filter fun x => x.2.1).map fun x => x.2.2 }

/-- A mismatch of an engine of a core under a tag (R462). -/
def mismatch (s : State) (core eng tag : Nat) : State :=
  let c := s.core core
  let t : Trig := { eng := eng, tag := tag, mis := true, unit := 0, own := true }
  let s1 := { s with health := { s.health with mismatch := satInc s.health.mismatch } }
  s1.setCore core { c with upset := c.upset.drop 1, rb := { c.rb with pending := some t } }

/-- An error in an engine or its Second shows (R461): the engine's oldest item that is not matched differs, or, when it has none, its
state. -/
def upsetIn (c : Core) (eng : Nat) : Core :=
  match c.secq.find? fun id => decide ((mget { eng := 5, tag := 0, bad := false } c.outb id).eng = eng) with
  | some id => { c with outb := mset c.outb id { mget { eng := eng, tag := 0, bad := true } c.outb id with bad := true } }
  | none => { c with upset := c.upset ++ [(eng, (tagOf c eng).getD 0)] }

/-- SECOND_COMPARE (R461, R462): the oldest item of a core agrees and issues, or a disagreement of a core triggers a rollback; as an
input with the value e + 1, an error in engine e of core `port` shows. -/
def execSecondCompare (s : State) : Out1 :=
  if 1 ≤ s.arg.val ∧ s.arg.val ≤ 4 then
    .next (s.setCore (s.arg.port % 384) (upsetIn (s.core (s.arg.port % 384)) (s.arg.val - 1).toNat))
  else
    match toMatch s with
    | none => .next s
    | some k =>
      match disagreement (s.core k) with
      | some (e, tag) => .next (mismatch s k e tag)
      | none => .next (arriveG (s.setCore k (matchItem (s.core k))) k ((s.core k).secq.headD 0))

/-! ### What is rolled back (R466) -/

/-- The latest checkpoint of an engine. -/
def lastCkpt (c : Core) (e : Nat) : Option Ckpt := c.ckpts.reverse.find? fun k => decide (k.eng = e)

/-- The restored engines of a trigger: those whose latest checkpoint of its activation is at or after its target. -/
def restored (c : Core) (t : Trig) : List Nat :=
  (List.range 3).filter fun e => match lastCkpt c e with
    | some k => decide (t.tag ≤ k.tag ∧ k.act = t.tag / 2 ^ 32)
    | none => false

/-- c_k of an engine, if it is usable. -/
def ckptOf (c : Core) (e tag : Nat) : Option Ckpt := c.ckpts.find? fun k => k.ok && decide (k.eng = e ∧ k.tag = tag)

/-- The logged events that are undone. -/
def undone (es : List Nat) (tag : Nat) (v : LogEv) : Bool := es.contains v.eng && decide (tag ≤ v.tag)

/-! ### Undoing events (R466, R470) -/

/-- Undoes one logged event; token and semaphore counts are kept as sums, checked at the end. -/
def undoEv (x : Core × Map Int × Map Int) (v : LogEv) : Option (Core × Map Int × Map Int) :=
  let c := x.1
  let n := v.data.headD 0
  let pair : BitVec 16 × BitVec 16 := (BitVec.ofNat 16 n, BitVec.ofNat 16 (v.data.getD 1 0))
  let add (m : Map Int) (d : Int) : Map Int := mset m v.idx (mget 0 m v.idx + d)
  match v.kind with
  | 0 => some (c, add x.2.1 (-(n : Int)), x.2.2)
  | 1 => some (c, add x.2.1 n, x.2.2)
  | 2 =>
    let sa := decide (v.idx = 1)
    (match c.steerP.reverse.find? fun p => decide (p.2.1 = sa) with
     | some p => some ({ c with steerP := c.steerP.filter fun q => decide (q.1 ≠ p.1), secq := c.secq.filter fun i => decide (i ≠ p.1) }, x.2)
     | none =>
       if sa then (if c.steerS = [] then none else some ({ c with steerS := c.steerS.dropLast }, x.2))
       else if c.steerL = [] then none else some ({ c with steerL := c.steerL.dropLast }, x.2))
  | 3 => some (if v.idx = 1 then { c with steerS := pair :: c.steerS } else { c with steerL := pair :: c.steerL }, x.2)
  | 4 => some ({ c with rpl := dw n :: c.rpl }, x.2)
  | 5 =>
    if c.scq.length < v.data.length then none
    else some ({ c with scq := c.scq.take (c.scq.length - v.data.length) }, x.2)
  | 6 => some ({ c with scq := (v.data.map fun b => BitVec.ofNat 8 b) ++ c.scq }, x.2)
  | 7 => some (c, x.2.1, add x.2.2 (-(n : Int)))
  | 8 => some (c, x.2.1, add x.2.2 n)
  | 9 => none
  | _ => if c.rpl.contains (dw n) then some ({ c with rpl := c.rpl.erase (dw n) }, x.2) else none

/-- Undoes events, the newest first. -/
def undoAll : List LogEv → Core × Map Int × Map Int → Option (Core × Map Int × Map Int)
  | [], x => some x
  | v :: t, x =>
    match undoEv x v with
    | none => none
    | some y => undoAll t y

/-- Applies the sums to the token counts and semaphores; none when one leaves its range. -/
def applySums (c : Core) (tok sem : Map Int) : Option Core :=
  let t (q : Nat) : Int := (c.toks q : Int) + mget 0 tok q
  let m (p : Nat) : Int := ((mget ({} : Sem) c.sems p).count : Int) + mget 0 sem p
  if tok.all (fun x => decide (0 ≤ t x.1 ∧ t x.1 ≤ 16)) && sem.all (fun x => decide (0 ≤ m x.1 ∧ m x.1 ≤ 65535)) then
    some { c with tok := tok.foldl (fun a x => mput 0 a x.1 (t x.1).toNat) c.tok,
                  sems := sem.foldl (fun a x => mset a x.1 { mget ({} : Sem) a x.1 with count := (m x.1).toNat }) c.sems }
  else none

/-- The core with the events of the restored engines undone; none when R466 forbids it. -/
def undoLog (c : Core) (es : List Nat) (tag : Nat) : Option Core :=
  match undoAll (c.rb.log.filter (undone es tag)).reverse (c, [], []) with
  | none => none
  | some (d, tok, sem) =>
    match applySums d tok sem with
    | none => none
    | some e =>
      if e.steerL.length ≤ 4 ∧ e.steerS.length ≤ 4 ∧ e.scq.length ≤ 256 ∧ e.rpl.length + e.resv.length ≤ 32 then some e else none

/-! ### Ports (R468) -/

/-- Whether a buffer line with an element of a port at or after m is poisoned. -/
def linePoisoned (c : Core) (n m : Nat) : Bool :=
  let b := buf c n
  let per := epl (fmtOf c n)
  let l := bufLines b
  decide (c.poison ≠ []) && (List.range l).any fun i =>
    decide ((m / per + i) * per < b.wr) && (padPoison c (b.fbank * 8192 + (m / per + i) % l * 64) 64).isSome

/-- The drain position of a port that EX has popped since its checkpoint. -/
def portBack (c : Core) (n : Nat) (old : Port) : Option Core :=
  let p := c.port n
  if p.dst ≠ .ex ∧ p.dst ≠ .mxa ∧ p.dst ≠ .mxb ∧ p.dst ≠ .index ∨ p.dp = old.dp then some c
  else
    match p.mauto.find? fun a => a.2 && (old.marks.any fun m => decide (m.1 = a.1)) with
    | none => none
    | some a =>
      let m := mget 0 old.marks a.1
      let marks := p.mauto.foldl (fun l x => if x.2 then (match old.marks.find? fun k => decide (k.1 = x.1) with
        | some k => mset l x.1 k.2
        | none => l) else l) p.marks
      rewindBy 33 (linePoisoned c n m) (c.setPort n { p with marks := marks }) n m

/-- The fill side of a port that EX or MX fills. -/
def fillBack (c : Core) (n : Nat) (old : Port) : Option Core :=
  let p := c.port n
  if p.fork ∨ (p.src ≠ .ex ∧ p.src ≠ .mx) ∨ p.fw = old.fw then some c
  else
    let far (q : Port) : Bool := decide (old.fw < q.dp ∧ q.dst ≠ .glob)
    let cut (q : Port) : Port := { q with dp := min q.dp old.fw, rd := min q.rd old.fw }
    let f := forkOf c n
    if far p || (match f with
      | some k => far (c.port k)
      | none => false) then none
    else
      let p1 := { cut p with fw := old.fw, wr := min p.wr old.fw, di := min p.di (itemAt false p.mfmt (fmtOf c n) old.fw).1,
                             fend := old.fend, st := if p.st = .done ∧ !old.fend then .run else p.st }
      let c1 := c.setPort n p1
      some (match f with
        | some k => c1.setPort k (cut (c.port k))
        | none => c1)

/-- Every open port under R468, against EX's checkpoint. -/
def portsBack (c : Core) (old : List (Nat × Port)) : Option Core :=
  (mkeys c.ports).foldl (fun x n =>
    match x with
    | none => none
    | some c =>
      if (c.port n).st = .closed then some c
      else
        let o : Port := mget {} old n
        match fillBack c n o with
        | none => none
        | some d => portBack d n o) (some c)

/-! ### The rollback (R466, R470) -/

/-- The commands of EX that carry a tag at or after the target. -/
def tagged (tag : Nat) (p : Option Nat) : Bool :=
  match p with
  | some k => decide (tag ≤ k)
  | none => false

/-- The core as R470 leaves its queues, semaphores and ports; none when the rollback is not possible. -/
def rolledCore (c : Core) (t : Trig) : Option Core :=
  let es := restored c t
  if t.tag < 2 ^ 32 ∨ !es.contains t.eng ∨ !es.all (fun e => (ckptOf c e t.tag).isSome) then none
  else
    match undoLog c es t.tag with
    | none => none
    | some d =>
      match es.contains 1, ckptOf c 1 t.tag with
      | true, some k => portsBack d k.ports
      | _, _ => some d

/-- The tag of a Gambit command, with its item and its reply's tag. -/
def gbTag : GbCmd → Option Nat × Nat × Option Nat
  | .pred _ _ _ _ _ tag id p => (p, id, some tag)
  | .chk _ _ _ _ tag id p => (p, id, some tag)
  | .ld _ id p => (p, id, none)
  | .th _ _ _ _ id p => (p, id, none)

/-- Whether Gambit's first command is under way. -/
def gamBusy (g : Gambit) : Bool := decide (g.out ≠ []) || g.reply.isSome

/-- The commands that are removed: matrix commands, and Gambit commands but for one under way. -/
def mxRemoved (c : Core) (tag : Nat) : List MxCmd := c.mx.queue.filter fun q => tagged tag q.ptag

/-- The Gambit commands that are removed. -/
def gbRemoved (c : Core) (tag : Nat) : List GbCmd :=
  (c.gam.queue.drop (if gamBusy c.gam then 1 else 0)).filter fun q => tagged tag (gbTag q).1

/-- Removes the commands that have not started, with their reservations and range-checker entries. -/
def removeCmds (c : Core) (tag : Nat) : Core :=
  let mx := mxRemoved c tag
  let gb := gbRemoved c tag
  let ids := (mx.map fun q => q.id) ++ gb.map fun q => (gbTag q).2.1
  let tags := ((mx.filter fun q => mxReplies q.i).map fun q => mxTag q.seq) ++ gb.filterMap fun q => (gbTag q).2.2
  let first := if gamBusy c.gam then c.gam.queue.take 1 else []
  let rest := (c.gam.queue.drop first.length).filter fun q => !tagged tag (gbTag q).1
  { c with mx := { c.mx with queue := c.mx.queue.filter fun q => !tagged tag q.ptag },
           gam := { c.gam with queue := first ++ rest },
           secq := c.secq.filter fun i => !ids.contains i, rngs := c.rngs.filter fun r => !ids.contains r.id,
           resv := tags.foldl List.erase c.resv,
           sems := c.sems.map fun p => (p.1, if mx.any (fun q => q.inLine) then
             { p.2 with line := p.2.line.filter fun e => decide (e.1 ≠ 4096) } else p.2) }

/-- An engine's context restored from its checkpoint: its live registers, predicates and counters, the loop unit, GSTATE, the sync
state and the SPBOUND count; the stores that it issued under a tag at or after the target are discarded. -/
def ctxBack (s : State) (core e : Nat) (k : Ckpt) (x : Ctx) : Ctx :=
  let o := k.ctx
  let sp := o.levels.find? fun v => v.sp.isSome
  let l : LiveSel := match sp.bind fun v => v.sp with
    | some r => recLive (imageOf s core) r
    | none => .all
  let due (n : Nat) : Bool := o.loads.any fun y => decide (y.rd = n ∧ y.val = none)
  let base (n : Nat) : DWord := if due n then x.reg n else o.reg n
  let nReg := if e = 1 then 16 else 32
  let pos := if e = 1 then 4 else 0
  { x with
    run := .run, pc := (match sp with
      | some v => v.lo
      | none => o.pc)
    regs := (List.range nReg).foldl (fun m n => if n ≠ 0 ∧ l.has pos n then mput 0#64 m n (base n) else m) x.regs
    q := BitVec.ofNat 128 ((List.range 128).foldl (fun m i =>
      m + (if (if l.has 10 i then o.q.getLsbD i else x.q.getLsbD i) then 2 ^ i else 0)) 0) ||| 1#128
    lc := (List.range 4).foldl (fun m i => if i = 3 ∨ l.has 26 i then mput 0#32 m i (mget 0#32 o.lc i) else m) x.lc
    levels := o.levels, gOn := o.gOn, gRem := o.gRem, seen := o.seen, rot := o.rot, pend := o.pend, pnum := o.pnum, pgen := o.pgen
    loads := x.loads.filter fun y => due y.rd && y.val.isNone
    stores := x.stores.filter fun y => decide (y.tag < k.tag)
    sigs := o.sigs, wait := .none, ans := none, strong := none, stopAfter := false, stall := none, atKernel := none
    safeAt := s.cycle - (if k.k = 0 then k.at_ - o.safeAt else 0) }

/-- EX's own state restored from its checkpoint. -/
def exBack (s : State) (core : Nat) (k : Ckpt) (c : Core) : Core :=
  let sp := k.ctx.levels.find? fun v => v.sp.isSome
  let l : LiveSel := match sp.bind fun v => v.sp with
    | some r => recLive (imageOf s core) r
    | none => .all
  let v (n : Nat) : Nat := k.special.getD n 0
  { c with
    tiles := (l.elems 6 32).foldl (fun m n => mputN 0#8 m (n * 2048) (mgetN 0#8 k.tiles (n * 2048) 2048)) c.tiles
    tpois := c.tpois.filter fun x => !(l.elems 6 32).contains (x / 2048)
    masks := (l.elems 27 8).foldl (fun m n => mput 0#4096 m n (mget 0#4096 k.masks n)) c.masks
    vrows := BitVec.ofNat 6 (v 0), vcols := BitVec.ofNat 6 (v 1), fmt8 := BitVec.ofNat 8 (v 2), fpctl := BitVec.ofNat 9 (v 3)
    fpacc := BitVec.ofNat 5 (v 4), lfsr := k.lfsr, mx := { c.mx with seq := k.seqc } }

/-- The accumulator rows take their undo entries with the smallest tag at or after the target. -/
def rowsBack (c : Core) (tag : Nat) : Core :=
  let us := c.rb.undo.filter fun u => decide (tag ≤ u.1)
  let m := (List.range 32).foldl (fun m r =>
    match bestOf (fun y x : Nat × Nat × Row => decide (y.1 < x.1)) (us.filter fun u => decide (u.2.1 = r)) with
    | some u => m.setRow r u.2.2
    | none => m) c.mx
  { c with mx := m, rb := { c.rb with undo := c.rb.undo.filter fun u => decide (u.1 < tag) } }

/-- The records after a rollback: the undone events and the newer checkpoints of the restored engines are gone. -/
def recsBack (c : Core) (es : List Nat) (tag : Nat) : Core :=
  let log := (List.range c.rb.log.length).zip c.rb.log
  let before (p : Nat) : Nat := (log.filter fun x => decide (c.rb.lost + x.1 < p) && undone es tag x.2).length
  { c with ckpts := (c.ckpts.filter fun k => !(es.contains k.eng && decide (tag < k.tag))).map fun k => { k with pos := k.pos - before k.pos },
           rb := { c.rb with log := c.rb.log.filter fun v => !undone es tag v } }

/-- The trigger that waits has been served: the next one waits, without those that a replay makes again (R470). -/
def nextTrig (b : Rollb) (gone : Trig → Bool) : Rollb :=
  let l := b.more.filter fun x => !gone x
  { b with pending := l.head?, more := l.drop 1 }

/-- The rollback of a core to its trigger's target; `d` is the core with its events undone and its ports handled. -/
def rollBack (s : State) (core : Nat) (t : Trig) (d : Core) : State :=
  let c := s.core core
  let es := restored c t
  let exk := if es.contains 1 then ckptOf c 1 t.tag else none
  let d1 := match exk with
    | some k =>
      let r := rowsBack (exBack s core k d) t.tag
      { r with mx := { r.mx with run := r.mx.run.filter fun q => !(q.gone && tagged t.tag q.ptag) } }
    | none => d
  let d2 := recsBack { d1 with gam := { d1.gam with pvalid := false } } es t.tag
  let s1 := es.foldl (fun s e => dropAgent s (core * 4 + e)) s
  let s2 := s1.setCore core
    { d2 with sems := d2.sems.map fun p => (p.1, { p.2 with line := (mget ({} : Sem) (s1.core core).sems p.1).line }),
              rb := { (nextTrig d2.rb fun x => es.contains x.eng && decide (t.tag ≤ x.tag)) with last := some t, lastOf := es } }
  let s3 := es.foldl (fun u e =>
    match ckptOf c e t.tag with
    | some k => reload (u.setCtx (core * 4 + e) (ctxBack s core e k (u.ctx (core * 4 + e)))) (core * 4 + e)
    | none => u) s2
  let trap := trapStopped s3 core
  let s4 := match (s3.core core).job with
    | none => s3
    | some j =>
      if !j.stopped then s3
      else if trap then es.foldl (fun u e => u.setCtx (core * 4 + e) { u.ctx (core * 4 + e) with run := Run.held, stopAt := s.cycle }) s3
      else
        let u := s3.setCore core { s3.core core with job := some { j with stopped := false, told := false, hold := false } }
        if j.mark.isSome then u
        else (List.range 3).foldl (fun u e =>
          let x := u.ctx (core * 4 + e)
          if x.run = Run.held then u.setCtx (core * 4 + e) (goOn s x) else u) u
  healthEvent { s4 with health := { s4.health with rollbacks := satInc s4.health.rollbacks } } 2 core 0 (jobIdOf s core) (t.tag % 2 ^ 32)

/-! ### When a rollback is not possible (R469), escalation and offline cores (R471, R472) -/

/-- A job restart (R469): the engines as R32 has them, the queues empty, stores not performed discarded. -/
def restartJob (s : State) (core : Nat) (j : Job) : State :=
  match instOf s j.nix with
  | none => s
  | some i =>
    match instNest s i with
    | none => s
    | some n =>
      let entry (k : Nat) : Nat := n.roles.getD (3 * corePos core + k) 0xFFFF
      let s0 := (List.range 3).foldl (fun s e => dropAgent s (core * 4 + e)) s
      let ids := ((s0.core core).mx.queue.map fun q => q.id) ++ (s0.core core).gam.queue.map fun q => (gbTag q).2.1
      let c := coreFresh (removeCmds ((mkeys (s0.core core).ports).foldl closePort (s0.core core)) 0)
      let j1 := { j with stopped := false, told := false, hold := false, since := s.cycle, drain := false, residue := 0 }
      let s1 := s0.setCore core { c with job := some j1, rngs := c.rngs.filter fun r => !ids.contains r.id }
      let s2 := (List.range 3).foldl (fun s e => reload (s.setCtx (core * 4 + e) (freshCtx s core (entry e) (n.index j.tile) i.arg)) (core * 4 + e)) s1
      let s3 := healthEvent (tidyMsgs s2 core) 3 core 0 (jobIdOf s core) 0
      if allRdv s3 core then endOfJob s3 core else s3

/-- EVAL of Poison Persisted. -/
def poisonEval (t : Trig) : DWord :=
  dw (if !t.own then t.unit * 64 / 4096 * 4096 else if t.unit < noUnit then 2 ^ 63 + t.unit * 64 else 2 ^ 63)

/-- Poison Persisted (R184, R186, R469): an engine at RDV takes it at its RDV, which it executes again when it is resumed. -/
def poisonTrap (s : State) (core : Nat) (t : Trig) : State :=
  let ag := core * 4 + t.eng
  let x := s.ctx ag
  let s1 := leaveLines s ag
  let s2 := if x.run = .rdv then reload (s1.setCtx ag { s1.ctx ag with pc := x.pc - 1 }) ag else s1
  takeTrap s2 ag true 0x0F 0 (poisonEval t)

/-- A core goes offline (R472). -/
def goOffline (s : State) (core : Nat) : State :=
  let c := s.core core
  let die := coreDie core
  let id := jobIdOf s core
  let ents := c.deque ++ c.next.toList.map fun p => p.1
  let s1 := ents.foldl (fun s e => addItem s die (backItem s core e)) (s.setCore core { c with deque := [], next := none })
  let s2 := if c.hrun.isSome ∨ (s.ctx (core * 4 + 3)).run ≠ .idle then endRun s1 core else s1
  let s3 := match c.job with
    | none => s2
    | some j =>
      let u := endJob s2 core
      if !c.rb.irrev && !c.rb.wrote then
        let e : DqEnt := { nix := j.nix, tile := j.tile, count := 1, range := false, b := j.b, c0 := s.cycle, gang := j.gang,
                           held := false, area := none }
        addItem u die (backItem s core e)
      else countTile u core j.nix true
  let d := s3.core core
  let d1 := (mkeys d.ports).foldl closePort { d with hstart := [], online := false, rb := { d.rb with pending := none, more := [] } }
  healthEvent (tidyMsgs (s3.setCore core d1) core) 5 core 0 id 0

/-- A page of HBM is retired (R471, R481). -/
def retirePage (s : State) (core unit : Nat) : State :=
  let pg := unit * 64 / 4096 * 4096
  let l := s.health.retired
  let l1 := if l.contains pg ∨ 4096 ≤ l.length then l else l ++ [pg]
  healthEvent { s with health := { s.health with retired := l1 } } 4 core pg (jobIdOf s core) l1.length

/-- Whether a trigger is a second one of the same kind at the same point (R471). -/
def escalates (c : Core) (t : Trig) : Bool :=
  match c.rb.last with
  | none => false
  | some o =>
    decide (2 ^ 32 ≤ t.tag ∧ o.tag = t.tag ∧ o.mis = t.mis) && (if t.mis then decide (o.eng = t.eng) else decide (o.own = t.own ∧ o.unit = t.unit))
      && !c.rb.lastOf.all fun e => match lastCkpt c e with
        | some k => decide (t.tag + 1 ≤ k.tag)
        | none => true

/-- What R469 does with the job when the rollback is not possible. -/
def notReplayed (s : State) (core : Nat) (t : Trig) : State :=
  let c := s.core core
  let s1 := s.setCore core { c with rb := { c.rb with pending := none, more := [] } }
  match c.job with
  | none => s1
  | some j =>
    if !c.rb.irrev && !c.rb.wrote then restartJob s1 core j
    else if t.mis then goOffline s1 core
    else poisonTrap s1 core t

/-- A second trigger at the same point (R471). -/
def escalate (s : State) (core : Nat) (t : Trig) : State :=
  let c := s.core core
  let s1 := s.setCore core { c with rb := { c.rb with pending := none, more := [] } }
  if t.mis || t.own then goOffline s1 core else retirePage (poisonTrap s1 core t) core t.unit

/-- A trigger of a handler run (R469): it restarts with the registers of its start, or takes Poison Persisted, or the core goes
offline. -/
def handlerTrigger (s : State) (core : Nat) (t : Trig) : State :=
  let c := s.core core
  let ag := core * 4 + 3
  let s1 := s.setCore core { c with rb := nextTrig c.rb fun _ => false }
  if !c.rb.handler then
    let u := dropAgent s1 ag
    reload (u.setCtx ag { c.hsave with stores := [], veil := [] }) ag
  else if t.mis then goOffline s1 core
  else poisonTrap s1 core t

/-- Whether a trigger can be handled now: its engines are at instruction boundaries, and the commands that R470 waits for are
performed, every Gambit command among them (R372). -/
def triggerReady (s : State) (core : Nat) (t : Trig) : Bool :=
  let c := s.core core
  if t.eng = 3 then !midway (s.ctx (core * 4 + 3))
  else
    (List.range 3).all (fun e => !midway (s.ctx (core * 4 + e)))
      && (c.job.isNone || escalates c t || (rolledCore c t).isNone
        || (if (restored c t).contains 1 then
              decide (mxRemoved c t.tag ≠ [] ∨ gbRemoved c t.tag ≠ [])
                || (!c.mx.run.any (fun q => tagged t.tag q.ptag && !q.gone) && decide (c.gam.queue = []))
            else decide (c.gam.queue = [])))

/-- The first core whose trigger can be handled. -/
def toRoll (s : State) : Option (Nat × Trig) :=
  s.cores.findSome? fun (k, c) =>
    match c.rb.pending with
    | some t => if triggerReady s k t then some (k, t) else none
    | none => none

/-- ROLLBACK (R466 to R472): first the commands that have not started are removed; when those that have started are performed, the
core rolls back. -/
def execRollback (s : State) : Out1 :=
  match toRoll s with
  | none => .next s
  | some (k, t) =>
    let c := s.core k
    let s1 := if t.mis then s else { s with health := { s.health with uncorr := satInc s.health.uncorr } }
    if t.eng = 3 then .next (handlerTrigger s1 k t)
    else if c.job.isNone then .next (s.setCore k { c with rb := { c.rb with pending := none, more := [] } })
    else if escalates c t then .next (escalate s1 k t)
    else
      match rolledCore c t with
      | none => .next (notReplayed s1 k t)
      | some d =>
        if (restored c t).contains 1 ∧ (mxRemoved c t.tag ≠ [] ∨ gbRemoved c t.tag ≠ []) then
          .next (s.setCore k (removeCmds c t.tag))
        else .next (rollBack s1 k t d)

end Sys2Proof.Machine
end

