-- ==== Sys2Proof/Machine/Power.lean ====
section
/-! DEFINITION. Power (R475 to R479, R489 to R493) and warm reset (R473, R474): adjournment, resume, the sealed copy, start-up. -/

namespace Sys2Proof.Machine

/-! ### Adjournment (R475) -/

/-- Every entry of the scoresheet in one state takes another. -/
def scoreStates (s : State) (a b : Nat) : State :=
  let f (e : Score) : Score := if e.st = a then { e with st := b } else e
  { s with score := s.score.map fun p => (p.1, f p.2), journal := s.journal.map fun p => (p.1, f p.2) }

/-- Marks a running job for the adjournment, as PREEMPT marks one (R445, R475). -/
def markAdjourn (s : State) (core : Nat) : State :=
  let c := s.core core
  match c.job with
  | some j => if j.stopped then s else checkStopped (s.setCore core { c with job := some { j with mark := some 1 } }) core
  | none => s

/-- What a core has popped and not started goes back to the walker. -/
def unpop (s : State) (core : Nat) : State :=
  match (s.core core).next with
  | some (e, _) => addItem (s.setCore core { s.core core with next := none }) (coreDie core) (backItem s core e)
  | none => s

/-- An adjournment begins (R475, R480 to R482). -/
def beginAdjourn (s : State) (cmd : Bool) : State :=
  let s1 := scoreStates { s with phase := .adjourning, byCmd := cmd, back := false,
                                 health := { s.health with adjourns := satInc s.health.adjourns } } 1 3
  let ks := mkeys s1.cores
  let s2 := ks.foldl markAdjourn (ks.foldl unpop s1)
  healthEvent (deviceScore s2 2) 7 0xFFFF 0 0#64 s2.health.adjourns

/-- Whether an adjournment is under way or done. -/
def adjourned (s : State) : Bool := decide (s.phase = .adjourning ∨ s.phase = .adjourned)

/-- A trigger of the input power (R475, R476): one during an adjournment joins it, and power must then come back. -/
def powerTrigger (s : State) : State :=
  if s.phase = .off then s
  else if adjourned s then { s with byCmd := false, back := false }
  else beginAdjourn s false

/-- PWR_FAIL (R475): PWR_FAIL_N held low for 2 µs. -/
def execPwrFail (s : State) : Out1 := .next (powerTrigger s)

/-- RAIL_LOW (R475): the input rail below 44.0 V for 100 µs. -/
def execRailLow (s : State) : Out1 := .next (powerTrigger s)

/-- ECP ADJOURN (R413, R475). -/
def execEcpAdjourn (s : State) : Out1 :=
  ecpArm 0x40 (fun s r => checked [lenBad r.body 0 0] (.scored (beginAdjourn s true) [] 2)) s

/-- The handler record of a core (R475): a running or stopped run, and the start requests. -/
def hdlRecOf (s : State) (core : Nat) : Option HdlRec :=
  let c := s.core core
  if c.hrun.isSome ∨ c.hstart ≠ [] then some { core := core, run := c.hrun, ctx := s.ctx (core * 4 + 3), starts := c.hstart } else none

/-- Whether a core has nothing left to stop, drain or save. -/
def coreDown (s : State) (core : Nat) : Bool :=
  let c := s.core core
  decide (c.job = none ∧ c.next = none ∧ c.gcmds = [] ∧ c.rngs = [] ∧ c.msgs = []) && !enginesBusy c && !midway (s.ctx (core * 4 + 3))

/-- The adjournment has saved every job and drained every handler run. -/
def adjournReady (s : State) : Bool :=
  decide (s.phase = .adjourning) && s.cores.all (fun p => coreDown s p.1) && decide (s.preqs = [])

/-- A core without compute power: a core with a handler record has its image's text again at resume; fault records wait on. -/
def powerless (keep : Bool) (c : Core) : Core :=
  { online := c.online, nextId := c.nextId, mx := { held := c.mx.held }, img := if keep then c.img else none,
    imem := if keep then c.imem else [], ibad := if keep then c.ibad else [], icorr := if keep then c.icorr else [],
    bfmt := if keep then c.bfmt else [] }

/-- The tiles of the deques and those on their way go back to the ready lists. -/
def recallTiles (s : State) : State :=
  let s1 := (mkeys s.cores).foldl (fun s k =>
    (s.core k).deque.foldl (fun s e => addItem s (coreDie k) (backItem s k e)) (unpop s k)) s
  let s2 := (List.range 2).foldl (fun s d =>
    ((s.die d).deals.flatMap fun x => x.ents).foldl (fun s p => addItem s d (backItem s p.1 p.2)) s) s1
  { s2 with cores := s2.cores.map fun p => (p.1, { p.2 with deque := [] })
            dies := s2.dies.map fun p => (p.1, { p.2 with deals := [] }) }

/-- ADJOURNMENT_SAVED (R475): the handler runs are saved and compute is powered down. -/
def execAdjournmentSaved (s : State) : Out1 :=
  if !adjournReady s then .next s
  else
    let s0 := (mkeys s.cores).foldl (fun s k => performStores s (k * 4 + 3)) s
    let hs := (mkeys s0.cores).filterMap fun k => hdlRecOf s0 k
    let s1 := recallTiles s0
    .next { s1 with phase := .adjourned, hdls := hs,
                    cores := s1.cores.map fun p => (p.1, powerless (hs.any fun h => decide (h.core = p.1 ∧ h.run ≠ none)) p.2)
                    ctxs := s1.ctxs.filter fun p => decide (1536 ≤ p.1)
                    shadow := []
                    clusters := s1.clusters.map fun p => (p.1, { faults := p.2.faults }) }

/-! ### Resume (R477) -/

/-- The saved jobs return to the ready lists. -/
def returnItems (s : State) : State :=
  { s with dies := s.dies.map fun p =>
      (p.1, { p.2 with items := p.2.items.map fun x => if x.adj then { x with adj := false, c0 := s.cycle } else x }) }

/-- A handler record is loaded again. -/
def loadHdl (s : State) (h : HdlRec) : State :=
  let c := s.core h.core
  (s.setCore h.core { c with hrun := h.run, hstart := h.starts, rb := { c.rb with handler := true } }).setCtx (h.core * 4 + 3) h.ctx

/-- The device resumes: missed firings, the scoresheet, the event (R477, R480, R482). -/
def resumeDevice (s : State) (kind : Nat) : State :=
  let s1 := (s.hdls.filter fun h => decide (h.core < 384)).foldl loadHdl (returnItems s)
  let s2 := scoreStates { s1 with hdls := [], phase := if s.full then .run else .boot, byCmd := false, back := false } 3 1
  healthEvent (deviceScore (missFirings s2) 3) kind 0xFFFF 0 0#64 0

/-- POWER_RESTORED (R477): the input has been good for 200 ms; after an adjournment by power the device resumes. -/
def execPowerRestored (s : State) : Out1 :=
  if s.byCmd then .next s
  else if s.phase = .adjourned then .next (resumeDevice s 8)
  else if s.phase = .adjourning then .next { s with back := true }
  else .next s

/-- RESUME (R413, R477); a device that runs goes on. -/
def execResume (s : State) : Out1 :=
  ecpArm 0x41 (fun s r => checked [lenBad r.body 0 0]
    (if s.phase = .adjourned ∧ s.byCmd then .scored (resumeDevice s 8) [] 2
     else if s.phase = .run then .scored s [] 2
     else .bad 0x0E 0 [])) s

/-- ADJOURN (R456). -/
def execAdjourn (rd rs1 : BitVec 5) (s : State) : Out1 :=
  let i := Instr.adjourn rd rs1
  sysIssue i (fun s =>
    match (getR s rs1.toNat).toNat with
    | 0 => if adjourned s then done s rd 9 else done (beginAdjourn s true) rd 0
    | 1 =>
      if s.phase = .adjourning then done s rd 9
      else if s.phase = .adjourned then done (resumeDevice s 8) rd 0
      else done s rd 2
    | _ => illegal i) s

/-! ### The sealed copy (R478, R479) -/

/-- The physical addresses of the page-table pages of a root, level by level. -/
def tablePages (s : State) : Nat → Nat → List Nat
  | 0, _ => []
  | n + 1, base =>
    base :: (List.range 512).flatMap fun i =>
      let e := readPte s (base + 8 * i)
      if e.getLsbD 0 && !e.getLsbD 7 then tablePages s n ((e.extractLsb' 12 34).toNat * 4096) else []

/-- Copies n bytes of memory into a table of bytes. -/
def copyMem (s : State) (m : Map Byte) (a n : Nat) : Map Byte := mputN 0#8 m (a % 2 ^ 40) (memN s a n)

/-- The save areas of the jobs that wait in the ready lists. -/
def areasOf (s : State) : List Nat :=
  s.dies.flatMap fun p => p.2.items.flatMap fun x => (x.back.filter fun u => decide (u.2.2 ≠ 0)).map fun u => u.2.2 - 1

/-- The memory of the sealed copy: the save areas, and the page tables of the valid contexts. -/
def sealedMem (s : State) : Map Byte :=
  let m := (areasOf s).foldl (fun m a => copyMem s m a (areaNat s a 24 4)) []
  ((s.ctxTab.filter fun e => e.2.v).flatMap fun e => tablePages s 4 e.2.root).foldl (fun m a => copyMem s m a 4096) m

/-- The sealed copy. -/
def sealedCopy (s : State) : Sealed :=
  { counter := s.sealCtr, nixCtr := s.nixCtr, nixWrap := s.nixWrap, regCtr := s.regCtr, insts := s.insts, ctxTab := s.ctxTab,
    images := s.images, clocks := s.clocks, items := s.dies.map fun p => (p.1, p.2.items), score := s.score, hdls := s.hdls,
    mem := sealedMem s }

/-- The module without power: only what the module store, the record and the PUF hold stays (R428, R480, R481). -/
def dark (s : State) : State :=
  { phase := .off, sealed := s.sealed, journal := s.journal, sealCtr := s.sealCtr, record := s.record, recPrev := s.recPrev,
    slotA := s.slotA, slotB := s.slotB, fwFloor := s.fwFloor, recFloor := s.recFloor, romEd := s.romEd, romMl := s.romMl,
    health := { s.health with fetchAhead := s.health.fetchAhead }, sseq := s.sseq,
    free := s.free, out := s.out, inputs := s.inputs, cur := s.cur }

/-- HOLD_EXPIRY (R478): the hold-up energy runs out; the sealed copy is written and the module draws nothing more. -/
def execHoldExpiry (s : State) : Out1 :=
  if s.phase = .adjourned ∧ !s.byCmd then .next (dark { s with sealed := some (sealedCopy s) }) else .next s

/-- THERMAL_TRIP (R491): power is removed; the next start has no valid sealed copy. -/
def execThermalTrip (s : State) : Out1 :=
  if s.phase = .off then .next s else .next { dark s with sealed := none }

/-! ### Start-up (R429, R490, R493) -/

/-- Whether a signed package is accepted (R429): both keys are those of the digests, both signatures verify under them over the header of its
version and digest, the digest is its body's, and the version is at least a floor. -/
def pkgOk (ed ml : List Byte) (floor : Nat) (p : Pkg) : Bool :=
  let signed (k : List Byte) (g : Sig) : Bool := decide (g.key = k ∧ g.ver = p.ver ∧ g.digest = p.digest)
  signed p.edKey p.ed && signed p.mlKey p.ml
    && decide (sha384 p.edKey = ed ∧ sha384 p.mlKey = ml ∧ sha384 p.body = p.digest ∧ floor ≤ p.ver)

/-- Whether a firmware package is accepted (R132, R429): by the ROM of die 0, and by that of die 1 once more after it has come across the bridge,
by the same rule. -/
def fwOk (s : State) (p : Pkg) : Bool := pkgOk s.romEd s.romMl s.fwFloor p && (firmOf p.body).isSome

/-- The firmware that boots: slot A, or slot B if slot A fails (R429). -/
def fwBoot (s : State) : Option Pkg := (s.slotA.toList ++ s.slotB.toList).find? (fwOk s)

/-- Whether the configuration record is accepted, against the keys that the firmware names (R429). -/
def recordOk (s : State) (fw : Pkg) : Bool := pkgOk fw.names.1 fw.names.2 s.recFloor s.record.pkg

/-- Both Directors at address 0 of a firmware, each with its own copy of its data (R132, R429); without one they serve R414's commands alone
and run nothing. -/
def bootDirectors (s : State) (fw : Option Pkg) : State :=
  let fd := (fw.bind fun p => firmOf p.body).getD ([], [])
  let c : Ctx := if fw.isSome then Ctx.director else {}
  let s0 := { s with fwPkg := fw, fwVer := ((fw.map fun p => p.ver).getD 0), fwText := fd.1, fwData := fd.2, bootFail := fw.isNone }
  let s1 := (List.range 2).foldl (fun s d =>
    (putN s (Config.fwBase d) fd.2).setDie d { s.die d with imem := fd.1, ibad := [], icorr := [] }) s0
  (s1.setCtx 1536 c).setCtx 1537 c

/-- PTPCFG as the configuration record sets it (R418). -/
def ptpOf (c : DWord) : Ptp :=
  let f (lo w : Nat) : Nat := (c.extractLsb' lo w).toNat
  { stepthr := f 32 32, port := if f 6 2 = 3 then 2 else f 6 2, profile := if 2 ≤ f 4 2 then 0 else f 4 2, en := c.getLsbD 0 }

/-- POWER_UP (R429, R493): both Directors boot from the firmware that is accepted, if the record is accepted too. -/
def execPowerUp (s : State) : Out1 :=
  let s1 := dark s
  let ok := match fwBoot s with
    | some p => recordOk s p
    | none => false
  let s2 := { s1 with phase := .boot, record := { s.record with valid := ok }, routes := s.record.routes, ptp := ptpOf s.record.ptpcfg,
                      health := { s1.health with boots := satInc s1.health.boots } }
  .next (bootDirectors s2 (if ok then fwBoot s else none))

/-- The scoresheet of a start without a sealed copy (R479, R480): its last journal copy, the open entries abandoned; SSEQ goes on
65,536 beyond the newest. -/
def journalScores (s : State) : State :=
  let f (e : Score) : Score := if e.st = 1 ∨ e.st = 3 then { e with st := 4, tdone := s.time } else e
  let m := s.journal.map fun p => (p.1, f p.2)
  { s with score := m, journal := m, sseq := if m = [] then s.sseq else m.foldl (fun n p => max n p.2.sseq) 0 + 65536 }

/-- Places the .data of the images of the valid contexts again (R479). -/
def refill (s : State) : State :=
  s.images.foldl (fun s i =>
    if (s.ctxEnt i.ctx).v ∧ imageNow s i.img = some i then
      (match ecpAccess s i.ctx i.dva i.data.length true with
       | .inl _ => s
       | .inr l => putPieces s l i.data)
    else s) s

/-- The cold resume from a valid sealed copy (R479). -/
def coldResume (s : State) (x : Sealed) : State :=
  let s1 := { s with nixCtr := x.nixCtr, nixWrap := x.nixWrap, regCtr := x.regCtr, insts := x.insts, ctxTab := x.ctxTab,
                     images := x.images, clocks := x.clocks, score := x.score, hdls := x.hdls, sealCtr := s.sealCtr + 1,
                     sseq := x.score.foldl (fun n p => max n (p.2.sseq + 1)) s.sseq,
                     mem := x.mem.foldl (fun m p => mput 0#8 m p.1 p.2) s.mem }
  let s2 := x.items.foldl (fun s p => s.setDie p.1 { s.die p.1 with items := p.2 }) s1
  resumeDevice (refill s2) 9

/-- HOLDUP_STORE_FULL (R479, R490, R493): the last step of the start: a valid sealed copy is resumed, or the device starts empty. -/
def execHoldupStoreFull (s : State) : Out1 :=
  if s.phase ≠ .boot then (if adjourned s then .next { s with full := true } else .next s)
  else if s.bootFail then .next { s with full := true }
  else
    let s1 := { s with full := true, phase := .run }
    match s.sealed with
    | some x => if x.counter = s.sealCtr then .next (coldResume s1 x) else .next (journalScores s1)
    | none => .next (journalScores s1)

/-! ### Warm reset (R473, R474) -/

/-- Whether a context has a job, a handler run or a gather command in flight. -/
def ctxBusy (s : State) (ctx : Nat) : Bool :=
  s.cores.any fun p =>
    (match p.2.job with
     | some j => decide (j.ctx = ctx)
     | none => false)
      || (match p.2.hrun with
          | some h => decide (h.ctx = ctx)
          | none => false)
      || p.2.gcmds.any fun g => decide (g.ctx = ctx)

/-- A context that was not idle: its generation advances and its instances complete FAILED; its saved jobs can no longer be loaded. -/
def failCtx (s : State) (ctx : Nat) : State :=
  let e := s.ctxEnt ctx
  let s1 := s.setCtxEnt ctx { e with gen := e.gen + 1#16, used := [] }
  ((s1.insts.filter fun i => decide (i.ctx = ctx) && !i.done).map fun i => i.nix).foldl (fun s n => completeInst (dropInst s n) n 1) s1

/-- The handles of a context after a warm reset: an idle context's bindings are kept (R474), any other's are unbound (R335). -/
def resetHandles (busy : Bool) (e : CtxEnt) : CtxEnt :=
  { e with handles := if busy then [] else
      (e.handles.filter fun h => h.2.cur.isSome).map fun h => (h.1, { h.2 with old := none, swap := none, taken := none, hold := false }) }

/-- Whether a core is online after its self-test: one that was offline may return. -/
def selfTest (s : State) (core : Nat) (c : Core) : Bool := c.online || Config.freeBit (s.free + core)

/-- The firmware after a warm reset: the ROM verifies the copy kept in reserved HBM by the rule of R429 (R473). -/
def fwKept (s : State) : Option Pkg :=
  match s.fwPkg with
  | some p => if fwOk s p then some p else none
  | none => none

/-- The warm reset. The Directors start again at address 0, and each region of firmware data is written again (log 65). -/
def warmReset (s : State) : State :=
  let busy := (List.range 64).filter fun c => ctxBusy s c
  let s1 := busy.foldl failCtx (recallTiles s)
  let s2 := { s1 with
    cycBase := s.cycle, wres := false, free := s.free + 384, sess := [], ecpq := [], stages := [], walks := [], preqs := [], oupd := [], oclose := [], ghosts := [],
    gathIn := [], gathRet := [], csrq := [], clusters := [], bridge := [], brHit := 0#32, brThr := 0xFFFFFFFF, peers := [], parts := [],
    clkErr := false, clkIdx := 0, clkRec := 0#512, routes := s.record.routes,
    cores := (s1.cores.map fun p => (p.1, ({ online := selfTest s p.1 p.2, nextId := p.2.nextId } : Core)))
    ctxs := [], shadow := [], hdls := [], ctxTab := s1.ctxTab.map fun p => (p.1, resetHandles (busy.contains p.1) p.2)
    dies := s1.dies.map fun p => (p.1, { items := p.2.items })
    ptp := { ptpOf s.record.ptpcfg with lock := 3, freq := s.ptp.freq, frac := s.ptp.frac }
    health := { s1.health with wresets := satInc s1.health.wresets } }
  let s3 := missFirings (deviceScore (bootDirectors s2 (fwKept s)) 1)
  healthEvent s3 6 0xFFFF 0 0#64 s3.health.wresets

/-- Whether a warm reset is due: an error that no job, handler run or core owns, or no ACTIVE module of the bridge (R473). -/
def resetDue (s : State) : Bool :=
  decide (s.phase ≠ .off) && (s.wres || (List.range 32).all fun m => decide ((s.brMod m).st ≠ 0))

/-- WARM_RESET (R473, R474); as an input with `ok`, for an error in the device's own tables. -/
def execWarmReset (s : State) : Out1 :=
  if resetDue s ∨ (s.arg.ok ∧ s.phase ≠ .off) then .next (warmReset s) else .next s

end Sys2Proof.Machine
end

