-- ==== Sys2Proof/Machine/Scalar.lean ====
section
/-! DEFINITION. The integer arithmetic of LA, SA, the handler and the Director (R141 to R143), of predicates and select (R144
to R146), and of the x registers of EX (R284, R285). -/

namespace Sys2Proof.Machine

/-- An instruction of an A-ISA context that writes a register with a function of two registers. -/
def alu2 (i : Instr) (r : Ring) (d a b : BitVec 5) (f : DWord → DWord → DWord) (s : State) : Out1 :=
  issue i r .any (fun s => .ok (setR s d.toNat (f (getR s a.toNat) (getR s b.toNat)))) s

/-- One that writes a register with a function of one register. -/
def alu1 (i : Instr) (r : Ring) (d a : BitVec 5) (f : DWord → DWord) (s : State) : Out1 :=
  issue i r .any (fun s => .ok (setR s d.toNat (f (getR s a.toNat)))) s

/-- The same in EX. -/
def xalu2 (i : Instr) (r : Ring) (d a b : BitVec 4) (f : DWord → DWord → DWord) (s : State) : Out1 :=
  issue i r .ex (fun s => .ok (setR s d.toNat (f (getR s a.toNat) (getR s b.toNat)))) s

/-- The same in EX, of one register. -/
def xalu1 (i : Instr) (r : Ring) (d a : BitVec 4) (f : DWord → DWord) (s : State) : Out1 :=
  issue i r .ex (fun s => .ok (setR s d.toNat (f (getR s a.toNat)))) s

/-- An instruction that writes a predicate with a function of the context. -/
def plog (i : Instr) (r : Ring) (d : BitVec 5) (f : Ctx → Bool) (s : State) : Out1 :=
  issue i r .any (fun s => .ok (setP s d.toNat (f s.me))) s

/-- ADD (R141). -/
def execAdd (r : Ring) (rd rs1 rs2 : BitVec 5) (s : State) : Out1 :=
  alu2 (.add r rd rs1 rs2) r rd rs1 rs2 (fun x y => x + y) s

/-- SUB (R141). -/
def execSub (r : Ring) (rd rs1 rs2 : BitVec 5) (s : State) : Out1 :=
  alu2 (.sub r rd rs1 rs2) r rd rs1 rs2 (fun x y => x - y) s

/-- MUL (R141). -/
def execMul (r : Ring) (rd rs1 rs2 : BitVec 5) (s : State) : Out1 :=
  alu2 (.mul r rd rs1 rs2) r rd rs1 rs2 (fun x y => x * y) s

/-- MULH (R141). -/
def execMulh (r : Ring) (rd rs1 rs2 : BitVec 5) (s : State) : Out1 :=
  alu2 (.mulh r rd rs1 rs2) r rd rs1 rs2 (fun x y => mulHi x y) s

/-- MULHU (R141). -/
def execMulhu (r : Ring) (rd rs1 rs2 : BitVec 5) (s : State) : Out1 :=
  alu2 (.mulhu r rd rs1 rs2) r rd rs1 rs2 (fun x y => mulHiU x y) s

/-- DIV (R141). -/
def execDiv (r : Ring) (rd rs1 rs2 : BitVec 5) (s : State) : Out1 :=
  alu2 (.div r rd rs1 rs2) r rd rs1 rs2 (fun x y => divS x y) s

/-- DIVU (R141). -/
def execDivu (r : Ring) (rd rs1 rs2 : BitVec 5) (s : State) : Out1 :=
  alu2 (.divu r rd rs1 rs2) r rd rs1 rs2 (fun x y => divU x y) s

/-- REM (R141). -/
def execRem (r : Ring) (rd rs1 rs2 : BitVec 5) (s : State) : Out1 :=
  alu2 (.rem r rd rs1 rs2) r rd rs1 rs2 (fun x y => remS x y) s

/-- REMU (R141). -/
def execRemu (r : Ring) (rd rs1 rs2 : BitVec 5) (s : State) : Out1 :=
  alu2 (.remu r rd rs1 rs2) r rd rs1 rs2 (fun x y => remU x y) s

/-- MIN (R141). -/
def execMin (r : Ring) (rd rs1 rs2 : BitVec 5) (s : State) : Out1 :=
  alu2 (.min r rd rs1 rs2) r rd rs1 rs2 (fun x y => minS x y) s

/-- MINU (R141). -/
def execMinu (r : Ring) (rd rs1 rs2 : BitVec 5) (s : State) : Out1 :=
  alu2 (.minu r rd rs1 rs2) r rd rs1 rs2 (fun x y => minU x y) s

/-- MAX (R141). -/
def execMax (r : Ring) (rd rs1 rs2 : BitVec 5) (s : State) : Out1 :=
  alu2 (.max r rd rs1 rs2) r rd rs1 rs2 (fun x y => maxS x y) s

/-- MAXU (R141). -/
def execMaxu (r : Ring) (rd rs1 rs2 : BitVec 5) (s : State) : Out1 :=
  alu2 (.maxu r rd rs1 rs2) r rd rs1 rs2 (fun x y => maxU x y) s

/-- SHL (R141). -/
def execShl (r : Ring) (rd rs1 rs2 : BitVec 5) (s : State) : Out1 :=
  alu2 (.shl r rd rs1 rs2) r rd rs1 rs2 (fun x y => x <<< shAmt y) s

/-- SHR (R141). -/
def execShr (r : Ring) (rd rs1 rs2 : BitVec 5) (s : State) : Out1 :=
  alu2 (.shr r rd rs1 rs2) r rd rs1 rs2 (fun x y => x >>> shAmt y) s

/-- SAR (R141). -/
def execSar (r : Ring) (rd rs1 rs2 : BitVec 5) (s : State) : Out1 :=
  alu2 (.sar r rd rs1 rs2) r rd rs1 rs2 (fun x y => x.sshiftRight (shAmt y)) s

/-- AND (R141). -/
def execAnd (r : Ring) (rd rs1 rs2 : BitVec 5) (s : State) : Out1 :=
  alu2 (.and r rd rs1 rs2) r rd rs1 rs2 (fun x y => x &&& y) s

/-- OR (R141). -/
def execOr (r : Ring) (rd rs1 rs2 : BitVec 5) (s : State) : Out1 :=
  alu2 (.or r rd rs1 rs2) r rd rs1 rs2 (fun x y => x ||| y) s

/-- XOR (R141). -/
def execXor (r : Ring) (rd rs1 rs2 : BitVec 5) (s : State) : Out1 :=
  alu2 (.xor r rd rs1 rs2) r rd rs1 rs2 (fun x y => x ^^^ y) s

/-- CLZ (R141). -/
def execClz (r : Ring) (rd rs1 : BitVec 5) (s : State) : Out1 :=
  alu1 (.clz r rd rs1) r rd rs1 (fun x => clzW x) s

/-- POPC (R141). -/
def execPopc (r : Ring) (rd rs1 : BitVec 5) (s : State) : Out1 :=
  alu1 (.popc r rd rs1) r rd rs1 (fun x => popcW x) s

/-- ADDI (R142). -/
def execAddi (r : Ring) (rd rs1 : BitVec 5) (imm : BitVec 12) (s : State) : Out1 :=
  alu1 (.addi r rd rs1 imm) r rd rs1 (fun x => x + simm imm) s

/-- ANDI (R142). -/
def execAndi (r : Ring) (rd rs1 : BitVec 5) (imm : BitVec 12) (s : State) : Out1 :=
  alu1 (.andi r rd rs1 imm) r rd rs1 (fun x => x &&& simm imm) s

/-- ORI (R142). -/
def execOri (r : Ring) (rd rs1 : BitVec 5) (imm : BitVec 12) (s : State) : Out1 :=
  alu1 (.ori r rd rs1 imm) r rd rs1 (fun x => x ||| simm imm) s

/-- XORI (R142). -/
def execXori (r : Ring) (rd rs1 : BitVec 5) (imm : BitVec 12) (s : State) : Out1 :=
  alu1 (.xori r rd rs1 imm) r rd rs1 (fun x => x ^^^ simm imm) s

/-- SHLI (R142). -/
def execShli (r : Ring) (rd rs1 : BitVec 5) (sh : BitVec 6) (s : State) : Out1 :=
  alu1 (.shli r rd rs1 sh) r rd rs1 (fun x => x <<< sh.toNat) s

/-- SHRI (R142). -/
def execShri (r : Ring) (rd rs1 : BitVec 5) (sh : BitVec 6) (s : State) : Out1 :=
  alu1 (.shri r rd rs1 sh) r rd rs1 (fun x => x >>> sh.toNat) s

/-- SARI (R142). -/
def execSari (r : Ring) (rd rs1 : BitVec 5) (sh : BitVec 6) (s : State) : Out1 :=
  alu1 (.sari r rd rs1 sh) r rd rs1 (fun x => x.sshiftRight sh.toNat) s

/-- LI (R143). -/
def execLi (r : Ring) (rd : BitVec 5) (imm : BitVec 17) (s : State) : Out1 :=
  issue (.li r rd imm) r .any (fun s => .ok (setR s rd.toNat (simm imm))) s

/-- LUI (R143): the low 17 bits are the immediate, the rest the register shifted up. -/
def execLui (r : Ring) (rd : BitVec 5) (imm : BitVec 17) (s : State) : Out1 :=
  alu1 (.lui r rd imm) r rd rd (fun x => (x <<< 17) ||| imm.setWidth 64) s

/-- CMP.cond (R144). -/
def execCmp (r : Ring) (qd : BitVec 7) (rs1 rs2 : BitVec 5) (cond : Cond) (s : State) : Out1 :=
  issue (.cmp r qd rs1 rs2 cond) r .any
    (fun s => .ok (setP s qd.toNat (condInt cond (getR s rs1.toNat) (getR s rs2.toNat)))) s

/-- CMPI.cond (R144). -/
def execCmpi (r : Ring) (qd : BitVec 7) (rs1 : BitVec 5) (cond : Cond) (imm : BitVec 6) (s : State) : Out1 :=
  issue (.cmpi r qd rs1 cond imm) r .any
    (fun s => .ok (setP s qd.toNat (condInt cond (getR s rs1.toNat) (simm imm)))) s

/-- PAND (R145). -/
def execPand (r : Ring) (qd qa qb : BitVec 5) (s : State) : Out1 :=
  plog (.pand r qd qa qb) r qd (fun c => c.pred qa.toNat && c.pred qb.toNat) s

/-- POR (R145). -/
def execPor (r : Ring) (qd qa qb : BitVec 5) (s : State) : Out1 :=
  plog (.por r qd qa qb) r qd (fun c => c.pred qa.toNat || c.pred qb.toNat) s

/-- PXOR (R145). -/
def execPxor (r : Ring) (qd qa qb : BitVec 5) (s : State) : Out1 :=
  plog (.pxor r qd qa qb) r qd (fun c => c.pred qa.toNat ^^ c.pred qb.toNat) s

/-- PNOT (R145). -/
def execPnot (r : Ring) (qd qa : BitVec 5) (s : State) : Out1 :=
  plog (.pnot r qd qa) r qd (fun c => !c.pred qa.toNat) s

/-- SEL (R146). -/
def execSel (r : Ring) (rd rs1 rs2 : BitVec 5) (q : BitVec 7) (s : State) : Out1 :=
  issue (.sel r rd rs1 rs2 q) r .any
    (fun s => .ok (setR s rd.toNat (if s.me.pred q.toNat then getR s rs1.toNat else getR s rs2.toNat))) s

/-- XADD (R284). -/
def execXadd (r : Ring) (xd xa xb : BitVec 4) (s : State) : Out1 :=
  xalu2 (.xadd r xd xa xb) r xd xa xb (fun x y => x + y) s

/-- XSUB (R284). -/
def execXsub (r : Ring) (xd xa xb : BitVec 4) (s : State) : Out1 :=
  xalu2 (.xsub r xd xa xb) r xd xa xb (fun x y => x - y) s

/-- XMUL (R284). -/
def execXmul (r : Ring) (xd xa xb : BitVec 4) (s : State) : Out1 :=
  xalu2 (.xmul r xd xa xb) r xd xa xb (fun x y => x * y) s

/-- XMULH (R284). -/
def execXmulh (r : Ring) (xd xa xb : BitVec 4) (s : State) : Out1 :=
  xalu2 (.xmulh r xd xa xb) r xd xa xb (fun x y => mulHi x y) s

/-- XMULHU (R284). -/
def execXmulhu (r : Ring) (xd xa xb : BitVec 4) (s : State) : Out1 :=
  xalu2 (.xmulhu r xd xa xb) r xd xa xb (fun x y => mulHiU x y) s

/-- XDIV (R284). -/
def execXdiv (r : Ring) (xd xa xb : BitVec 4) (s : State) : Out1 :=
  xalu2 (.xdiv r xd xa xb) r xd xa xb (fun x y => divS x y) s

/-- XDIVU (R284). -/
def execXdivu (r : Ring) (xd xa xb : BitVec 4) (s : State) : Out1 :=
  xalu2 (.xdivu r xd xa xb) r xd xa xb (fun x y => divU x y) s

/-- XREM (R284). -/
def execXrem (r : Ring) (xd xa xb : BitVec 4) (s : State) : Out1 :=
  xalu2 (.xrem r xd xa xb) r xd xa xb (fun x y => remS x y) s

/-- XREMU (R284). -/
def execXremu (r : Ring) (xd xa xb : BitVec 4) (s : State) : Out1 :=
  xalu2 (.xremu r xd xa xb) r xd xa xb (fun x y => remU x y) s

/-- XMIN (R284). -/
def execXmin (r : Ring) (xd xa xb : BitVec 4) (s : State) : Out1 :=
  xalu2 (.xmin r xd xa xb) r xd xa xb (fun x y => minS x y) s

/-- XMINU (R284). -/
def execXminu (r : Ring) (xd xa xb : BitVec 4) (s : State) : Out1 :=
  xalu2 (.xminu r xd xa xb) r xd xa xb (fun x y => minU x y) s

/-- XMAX (R284). -/
def execXmax (r : Ring) (xd xa xb : BitVec 4) (s : State) : Out1 :=
  xalu2 (.xmax r xd xa xb) r xd xa xb (fun x y => maxS x y) s

/-- XMAXU (R284). -/
def execXmaxu (r : Ring) (xd xa xb : BitVec 4) (s : State) : Out1 :=
  xalu2 (.xmaxu r xd xa xb) r xd xa xb (fun x y => maxU x y) s

/-- XSHL (R284). -/
def execXshl (r : Ring) (xd xa xb : BitVec 4) (s : State) : Out1 :=
  xalu2 (.xshl r xd xa xb) r xd xa xb (fun x y => x <<< shAmt y) s

/-- XSHR (R284). -/
def execXshr (r : Ring) (xd xa xb : BitVec 4) (s : State) : Out1 :=
  xalu2 (.xshr r xd xa xb) r xd xa xb (fun x y => x >>> shAmt y) s

/-- XSAR (R284). -/
def execXsar (r : Ring) (xd xa xb : BitVec 4) (s : State) : Out1 :=
  xalu2 (.xsar r xd xa xb) r xd xa xb (fun x y => x.sshiftRight (shAmt y)) s

/-- XAND (R284). -/
def execXand (r : Ring) (xd xa xb : BitVec 4) (s : State) : Out1 :=
  xalu2 (.xand r xd xa xb) r xd xa xb (fun x y => x &&& y) s

/-- XOR (R284). -/
def execXorX (r : Ring) (xd xa xb : BitVec 4) (s : State) : Out1 :=
  xalu2 (.xorX r xd xa xb) r xd xa xb (fun x y => x ||| y) s

/-- XXOR (R284). -/
def execXxor (r : Ring) (xd xa xb : BitVec 4) (s : State) : Out1 :=
  xalu2 (.xxor r xd xa xb) r xd xa xb (fun x y => x ^^^ y) s

/-- XCLZ (R284). -/
def execXclz (r : Ring) (xd xa : BitVec 4) (s : State) : Out1 :=
  xalu1 (.xclz r xd xa) r xd xa (fun x => clzW x) s

/-- XPOPC (R284). -/
def execXpopc (r : Ring) (xd xa : BitVec 4) (s : State) : Out1 :=
  xalu1 (.xpopc r xd xa) r xd xa (fun x => popcW x) s

/-- XADDI (R284). -/
def execXaddi (r : Ring) (xd xa : BitVec 4) (imm : BitVec 14) (s : State) : Out1 :=
  xalu1 (.xaddi r xd xa imm) r xd xa (fun x => x + simm imm) s

/-- XMOVI (R284). -/
def execXmovi (r : Ring) (xd : BitVec 4) (imm : BitVec 18) (s : State) : Out1 :=
  issue (.xmovi r xd imm) r .ex (fun s => .ok (setR s xd.toNat (simm imm))) s

/-- XCMP.cond (R285). -/
def execXcmp (r : Ring) (qd : BitVec 7) (xa xb : BitVec 4) (cond : Cond) (s : State) : Out1 :=
  issue (.xcmp r qd xa xb cond) r .ex
    (fun s => .ok (setP s qd.toNat (condInt cond (getR s xa.toNat) (getR s xb.toNat)))) s

end Sys2Proof.Machine
end

