-- ==== Sys2Proof/Machine/Dispatch.lean ====
section
/-! DEFINITION. The meaning of every instruction and device step: one call for each constructor of `Instr`. -/

namespace Sys2Proof.Machine

/-- What an instruction or device step does in a state. -/
def exec (i : Instr) (s : State) : Host.Outcome State Fault Refusal :=
  match i with
  | .add r rd rs1 rs2 => Sys2Proof.Machine.execAdd r rd rs1 rs2 s
  | .sub r rd rs1 rs2 => Sys2Proof.Machine.execSub r rd rs1 rs2 s
  | .mul r rd rs1 rs2 => Sys2Proof.Machine.execMul r rd rs1 rs2 s
  | .mulh r rd rs1 rs2 => Sys2Proof.Machine.execMulh r rd rs1 rs2 s
  | .mulhu r rd rs1 rs2 => Sys2Proof.Machine.execMulhu r rd rs1 rs2 s
  | .div r rd rs1 rs2 => Sys2Proof.Machine.execDiv r rd rs1 rs2 s
  | .divu r rd rs1 rs2 => Sys2Proof.Machine.execDivu r rd rs1 rs2 s
  | .rem r rd rs1 rs2 => Sys2Proof.Machine.execRem r rd rs1 rs2 s
  | .remu r rd rs1 rs2 => Sys2Proof.Machine.execRemu r rd rs1 rs2 s
  | .min r rd rs1 rs2 => Sys2Proof.Machine.execMin r rd rs1 rs2 s
  | .minu r rd rs1 rs2 => Sys2Proof.Machine.execMinu r rd rs1 rs2 s
  | .max r rd rs1 rs2 => Sys2Proof.Machine.execMax r rd rs1 rs2 s
  | .maxu r rd rs1 rs2 => Sys2Proof.Machine.execMaxu r rd rs1 rs2 s
  | .shl r rd rs1 rs2 => Sys2Proof.Machine.execShl r rd rs1 rs2 s
  | .shr r rd rs1 rs2 => Sys2Proof.Machine.execShr r rd rs1 rs2 s
  | .sar r rd rs1 rs2 => Sys2Proof.Machine.execSar r rd rs1 rs2 s
  | .and r rd rs1 rs2 => Sys2Proof.Machine.execAnd r rd rs1 rs2 s
  | .or r rd rs1 rs2 => Sys2Proof.Machine.execOr r rd rs1 rs2 s
  | .xor r rd rs1 rs2 => Sys2Proof.Machine.execXor r rd rs1 rs2 s
  | .clz r rd rs1 => Sys2Proof.Machine.execClz r rd rs1 s
  | .popc r rd rs1 => Sys2Proof.Machine.execPopc r rd rs1 s
  | .addi r rd rs1 imm => Sys2Proof.Machine.execAddi r rd rs1 imm s
  | .andi r rd rs1 imm => Sys2Proof.Machine.execAndi r rd rs1 imm s
  | .ori r rd rs1 imm => Sys2Proof.Machine.execOri r rd rs1 imm s
  | .xori r rd rs1 imm => Sys2Proof.Machine.execXori r rd rs1 imm s
  | .shli r rd rs1 sh => Sys2Proof.Machine.execShli r rd rs1 sh s
  | .shri r rd rs1 sh => Sys2Proof.Machine.execShri r rd rs1 sh s
  | .sari r rd rs1 sh => Sys2Proof.Machine.execSari r rd rs1 sh s
  | .li r rd imm => Sys2Proof.Machine.execLi r rd imm s
  | .lui r rd imm => Sys2Proof.Machine.execLui r rd imm s
  | .cmp r qd rs1 rs2 cond => Sys2Proof.Machine.execCmp r qd rs1 rs2 cond s
  | .cmpi r qd rs1 cond imm => Sys2Proof.Machine.execCmpi r qd rs1 cond imm s
  | .pand r qd qa qb => Sys2Proof.Machine.execPand r qd qa qb s
  | .por r qd qa qb => Sys2Proof.Machine.execPor r qd qa qb s
  | .pxor r qd qa qb => Sys2Proof.Machine.execPxor r qd qa qb s
  | .pnot r qd qa => Sys2Proof.Machine.execPnot r qd qa s
  | .sel r rd rs1 rs2 q => Sys2Proof.Machine.execSel r rd rs1 rs2 q s
  | .csrr r rd csr => Sys2Proof.Machine.execCsrr r rd csr s
  | .csrw r rs csr => Sys2Proof.Machine.execCsrw r rs csr s
  | .b r q n off => Sys2Proof.Machine.execB r q n off s
  | .j r target => Sys2Proof.Machine.execJ r target s
  | .jal r rd target => Sys2Proof.Machine.execJal r rd target s
  | .jr r rs => Sys2Proof.Machine.execJr r rs s
  | .guard r q n cnt => Sys2Proof.Machine.execGuard r q n cnt s
  | .loop r l rs tgt => Sys2Proof.Machine.execLoop r l rs tgt s
  | .loopsp r rec => Sys2Proof.Machine.execLoopsp r rec s
  | .safe r => Sys2Proof.Machine.execSafe r s
  | .rdv r => Sys2Proof.Machine.execRdv r s
  | .spawn r rs1 rs2 => Sys2Proof.Machine.execSpawn r rs1 rs2 s
  | .trap r rs => Sys2Proof.Machine.execTrap r rs s
  | .hret r => Sys2Proof.Machine.execHret r s
  | .ld r rd rb sz pi sx off => Sys2Proof.Machine.execLd r rd rb sz pi sx off s
  | .st r rs rb sz pi off => Sys2Proof.Machine.execSt r rs rb sz pi off s
  | .ldp r rd rb sz pi off => Sys2Proof.Machine.execLdp r rd rb sz pi off s
  | .ldpF r rd rb sz off => Sys2Proof.Machine.execLdpF r rd rb sz off s
  | .stp r rs rb sz pi off => Sys2Proof.Machine.execStp r rs rb sz pi off s
  | .stpE r rs rb sz off => Sys2Proof.Machine.execStpE r rs rb sz off s
  | .lda r rd rb ord sc d8 => Sys2Proof.Machine.execLda r rd rb ord sc d8 s
  | .stl r rb rs ord sc d8 => Sys2Proof.Machine.execStl r rb rs ord sc d8 s
  | .amoAdd r rd rb rs ord sc d8 => Sys2Proof.Machine.execAmoAdd r rd rb rs ord sc d8 s
  | .amoAnd r rd rb rs ord sc d8 => Sys2Proof.Machine.execAmoAnd r rd rb rs ord sc d8 s
  | .amoOr r rd rb rs ord sc d8 => Sys2Proof.Machine.execAmoOr r rd rb rs ord sc d8 s
  | .amoXor r rd rb rs ord sc d8 => Sys2Proof.Machine.execAmoXor r rd rb rs ord sc d8 s
  | .amoMin r rd rb rs ord sc d8 => Sys2Proof.Machine.execAmoMin r rd rb rs ord sc d8 s
  | .amoMax r rd rb rs ord sc d8 => Sys2Proof.Machine.execAmoMax r rd rb rs ord sc d8 s
  | .amoMinU r rd rb rs ord sc d8 => Sys2Proof.Machine.execAmoMinU r rd rb rs ord sc d8 s
  | .amoMaxU r rd rb rs ord sc d8 => Sys2Proof.Machine.execAmoMaxU r rd rb rs ord sc d8 s
  | .amoSwap r rd rb rs ord sc d8 => Sys2Proof.Machine.execAmoSwap r rd rb rs ord sc d8 s
  | .cas r rd rb rs ord sc d8 => Sys2Proof.Machine.execCas r rd rb rs ord sc d8 s
  | .fence r ord sc => Sys2Proof.Machine.execFence r ord sc s
  | .phase r sc => Sys2Proof.Machine.execPhase r sc s
  | .tkw r succ cnt => Sys2Proof.Machine.execTkw r succ cnt s
  | .tks r succ cnt => Sys2Proof.Machine.execTks r succ cnt s
  | .stw r rd => Sys2Proof.Machine.execStw r rd s
  | .poprpl r rd any tag => Sys2Proof.Machine.execPoprpl r rd any tag s
  | .sqpush r rs cnt => Sys2Proof.Machine.execSqpush r rs cnt s
  | .sqbind r ub port => Sys2Proof.Machine.execSqbind r ub port s
  | .msend r rt ro lines he queue hpc => Sys2Proof.Machine.execMsend r rt ro lines he queue hpc s
  | .sopen r port rs1 rs2 src dst mfmt rm sm qn => Sys2Proof.Machine.execSopen r port rs1 rs2 src dst mfmt rm sm qn s
  | .slev r port rs1 rs2 level imm ext => Sys2Proof.Machine.execSlev r port rs1 rs2 level imm ext s
  | .sind r port iport rs2 => Sys2Proof.Machine.execSind r port iport rs2 s
  | .ssrc r port rs1 => Sys2Proof.Machine.execSsrc r port rs1 s
  | .sremote r port rs1 rs2 he queue hpc mc ch => Sys2Proof.Machine.execSremote r port rs1 rs2 he queue hpc mc ch s
  | .smerge r ok ka kb oa uni strict ob eoa eob eok tag => Sys2Proof.Machine.execSmerge r ok ka kb oa uni strict ob eoa eob eok tag s
  | .sbfmt r rs code => Sys2Proof.Machine.execSbfmt r rs code s
  | .sgo r port => Sys2Proof.Machine.execSgo r port s
  | .sfork r port fork dst => Sys2Proof.Machine.execSfork r port fork dst s
  | .smark r port clr auto m => Sys2Proof.Machine.execSmark r port clr auto m s
  | .srew r port m => Sys2Proof.Machine.execSrew r port m s
  | .ssave r port rs keep => Sys2Proof.Machine.execSsave r port rs keep s
  | .srest r port rs => Sys2Proof.Machine.execSrest r port rs s
  | .sclose r port => Sys2Proof.Machine.execSclose r port s
  | .sstat r port rd => Sys2Proof.Machine.execSstat r port rd s
  | .sflush r port => Sys2Proof.Machine.execSflush r port s
  | .gtbind r h rs1 => Sys2Proof.Machine.execGtbind r h rs1 s
  | .gtswap r h rs1 rs2 => Sys2Proof.Machine.execGtswap r h rs1 rs2 s
  | .gsync r h rs2 => Sys2Proof.Machine.execGsync r h rs2 s
  | .gath r ri rn rf h dk port rp fz tag => Sys2Proof.Machine.execGath r ri rn rf h dk port rp fz tag s
  | .gathp r ri rn rf h mean port rb fz tag => Sys2Proof.Machine.execGathp r ri rn rf h mean port rb fz tag s
  | .scat r ri rn rf h rs tag => Sys2Proof.Machine.execScat r ri rn rf h rs tag s
  | .scata r ri rn rf h rs tag => Sys2Proof.Machine.execScata r ri rn rf h rs tag s
  | .bara r ra num => Sys2Proof.Machine.execBara r ra num s
  | .barw r ra num rb => Sys2Proof.Machine.execBarw r ra num rb s
  | .barwa r ra base rb => Sys2Proof.Machine.execBarwa r ra base rb s
  | .barinit r ra num => Sys2Proof.Machine.execBarinit r ra num s
  | .barinitFree r num => Sys2Proof.Machine.execBarinitFree r num s
  | .sems r ra v => Sys2Proof.Machine.execSems r ra v s
  | .semw r ra v => Sys2Proof.Machine.execSemw r ra v s
  | .semwt r ra v rb => Sys2Proof.Machine.execSemwt r ra v rb s
  | .asidset rd rs1 rs2 => Sys2Proof.Machine.execAsidset rd rs1 rs2 s
  | .ptbase rd rs1 rs2 => Sys2Proof.Machine.execPtbase rd rs1 rs2 s
  | .tlbinv rd rs1 rs2 => Sys2Proof.Machine.execTlbinv rd rs1 rs2 s
  | .killctx rd rs1 => Sys2Proof.Machine.execKillctx rd rs1 s
  | .preempt rd rs1 => Sys2Proof.Machine.execPreempt rd rs1 s
  | .ctxsave rd rs1 rs2 => Sys2Proof.Machine.execCtxsave rd rs1 rs2 s
  | .ctxload rd rs1 rs2 => Sys2Proof.Machine.execCtxload rd rs1 rs2 s
  | .drain rd rs1 rs2 => Sys2Proof.Machine.execDrain rd rs1 rs2 s
  | .semmap rd rs1 rs2 => Sys2Proof.Machine.execSemmap rd rs1 rs2 s
  | .lqpush rd rs1 => Sys2Proof.Machine.execLqpush rd rs1 s
  | .wake rd rs1 rs2 => Sys2Proof.Machine.execWake rd rs1 rs2 s
  | .timerd rd rs1 => Sys2Proof.Machine.execTimerd rd rs1 s
  | .adjourn rd rs1 => Sys2Proof.Machine.execAdjourn rd rs1 s
  | .score rd rs1 rs2 => Sys2Proof.Machine.execScore rd rs1 rs2 s
  | .monsnap rd rs1 rs2 => Sys2Proof.Machine.execMonsnap rd rs1 rs2 s
  | .vadd r d a b t => Sys2Proof.Machine.execVadd r d a b t s
  | .vsub r d a b t => Sys2Proof.Machine.execVsub r d a b t s
  | .vmul r d a b t => Sys2Proof.Machine.execVmul r d a b t s
  | .vmin r d a b t => Sys2Proof.Machine.execVmin r d a b t s
  | .vmax r d a b t => Sys2Proof.Machine.execVmax r d a b t s
  | .vabd r d a b t => Sys2Proof.Machine.execVabd r d a b t s
  | .vadds r d a b t => Sys2Proof.Machine.execVadds r d a b t s
  | .vsubs r d a b t => Sys2Proof.Machine.execVsubs r d a b t s
  | .vmulh r d a b t => Sys2Proof.Machine.execVmulh r d a b t s
  | .vdiv r d a b t => Sys2Proof.Machine.execVdiv r d a b t s
  | .vand r d a b t => Sys2Proof.Machine.execVand r d a b t s
  | .vor r d a b t => Sys2Proof.Machine.execVor r d a b t s
  | .vxor r d a b t => Sys2Proof.Machine.execVxor r d a b t s
  | .vshl r d a b t => Sys2Proof.Machine.execVshl r d a b t s
  | .vshr r d a b t => Sys2Proof.Machine.execVshr r d a b t s
  | .vsar r d a b t => Sys2Proof.Machine.execVsar r d a b t s
  | .vfma r d a b t c mk rmo => Sys2Proof.Machine.execVfma r d a b t c mk rmo s
  | .vfms r d a b t c mk rmo => Sys2Proof.Machine.execVfms r d a b t c mk rmo s
  | .vabs r d a t => Sys2Proof.Machine.execVabs r d a t s
  | .vneg r d a t => Sys2Proof.Machine.execVneg r d a t s
  | .vnot r d a t => Sys2Proof.Machine.execVnot r d a t s
  | .vsqrt r d a t => Sys2Proof.Machine.execVsqrt r d a t s
  | .vrcp r d a t => Sys2Proof.Machine.execVrcp r d a t s
  | .vrsq r d a t => Sys2Proof.Machine.execVrsq r d a t s
  | .vexp2 r d a t => Sys2Proof.Machine.execVexp2 r d a t s
  | .vlog2 r d a t => Sys2Proof.Machine.execVlog2 r d a t s
  | .vtanh r d a t => Sys2Proof.Machine.execVtanh r d a t s
  | .vsigm r d a t => Sys2Proof.Machine.execVsigm r d a t s
  | .vmov r d a t => Sys2Proof.Machine.execVmov r d a t s
  | .vcmp r a b t kd cond => Sys2Proof.Machine.execVcmp r a b t kd cond s
  | .kand r kd ka kb => Sys2Proof.Machine.execKand r kd ka kb s
  | .kor r kd ka kb => Sys2Proof.Machine.execKor r kd ka kb s
  | .kxor r kd ka kb => Sys2Proof.Machine.execKxor r kd ka kb s
  | .knot r kd ka => Sys2Proof.Machine.execKnot r kd ka s
  | .kpop r xd ka => Sys2Proof.Machine.execKpop r xd ka s
  | .kfirst r xd ka => Sys2Proof.Machine.execKfirst r xd ka s
  | .vsel r d a b t k => Sys2Proof.Machine.execVsel r d a b t k s
  | .vmovm r d a t k kz => Sys2Proof.Machine.execVmovm r d a t k kz s
  | .vcvt r d a t mk t2 rmo => Sys2Proof.Machine.execVcvt r d a t mk t2 rmo s
  | .vquant r d a t c t2 rmo => Sys2Proof.Machine.execVquant r d a t c t2 rmo s
  | .vdeq r d a t c mk t2 rmo => Sys2Proof.Machine.execVdeq r d a t c mk t2 rmo s
  | .vrsumr r d a t => Sys2Proof.Machine.execVrsumr r d a t s
  | .vrsumc r d a t => Sys2Proof.Machine.execVrsumc r d a t s
  | .vrmax r d a t => Sys2Proof.Machine.execVrmax r d a t s
  | .vrmin r d a t => Sys2Proof.Machine.execVrmin r d a t s
  | .vscanSum r d a t => Sys2Proof.Machine.execVscanSum r d a t s
  | .vscanMax r d a t => Sys2Proof.Machine.execVscanMax r d a t s
  | .vscanMin r d a t => Sys2Proof.Machine.execVscanMin r d a t s
  | .vsegsum r d a t k rmo => Sys2Proof.Machine.execVsegsum r d a t k rmo s
  | .vtrn r d a t => Sys2Proof.Machine.execVtrn r d a t s
  | .vbcr r d a xb t => Sys2Proof.Machine.execVbcr r d a xb t s
  | .vbcc r d a xb t => Sys2Proof.Machine.execVbcc r d a xb t s
  | .vrot r d a imm t => Sys2Proof.Machine.execVrot r d a imm t s
  | .vslide r d a imm t => Sys2Proof.Machine.execVslide r d a imm t s
  | .viota r d t => Sys2Proof.Machine.execViota r d t s
  | .vsplat r d xa t => Sys2Proof.Machine.execVsplat r d xa t s
  | .vext r xd a xb t => Sys2Proof.Machine.execVext r xd a xb t s
  | .vins r d xa xb t => Sys2Proof.Machine.execVins r d xa xb t s
  | .vshape r rowsM1 colsM1 => Sys2Proof.Machine.execVshape r rowsM1 colsM1 s
  | .xadd r xd xa xb => Sys2Proof.Machine.execXadd r xd xa xb s
  | .xsub r xd xa xb => Sys2Proof.Machine.execXsub r xd xa xb s
  | .xmul r xd xa xb => Sys2Proof.Machine.execXmul r xd xa xb s
  | .xmulh r xd xa xb => Sys2Proof.Machine.execXmulh r xd xa xb s
  | .xmulhu r xd xa xb => Sys2Proof.Machine.execXmulhu r xd xa xb s
  | .xdiv r xd xa xb => Sys2Proof.Machine.execXdiv r xd xa xb s
  | .xdivu r xd xa xb => Sys2Proof.Machine.execXdivu r xd xa xb s
  | .xrem r xd xa xb => Sys2Proof.Machine.execXrem r xd xa xb s
  | .xremu r xd xa xb => Sys2Proof.Machine.execXremu r xd xa xb s
  | .xmin r xd xa xb => Sys2Proof.Machine.execXmin r xd xa xb s
  | .xminu r xd xa xb => Sys2Proof.Machine.execXminu r xd xa xb s
  | .xmax r xd xa xb => Sys2Proof.Machine.execXmax r xd xa xb s
  | .xmaxu r xd xa xb => Sys2Proof.Machine.execXmaxu r xd xa xb s
  | .xshl r xd xa xb => Sys2Proof.Machine.execXshl r xd xa xb s
  | .xshr r xd xa xb => Sys2Proof.Machine.execXshr r xd xa xb s
  | .xsar r xd xa xb => Sys2Proof.Machine.execXsar r xd xa xb s
  | .xand r xd xa xb => Sys2Proof.Machine.execXand r xd xa xb s
  | .xorX r xd xa xb => Sys2Proof.Machine.execXorX r xd xa xb s
  | .xxor r xd xa xb => Sys2Proof.Machine.execXxor r xd xa xb s
  | .xclz r xd xa => Sys2Proof.Machine.execXclz r xd xa s
  | .xpopc r xd xa => Sys2Proof.Machine.execXpopc r xd xa s
  | .xaddi r xd xa imm => Sys2Proof.Machine.execXaddi r xd xa imm s
  | .xmovi r xd imm => Sys2Proof.Machine.execXmovi r xd imm s
  | .xcmp r qd xa xb cond => Sys2Proof.Machine.execXcmp r qd xa xb cond s
  | .xb r q n off => Sys2Proof.Machine.execXb r q n off s
  | .guardX r q n cnt => Sys2Proof.Machine.execGuardX r q n cnt s
  | .loopX r l xs tgt => Sys2Proof.Machine.execLoopX r l xs tgt s
  | .loopspX r rec => Sys2Proof.Machine.execLoopspX r rec s
  | .steer r xa xb stq => Sys2Proof.Machine.execSteer r xa xb stq s
  | .xj r xa => Sys2Proof.Machine.execXj r xa s
  | .rdvX r => Sys2Proof.Machine.execRdvX r s
  | .safeX r => Sys2Proof.Machine.execSafeX r s
  | .xget r xd sel => Sys2Proof.Machine.execXget r xd sel s
  | .xset r xa sel => Sys2Proof.Machine.execXset r xa sel s
  | .mxldb r sw ss sk loc nb n0 bf k scl => Sys2Proof.Machine.execMxldb r sw ss sk loc nb n0 bf k scl s
  | .mxldbs r sw ss sg loc nb dc ove kHi bf kLo => Sys2Proof.Machine.execMxldbs r sw ss sg loc nb dc ove kHi bf kLo s
  | .mxrun r sw ss ps loc af kaHi kaLo acc0 m => Sys2Proof.Machine.execMxrun r sw ss ps loc af kaHi kaLo acc0 m s
  | .mxrung r sw ss tb iport af kaHi kaLo acc0 m => Sys2Proof.Machine.execMxrung r sw ss tb iport af kaHi kaLo acc0 m s
  | .mxst r sw ss ps loc acc0 n0 m df rm sm nb => Sys2Proof.Machine.execMxst r sw ss ps loc acc0 n0 m df rm sm nb s
  | .mxz r sw ss acc0 m kind => Sys2Proof.Machine.execMxz r sw ss acc0 m kind s
  | .mxops r sw ss len opsLo opsHi => Sys2Proof.Machine.execMxops r sw ss len opsLo opsHi s
  | .mxanc r sw ss anc => Sys2Proof.Machine.execMxanc r sw ss anc s
  | .mxfence r sw ss => Sys2Proof.Machine.execMxfence r sw ss s
  | .mxclrp r sw ss acc0 m re bm => Sys2Proof.Machine.execMxclrp r sw ss acc0 m re bm s
  | .mxspill r sw ss ps loc acc0 m => Sys2Proof.Machine.execMxspill r sw ss ps loc acc0 m s
  | .mxfill r sw ss ps loc acc0 m => Sys2Proof.Machine.execMxfill r sw ss ps loc acc0 m s
  | .gbld r xa => Sys2Proof.Machine.execGbld r xa s
  | .gbth r xh xl xe xt => Sys2Proof.Machine.execGbth r xh xl xe xt s
  | .gbpred r inp oa ou xbf tag xn xu => Sys2Proof.Machine.execGbpred r inp oa ou xbf tag xn xu s
  | .gbchk r inp orp ht xu tag => Sys2Proof.Machine.execGbchk r inp orp ht xu tag s
  | .loadDataReturn => Sys2Proof.Machine.execLoadDataReturn s
  | .pageWalkComplete => Sys2Proof.Machine.execPageWalkComplete s
  | .remoteStrongAccess => Sys2Proof.Machine.execRemoteStrongAccess s
  | .messageRequest => Sys2Proof.Machine.execMessageRequest s
  | .messageAccept => Sys2Proof.Machine.execMessageAccept s
  | .messagePayloadComplete => Sys2Proof.Machine.execMessagePayloadComplete s
  | .handlerStart => Sys2Proof.Machine.execHandlerStart s
  | .mergeStep => Sys2Proof.Machine.execMergeStep s
  | .streamCommandEffect => Sys2Proof.Machine.execStreamCommandEffect s
  | .streamFillItem => Sys2Proof.Machine.execStreamFillItem s
  | .streamDrainItem => Sys2Proof.Machine.execStreamDrainItem s
  | .decompressBlock => Sys2Proof.Machine.execDecompressBlock s
  | .remoteMessageSend => Sys2Proof.Machine.execRemoteMessageSend s
  | .gatherAccept => Sys2Proof.Machine.execGatherAccept s
  | .gatherPeerRequest => Sys2Proof.Machine.execGatherPeerRequest s
  | .gatherRowReturn => Sys2Proof.Machine.execGatherRowReturn s
  | .peerUnreachable => Sys2Proof.Machine.execPeerUnreachable s
  | .scatterUpdate => Sys2Proof.Machine.execScatterUpdate s
  | .gsyncClose => Sys2Proof.Machine.execGsyncClose s
  | .gatherPerformed => Sys2Proof.Machine.execGatherPerformed s
  | .generationDrop => Sys2Proof.Machine.execGenerationDrop s
  | .barrierRelease => Sys2Proof.Machine.execBarrierRelease s
  | .semaphoreGrant => Sys2Proof.Machine.execSemaphoreGrant s
  | .semwtTimeout => Sys2Proof.Machine.execSemwtTimeout s
  | .drainTimeout => Sys2Proof.Machine.execDrainTimeout s
  | .timerdDeadline => Sys2Proof.Machine.execTimerdDeadline s
  | .matrixCommandStart => Sys2Proof.Machine.execMatrixCommandStart s
  | .matrixCommandPerformed => Sys2Proof.Machine.execMatrixCommandPerformed s
  | .faultRecordEnqueue => Sys2Proof.Machine.execFaultRecordEnqueue s
  | .gambitPerform => Sys2Proof.Machine.execGambitPerform s
  | .secondCompare => Sys2Proof.Machine.execSecondCompare s
  | .rollback => Sys2Proof.Machine.execRollback s
  | .imageTextCopy => Sys2Proof.Machine.execImageTextCopy s
  | .jobStart => Sys2Proof.Machine.execJobStart s
  | .jobComplete => Sys2Proof.Machine.execJobComplete s
  | .clusterReport => Sys2Proof.Machine.execClusterReport s
  | .instanceComplete => Sys2Proof.Machine.execInstanceComplete s
  | .walkerDeal => Sys2Proof.Machine.execWalkerDeal s
  | .tileDeposit => Sys2Proof.Machine.execTileDeposit s
  | .corePop => Sys2Proof.Machine.execCorePop s
  | .steal => Sys2Proof.Machine.execSteal s
  | .starving => Sys2Proof.Machine.execStarving s
  | .jobSave => Sys2Proof.Machine.execJobSave s
  | .safePointOverdue => Sys2Proof.Machine.execSafePointOverdue s
  | .clockFire => Sys2Proof.Machine.execClockFire s
  | .heldTileRelease => Sys2Proof.Machine.execHeldTileRelease s
  | .clkcmdWrite => Sys2Proof.Machine.execClkcmdWrite s
  | .clkcmdRead => Sys2Proof.Machine.execClkcmdRead s
  | .clkcmdClearEn => Sys2Proof.Machine.execClkcmdClearEn s
  | .eventRingWrite => Sys2Proof.Machine.execEventRingWrite s
  | .evheadWrite => Sys2Proof.Machine.execEvheadWrite s
  | .barstateWrite => Sys2Proof.Machine.execBarstateWrite s
  | .semstateWrite => Sys2Proof.Machine.execSemstateWrite s
  | .lfsrWrite => Sys2Proof.Machine.execLfsrWrite s
  | .moncfgWrite => Sys2Proof.Machine.execMoncfgWrite s
  | .monedgeWrite => Sys2Proof.Machine.execMonedgeWrite s
  | .monitorSample => Sys2Proof.Machine.execMonitorSample s
  | .monitorLevelTick => Sys2Proof.Machine.execMonitorLevelTick s
  | .brctlPause => Sys2Proof.Machine.execBrctlPause s
  | .brctlResume => Sys2Proof.Machine.execBrctlResume s
  | .brctlRetrain => Sys2Proof.Machine.execBrctlRetrain s
  | .brrepairWrite => Sys2Proof.Machine.execBrrepairWrite s
  | .bridgePauseDone => Sys2Proof.Machine.execBridgePauseDone s
  | .bridgeTrainingDone => Sys2Proof.Machine.execBridgeTrainingDone s
  | .bridgeFlitRetry => Sys2Proof.Machine.execBridgeFlitRetry s
  | .plrdataWrite => Sys2Proof.Machine.execPlrdataWrite s
  | .peerFlitReceive => Sys2Proof.Machine.execPeerFlitReceive s
  | .peerNak => Sys2Proof.Machine.execPeerNak s
  | .peerRetrainTimeout => Sys2Proof.Machine.execPeerRetrainTimeout s
  | .peerRequestTimeout => Sys2Proof.Machine.execPeerRequestTimeout s
  | .openSession => Sys2Proof.Machine.execOpenSession s
  | .closeSession => Sys2Proof.Machine.execCloseSession s
  | .sessionTimeout => Sys2Proof.Machine.execSessionTimeout s
  | .subscribe => Sys2Proof.Machine.execSubscribe s
  | .loadimg => Sys2Proof.Machine.execLoadimg s
  | .writemem => Sys2Proof.Machine.execWritemem s
  | .readmem => Sys2Proof.Machine.execReadmem s
  | .bindtable => Sys2Proof.Machine.execBindtable s
  | .launch => Sys2Proof.Machine.execLaunch s
  | .clock => Sys2Proof.Machine.execClock s
  | .kill => Sys2Proof.Machine.execKill s
  | .readscore => Sys2Proof.Machine.execReadscore s
  | .readmon => Sys2Proof.Machine.execReadmon s
  | .readhealth => Sys2Proof.Machine.execReadhealth s
  | .ecpAdjourn => Sys2Proof.Machine.execEcpAdjourn s
  | .resume => Sys2Proof.Machine.execResume s
  | .attest => Sys2Proof.Machine.execAttest s
  | .otherFrame => Sys2Proof.Machine.execOtherFrame s
  | .neighbourDiscovery => Sys2Proof.Machine.execNeighbourDiscovery s
  | .echo => Sys2Proof.Machine.execEcho s
  | .mkaFrame => Sys2Proof.Machine.execMkaFrame s
  | .ptpEventMessage => Sys2Proof.Machine.execPtpEventMessage s
  | .ptpHoldover => Sys2Proof.Machine.execPtpHoldover s
  | .pwrFail => Sys2Proof.Machine.execPwrFail s
  | .railLow => Sys2Proof.Machine.execRailLow s
  | .adjournmentSaved => Sys2Proof.Machine.execAdjournmentSaved s
  | .powerRestored => Sys2Proof.Machine.execPowerRestored s
  | .holdExpiry => Sys2Proof.Machine.execHoldExpiry s
  | .powerUp => Sys2Proof.Machine.execPowerUp s
  | .holdupStoreFull => Sys2Proof.Machine.execHoldupStoreFull s
  | .thermalTrip => Sys2Proof.Machine.execThermalTrip s
  | .warmReset => Sys2Proof.Machine.execWarmReset s
  | .storePerformed => Sys2Proof.Machine.execStorePerformed s
  | .peerTrainingDone => Sys2Proof.Machine.execPeerTrainingDone s

end Sys2Proof.Machine
end

