-- ==== Sys2Proof/Machine/Due.lean ====
section
/-! DEFINITION. Which device step is due. The spec orders few of them; the order here is the model's (a log entry names it):
some come at once, the others take turns with the contexts and among themselves. -/

namespace Sys2Proof.Machine

/-- The device step, if a condition holds. -/
def dueIf (c : Bool) (i : Instr) : Option Instr := if c then some i else none

/-- The effect of the oldest CSR write whose effect is a device step of its own. -/
def dueCsr (s : State) : Option Instr :=
  match s.csrq with
  | [] => none
  | (_, 0x819, v) :: _ => (match (v.extractLsb' 0 2).toNat with
    | 1 => some .clkcmdWrite
    | 2 => some .clkcmdRead
    | 3 => some .clkcmdClearEn
    | _ => none)
  | (_, 0x904, v) :: _ => (match (v.extractLsb' 0 3).toNat with
    | 1 => some .brctlPause
    | 2 => some .brctlResume
    | 3 => some .brctlRetrain
    | _ => none)
  | (_, 0x841, _) :: _ => some .evheadWrite
  | (_, 0x851, _) :: _ => some .barstateWrite
  | (_, 0x853, _) :: _ => some .semstateWrite
  | (_, 0x017, _) :: _ => some .lfsrWrite
  | (_, 0xA01, _) :: _ => some .moncfgWrite
  | (_, 0xA02, _) :: _ => some .monedgeWrite
  | (_, 0x903, _) :: _ => some .brrepairWrite
  | (_, 0x923, _) :: _ => some .plrdataWrite
  | _ => none

/-- The device steps that come before any context issues: those that answer a wait, a rollback, a reset. -/
def dueFirst (s : State) : Option Instr :=
  dueIf (resetDue s) .warmReset
  <|> dueCsr s
  <|> dueIf (toRoll s).isSome .rollback
  <|> dueIf (toMatch s).isSome .secondCompare
  <|> dueIf (toRelease s).isSome .barrierRelease
  <|> dueIf (toGrant s).isSome .semaphoreGrant
  <|> dueIf (mxJoiner s).isSome .matrixCommandStart
  <|> dueIf (lateSemwt s).isSome .semwtTimeout
  <|> dueIf (lateDrain s).isSome .drainTimeout
  <|> dueIf (lateTimer s).isSome .timerdDeadline
  <|> dueIf (decide (s.phase = .adjourning) && adjournReady s) .adjournmentSaved

/-- The device steps of memory, the links and the ECP. -/
def dueLinks (s : State) : Option Instr :=
  dueIf (loadReady s).isSome .loadDataReturn
  <|> dueIf (splitWalks s.walks).isSome .pageWalkComplete
  <|> dueIf (strongToSend s).isSome .remoteStrongAccess
  <|> dueIf (pauseDone s).isSome .bridgePauseDone
  <|> dueIf (trainDone s).isSome .bridgeTrainingDone
  <|> dueIf (lateRetrain s).isSome .peerRetrainTimeout
  <|> dueIf (deadReq s).isSome .peerRequestTimeout
  <|> dueIf (staleSession s).isSome .sessionTimeout
  <|> dueIf (toUnbind s).isSome .bindtable
  <|> dueIf (toFinishKill s).isSome .kill
  <|> dueIf (storeHeld s).isSome .storePerformed

/-- The device steps of messages and streams. -/
def dueStreams (s : State) : Option Instr :=
  dueIf (mfind (fun _ c => (splitReq c c.msgs).isSome) s.cores).isSome .messageRequest
  <|> dueIf (mfind (fun _ c => (acceptable c).isSome) s.cores).isSome .messageAccept
  <|> dueIf (findPort s (fun _ => 0) (fun c n => (arriving_ (c.port n)).isSome)).isSome .messagePayloadComplete
  <|> dueIf (mfind (fun _ c => (mergeStepOf c).isSome) s.cores).isSome .mergeStep
  <|> dueIf (mfind (fun _ c => strReady c) s.cores).isSome .streamCommandEffect
  <|> (findPort s (fun c => c.drainAt) fun c n => drainReady c n || remoteReady c n).map
      (fun x => if drainReady (s.core x.1) x.2 then .streamDrainItem else .remoteMessageSend)
  <|> dueIf (nextBlock s).isSome .decompressBlock
  <|> dueIf (findPort s (fun c => c.fillAt) fillReady).isSome .streamFillItem

/-- The device steps of the matrix unit and the Gambit. -/
def dueMatrix (s : State) : Option Instr :=
  dueIf (heldFault s).isSome .faultRecordEnqueue
  <|> dueIf (toPerform s).isSome .matrixCommandPerformed
  <|> dueIf (mxGo s).isSome .matrixCommandStart
  <|> dueIf (gamGo s).isSome .gambitPerform

/-- The device steps of the gather engine. -/
def dueGather (s : State) : Option Instr :=
  dueIf (gathDone s).isSome .gatherPerformed
  <|> dueIf (deadShip s).isSome .peerUnreachable
  <|> dueIf (peerWants s 1).isSome .gatherPeerRequest
  <|> dueIf ((peerWants s 2).isSome || (scatGo s).isSome) .scatterUpdate
  <|> dueIf ((peerWants s 3).isSome || (syncGo s).isSome) .gsyncClose
  <|> dueIf (decide (s.gathRet ≠ []) || (gathGo s).isSome) .gatherRowReturn
  <|> dueIf (nextAccept s).isSome .gatherAccept
  <|> dueIf ((s.ghosts.find? fun g => !pinned s g.d).isSome || (oldFree s).isSome) .generationDrop

/-- The device steps of the Nest Walker and of the jobs. -/
def dueJobs (s : State) : Option Instr :=
  dueIf (mfind (fun ag _ => overdue s ag) s.ctxs).isSome .safePointOverdue
  <|> dueIf (toStart s).isSome .handlerStart
  <|> dueIf (mfind (fun k _ => copying s k) s.cores).isSome .imageTextCopy
  <|> dueIf (mfind (fun k _ => startable s k) s.cores).isSome .jobStart
  <|> dueIf (mfind (fun k _ => jobOver s k) s.cores).isSome .jobComplete
  <|> dueIf (toSave s).isSome .jobSave
  <|> dueIf (toReport s).isSome .clusterReport
  <|> dueIf (instDone s).isSome .instanceComplete
  <|> dueIf ((List.range 2).any fun d => decide ((s.die d).deals ≠ [])) .tileDeposit
  <|> dueIf ((List.range 2).any fun d => (dealTo s d).isSome) .walkerDeal
  <|> dueIf ((starvingEnt s).isSome || (starvingItem s).isSome) .starving
  <|> dueIf (toPop s).isSome .corePop
  <|> dueIf (toSteal s).isSome .steal

/-- The device steps of the Clock, the event ring and the monitors. -/
def dueTimed (s : State) : Option Instr :=
  dueIf (ringReady s).isSome .eventRingWrite
  <|> dueIf (toFire s).isSome .clockFire
  <|> dueIf (mfind (fun _ c => c.deque.any fun e => mayRelease s e) s.cores).isSome .heldTileRelease
  <|> dueIf (mfind (fun _ d => decide (d.samples ≠ [])) s.dies).isSome .monitorSample
  <|> dueIf (levelDue s).isSome .monitorLevelTick
  <|> dueIf (ptpSilent s) .ptpHoldover

/-- The device steps of one of the six groups. -/
def dueOf (s : State) : Nat → Option Instr
  | 0 => dueStreams s
  | 1 => dueMatrix s
  | 2 => dueGather s
  | 3 => dueJobs s
  | 4 => dueTimed s
  | _ => dueLinks s

/-- The device steps that take turns; the group that is asked first changes from one turn to the next. -/
def dueLater (s : State) : Option Instr := (List.range 6).findSome? fun k => dueOf s ((s.cycle / 2 + k) % 6)

/-- The device step that happens now; none when a context may go on. A module without compute power waits for the power. -/
def due (s : State) : Option Instr :=
  if s.phase = .off then none
  else if s.phase = .adjourned ∧ !s.byCmd then dueIf s.back .powerRestored
  else
    match dueFirst s with
    | some i => some i
    | none => if s.cycle % 2 = 0 ∨ (pick s).isNone then dueLater s else none

end Sys2Proof.Machine
end

