-- ==== Sys2Proof/Machine/Shadow.lean ====
section
/-! DEFINITION. What the Second does with an instruction that its engine has issued (R27, R460 to R462): it forms the outbound item
from its shadow state and compares it, executes the instruction again on the shadow state with the values that the engine
received, and at a checkpoint compares the two states. -/

namespace Sys2Proof.Machine

/-- The context with the scalar state of its Second's copy (R460). -/
def Shadow.into (h : Shadow) (c : Ctx) : Ctx :=
  { c with pc := h.pc, regs := h.regs, q := h.q, lc := h.lc, levels := h.levels, lspan := h.lspan, gOn := h.gOn, gRem := h.gRem }

/-- The registers whose values the Second takes from the log that its engine writes, by instruction (R460). -/
def received : Instr → List Nat
  | .ld _ rd _ _ _ _ _ | .ldp _ rd _ _ _ _ | .ldpF _ rd _ _ _ | .lda _ rd _ _ _ _ | .csrr _ rd _ | .poprpl _ rd _ _ | .stw _ rd
  | .sstat _ _ rd => [rd.toNat]
  | .amoAdd _ rd _ _ _ _ _ | .amoAnd _ rd _ _ _ _ _ | .amoOr _ rd _ _ _ _ _ | .amoXor _ rd _ _ _ _ _ | .amoMin _ rd _ _ _ _ _
  | .amoMax _ rd _ _ _ _ _ | .amoMinU _ rd _ _ _ _ _ | .amoMaxU _ rd _ _ _ _ _ | .amoSwap _ rd _ _ _ _ _ | .cas _ rd _ _ _ _ _ => [rd.toNat]
  | .barw _ _ _ rb | .barwa _ _ _ rb => [rb.toNat]
  | .semwt _ ra _ _ => [ra.toNat]
  | .xget _ xd _ | .vext _ xd _ _ _ | .kpop _ xd _ | .kfirst _ xd _ => [xd.toNat]
  | _ => []

/-- The registers whose values an outbound item carries; none for an instruction that sends no item (R27, R461). -/
def carried : Instr → Option (List Nat)
  | .st _ rs rb _ _ _ => some [rb.toNat, rs.toNat]
  | .stl _ rb rs _ _ _ | .amoAdd _ _ rb rs _ _ _ | .amoAnd _ _ rb rs _ _ _ | .amoOr _ _ rb rs _ _ _ | .amoXor _ _ rb rs _ _ _
  | .amoMin _ _ rb rs _ _ _ | .amoMax _ _ rb rs _ _ _ | .amoMinU _ _ rb rs _ _ _ | .amoMaxU _ _ rb rs _ _ _
  | .amoSwap _ _ rb rs _ _ _ => some [rb.toNat, rs.toNat]
  | .cas _ rd rb rs _ _ _ => some [rb.toNat, rs.toNat, rd.toNat]
  | .msend _ rt ro _ _ _ _ => some [rt.toNat, ro.toNat]
  | .bara _ ra _ | .barw _ ra _ _ | .barwa _ ra _ _ | .barinit _ ra _ => some [ra.toNat]
  | .barinitFree _ _ => some []
  | .sems _ ra _ | .semw _ ra _ => some [ra.toNat]
  | .semwt _ ra _ rb => some [ra.toNat, rb.toNat]
  | .sopen _ _ a b _ _ _ _ _ _ | .slev _ _ a b _ _ _ | .sremote _ _ a b _ _ _ _ _ => some [a.toNat, b.toNat]
  | .sind _ _ _ a | .ssrc _ _ a | .sbfmt _ a _ | .ssave _ _ a _ | .srest _ _ a => some [a.toNat]
  | .smerge _ _ _ _ _ _ _ _ _ _ _ _ | .sgo _ _ | .sfork _ _ _ _ | .smark _ _ _ _ _ | .srew _ _ _ | .sclose _ _ | .sflush _ _ => some []
  | .gtbind _ _ a | .gsync _ _ a => some [a.toNat]
  | .gtswap _ _ a b => some [a.toNat, b.toNat]
  | .gath _ a b c _ _ _ d _ _ | .gathp _ a b c _ _ _ d _ _ => some [a.toNat, b.toNat, c.toNat, d.toNat]
  | .scat _ a b c _ d _ | .scata _ a b c _ d _ => some [a.toNat, b.toNat, c.toNat, d.toNat]
  | .steer _ a b _ => some [a.toNat, b.toNat]
  | .mxldb _ _ _ _ _ _ _ _ _ _ | .mxldbs _ _ _ _ _ _ _ _ _ _ _ | .mxrun _ _ _ _ _ _ _ _ _ _ | .mxrung _ _ _ _ _ _ _ _ _ _
  | .mxst _ _ _ _ _ _ _ _ _ _ _ _ | .mxz _ _ _ _ _ _ | .mxops _ _ _ _ _ _ | .mxanc _ _ _ _ | .mxfence _ _ _ | .mxclrp _ _ _ _ _ _ _
  | .mxspill _ _ _ _ _ _ _ | .mxfill _ _ _ _ _ _ _ => some []
  | .gbld _ a => some [a.toNat]
  | .gbth _ a b c d => some [a.toNat, b.toNat, c.toNat, d.toNat]
  | .gbpred _ _ _ _ _ _ a b => some [a.toNat, b.toNat]
  | .gbchk _ _ _ _ a _ => some [a.toNat]
  | _ => none

/-- The outbound item that a context forms of an instruction: the instruction's own fields, and the values of the registers that it
carries; none where it sends none, also predicated off (R461). -/
def formItem (i : Instr) (c : Ctx) : Option (Instr × List DWord) :=
  if 0 < c.gRem ∧ !c.gOn then none else (carried i).map fun l => (i, l.map c.reg)

/-- The values that an engine has received with an instruction: the log of R460. -/
def logOf (i : Instr) (after : Ctx) : List (Nat × DWord) := (received i).map fun n => (n, after.reg n)

/-- The shadow state after the Second has re-executed an instruction, whose outcome on its own state is `o`, with the log of what
the engine received (R460). -/
def reexecuted (h : Shadow) (ag : Nat) (log : List (Nat × DWord)) (o : Out1) : Shadow :=
  match o with
  | .next u => { log.foldl (fun x p => x.recv p.1 p.2) (if u.issued then Shadow.of (u.ctx ag) else h) with log := log }
  | _ => h

/-- Whether a context and its Second's copy agree in their registers, predicates and loop state (R461). -/
def agrees (h : Shadow) (c : Ctx) : Bool :=
  let d := h.into c
  (List.range 32).all (fun n => decide (d.reg n = c.reg n)) && decide (h.q = c.q ∧ h.levels = c.levels)
    && (List.range 4).all fun n => decide (mget 0#32 h.lc n = mget 0#32 c.lc n)

/-- The items of a core that have entered since a count of items: what the Second has found of them (R27, R461). -/
def noteItems (c : Core) (since eng tag : Nat) (bad : Bool) : Core :=
  { c with outb := (c.secq.filter fun n => decide (since ≤ n)).foldl (fun m n => mset m n { eng := eng, tag := tag, bad := bad }) c.outb }

/-- A disagreement that the Second has found in an engine, under the engine's tag (R462). -/
def disagree (s : State) (core eng tag : Nat) : State :=
  s.setCore core { s.core core with upset := (s.core core).upset ++ [(eng, tag)] }

/-- Whether the item that an engine forms of an instruction differs from the one that its Second forms (R461). -/
def differs (i : Instr) (ag : Nat) (s : State) : Bool :=
  decide (formItem i (s.ctx ag) ≠ formItem i ((shadowOf s ag).into (s.ctx ag)))

/-- The item of a stream command that its context waits for enters before the instruction is complete (R229, R232, R461). -/
def pushedStep (i : Instr) (ag : Nat) (s t : State) : State :=
  let core := agCore ag
  let e := (agEng ag).num
  t.setCore core (noteItems (t.core core) (s.core core).nextId e ((tagOf (s.core core) e).getD 0) (differs i ag s))

/-- What the Second does with an instruction that a context of a core has issued: `s` is the state before it, `t` the engine's
outcome, `o` the outcome on the shadow state. A command's item that differs stays unmatched; any other item that differs has not issued, so
that the instruction has had no effect. -/
def secondStep (i : Instr) (ag : Nat) (s t : State) (o : Out1) : State :=
  if (t.ctx ag).run = .trapped then t
  else
    let core := agCore ag
    let e := (agEng ag).num
    let h := shadowOf s ag
    let tag := (tagOf (s.core core) e).getD 0
    let t1 := t.setCore core (noteItems (t.core core) (s.core core).nextId e tag (differs i ag s))
    if differs i ag s && decide ((t.core core).nextId = (s.core core).nextId) then disagree s core e tag
    else
      let h1 := reexecuted h ag (logOf i (t.ctx ag)) o
      let t2 := { t1 with shadow := mset t1.shadow ag h1 }
      if (t.core core).ckpts ≠ (s.core core).ckpts ∧ !agrees h1 (t.ctx ag) then
        disagree t2 core e ((tagOf (t.core core) e).getD 0)
      else t2

/-! ### Fetching ahead (R187) -/

/-- The instructions that transfer control. -/
def transfers : Instr → Bool
  | .b _ _ _ _ | .j _ _ | .jal _ _ _ | .jr _ _ | .stw _ _ | .xb _ _ _ _ | .xj _ _ | .loopsp _ _ | .loopspX _ _ => true
  | _ => false

/-- An entry of a fetch ahead (R187, R481, R482): the newest 16 stay. -/
def fetchEntry (s : State) (ag addr : Nat) : State :=
  let core := if 1536 ≤ ag then 0 else agCore ag
  let l := s.health.fetchAhead ++ [(addr % 16384, (agEng ag).num, core)]
  let s1 := { s with health := { s.health with fetchAhead := l.drop (l.length - 16) } }
  healthEvent s1 10 core (addr % 16384) (jobId s ag) (min l.length 16)

/-- The word after a taken transfer has been fetched ahead and does not issue (R187). -/
def fetchAhead (i : Instr) (ag : Nat) (s t : State) : State :=
  let pc := (s.ctx ag).pc
  if transfers i && decide ((t.ctx ag).pc ≠ pc + words i ∧ (t.ctx ag).run ≠ .trapped)
      && (decide (16383 < pc + words i) || wordBad s ag (pc + words i)) then fetchEntry t ag (pc + words i)
  else t

/-- A corrected error is counted, and every multiple of 1,024 reported (R481, R482). -/
def countFixed (s : State) (core : Nat) (job : DWord) : State :=
  let n := satInc s.health.corrected
  let s1 := { s with health := { s.health with corrected := n } }
  if n % 1024 = 0 ∧ s.health.corrected ≠ n then healthEvent s1 1 core 0 job n else s1

/-- A word with a single-bit error is corrected as it is fetched, and counted (R187, R481). -/
def correctWord (s : State) (ag addr : Nat) : State :=
  let k := (agEng ag).num * 16384 + addr
  let fix (s : State) : State := countFixed s (if 1536 ≤ ag then 0xFFFF else agCore ag) (jobId s ag)
  match agEng ag with
  | .dir =>
    let d := s.die (agDie ag)
    if d.icorr.contains addr then fix (s.setDie (agDie ag) { d with icorr := d.icorr.filter fun a => decide (a ≠ addr) }) else s
  | _ =>
    let c := s.core (agCore ag)
    if c.icorr.contains k then fix (s.setCore (agCore ag) { c with icorr := c.icorr.filter fun a => decide (a ≠ k) }) else s

end Sys2Proof.Machine
end

