-- ==== Sys2Proof/Machine/Turn.lean ====
section
/-! DEFINITION. The turn of one agent, one whole turn of the device, and where an instruction stands that is to be fetched
next. -/

namespace Sys2Proof.Machine

/-- An error strikes storage (R187, R465, R481). -/
def strike (s : State) : Err → State
  | .hbm u => taintMem s true ((List.range 64).map fun i => u * 64 + i)
  | .pad k l => s.setCore (k % 384) (taintPad (s.core (k % 384)) true (l % 32768 * 64) 64)
  | .tile k l => s.setCore (k % 384) { s.core (k % 384) with tpois := spoil (s.core (k % 384)).tpois (l % 1024 * 64) 64 }
  | .acc k r col =>
    let c := s.core (k % 384)
    s.setCore (k % 384) (c.setMx (c.mx.setRow (r % 32) { c.mx.rowOf (r % 32) with ue := (c.mx.rowOf (r % 32)).ue ++ [col % 512] }))
  | .cell k j key =>
    let c := s.core (k % 384)
    s.setCore (k % 384) (c.setMx (c.mx.setBlk (j % 8) { c.mx.blkOf (j % 8) with ue := (c.mx.blkOf (j % 8)).ue ++ [key] }))
  | .imem ag a =>
    (match agEng ag with
     | .dir => s.setDie (agDie ag) { s.die (agDie ag) with ibad := (s.die (agDie ag)).ibad ++ [a] }
     | e => s.setCore (agCore ag) { s.core (agCore ag) with ibad := (s.core (agCore ag)).ibad ++ [e.num * 16384 + a] })
  | .word ag a =>
    (match agEng ag with
     | .dir => s.setDie (agDie ag) { s.die (agDie ag) with icorr := (s.die (agDie ag)).icorr ++ [a] }
     | e => s.setCore (agCore ag) { s.core (agCore ag) with icorr := (s.core (agCore ag)).icorr ++ [e.num * 16384 + a] })
  | .fixed => countFixed s 0xFFFF 0#64

/-- What follows an instruction that an agent has been asked to issue: if it has issued, the Second of a core's context forms its
item and executes it again (R460, R461), and the word after a taken transfer has been fetched ahead (R187). `o` is the outcome of
the instruction on `s`. -/
def seconded (i : Instr) (ag : Nat) (s : State) (o : Out1) : Out1 :=
  match o with
  | .next t =>
    if !t.issued then
      (if ag < 1536 ∧ (t.core (agCore ag)).nextId ≠ (s.core (agCore ag)).nextId then .next (pushedStep i ag s t) else .next t)
    else if 1536 ≤ ag then .next (fetchAhead i ag s t)
    else .next (fetchAhead i ag s (secondStep i ag s t (exec i (s.setCtx ag ((shadowOf s ag).into (s.ctx ag))))))
  | o => o

/-- The turn of an agent: the trap of its fetch, or the instruction it fetches. -/
def runAgent (s : State) (ag : Nat) : Out1 :=
  match fetchTrap s ag with
  | some (code, ev) => .next (takeTrap (if code = 4 then foundError s else s) ag false code 0 ev)
  | none =>
    match fetched s ag with
    | some i => seconded i ag s (exec i s)
    | none => .next (takeTrap s ag false 1 0 ((imemWord s ag (s.ctx ag).pc).setWidth 64))

/-- The state in which an agent is asked to issue: its next words corrected (R187). -/
def asks (s : State) (ag : Nat) : State :=
  let pc := (s.ctx ag).pc
  { correctWord (correctWord s ag pc) ag (pc + 1) with cur := ag, issued := false }

/-- Notes whether an agent had to wait. -/
def noted (ag : Nat) (o : Out1) : Out1 :=
  match o with
  | .next t => .next (if (t.ctx ag).stalled = !t.issued then t else t.setCtx ag { t.ctx ag with stalled := !t.issued })
  | o => o

/-- An agent is asked to issue. -/
def attempt (s : State) (ag : Nat) : Out1 := noted ag (runAgent (asks s ag) ag)

/-- The agents of a core that are asked before one of it, in the order handler, LA, EX, SA: the handler before LA always (R138,
R179), any other if it has had to wait (R23, R24, R29, R241, R250). -/
def before (s : State) (ag : Nat) : List Nat :=
  let k := ag / 4 * 4
  let first (x : Nat) : Bool := mayIssue s x (s.ctx x) && ((s.ctx x).stalled || decide (ag = k ∧ x = k + 3))
  if 1536 ≤ ag ∨ ag = k + 3 then []
  else ([k + 3, k, k + 1, k + 2].takeWhile fun x => decide (x ≠ ag)).filter first

/-- Asks some agents of a core, then the one whose turn it is; the first that issues ends the turn. The turn of another engine is
then still to come, but for LA's, which the handler takes. -/
def serve (s : State) (ag : Nat) : List Nat → Out1
  | [] => attempt s ag
  | x :: t =>
    match attempt s x with
    | .next u => if u.issued then .next { u with cur := if ag % 4 = 0 then ag else ag - 1 } else serve u ag t
    | o => o

/-- A turn once the cycle has passed: what the outside world has delivered, after the errors that have struck by then, or the device
step that is due, or the next context; nothing if none of them is there. -/
def turn (s : State) : Out1 :=
  match s.inputs with
  | (i, a) :: t => exec i { a.errs.foldl strike s with arg := { a with errs := [] }, inputs := t }
  | [] =>
    match due s with
    | some i => exec i { s with arg := {} }
    | none =>
      match pick s with
      | some ag => serve s ag (before s ag)
      | none => .next s

/-- Where the instruction of the opcode table whose bits are w is stored and who fetches it: a system
instruction in the Director of die 0, HRET in the handler of core 0, another instruction of the A-ISA in LA of core 0, one of
the X-ISA in EX of core 0. -/
def fetchAgent (nbits w : Nat) : Nat :=
  let n := w % 2 ^ nbits
  let w1 : Word := BitVec.ofNat 32 n
  let w2 : Word := BitVec.ofNat 32 (n / 2 ^ 32)
  match decode .a w1 w2 with
  | some (.hret _) => 3
  | some _ => if 0x38 ≤ (w1.extractLsb' 22 6).toNat then 1536 else 0
  | none => 1

/-- The job that core 0 is given. -/
def placedJob : Job :=
  { nix := 0, tile := 0, ctx := 0, gen := 0#16, run := 0, b := 0, starved := false, gang := false, since := 0 }

/-- The handler run that core 0 is given. -/
def placedRun : HStart :=
  { port := 0, first := 0, hpc := 0, src := 0, qn := 0, off := 0, len := 0, ctx := 0, gen := 0#16 }

/-- The words of an instruction in the instruction memory of an agent at its pc, and the agent made to issue next: on a core it
runs and the core holds a job of context 0 if it has none. -/
def placeWords (s : State) (ag : Nat) (w1 w2 : Word) : State :=
  let pc := (s.ctx ag).pc
  if 1536 ≤ ag then
    let d := s.die (agDie ag)
    ({ s with cur := ag - 1 }).setDie (agDie ag) { d with imem := mset (mset d.imem pc w1) (pc + 1) w2 }
  else
    let k := (agEng ag).num * 16384 + pc
    let c := s.core 0
    let s1 := ({ s with cur := 1537 }).setCore 0
      { c with imem := mset (mset c.imem k w1) (k + 1) w2,
               job := some (c.job.getD placedJob),
               hrun := if ag = 3 then some (c.hrun.getD placedRun) else c.hrun }
    s1.setCtx ag { s1.ctx ag with run := .run }

end Sys2Proof.Machine
end

