-- ==== Sys2Proof/Machine/Step.lean ====
section
/-! DEFINITION. One step of the machine, and the placing of an instruction where the next step fetches it. -/

namespace Sys2Proof.Machine

/-- One step: a cycle passes; then what the outside world has delivered happens, or a device step that is due, or the next
running context takes its fetch trap or issues the instruction it fetches; when nothing can run, only the cycle passes. -/
def step (s : State) : Host.Outcome State Fault Refusal := turn (tick s)

/-- The state with an instruction of the opcode table, bits above nbits zero, stored where the next step fetches it. -/
def State.withFetchWord (s : State) (nbits w : Nat) : State :=
  placeWords s (fetchAgent nbits w) (BitVec.ofNat 32 (w % 2 ^ nbits)) (BitVec.ofNat 32 (w % 2 ^ nbits / 2 ^ 32))

end Sys2Proof.Machine
end

