-- ==== Sys2Proof/Safety.lean ====
section
/-! DEFINITION. The terms in which the statements are written: the form of an instruction, when a context may issue it and when
nothing holds it back, what issuing changes beside an instruction's own effect, and the invariants. -/

namespace Sys2Proof

open Machine

/-- A RING nibble of zero. -/
def noRing : Ring := { wp := false, wn := false, sp := false, sn := false }

/-- The RING nibble of an instruction and the contexts in which it is valid (R104, R106, R137); none for a step of the device, which
no context issues. -/
def Instr.form : Instr → Option (Ring × Cls)
  | .add r .. | .sub r .. | .mul r .. | .mulh r .. | .mulhu r .. | .div r .. | .divu r .. | .rem r .. | .remu r ..
  | .min r .. | .minu r .. | .max r .. | .maxu r .. | .shl r .. | .shr r .. | .sar r .. | .and r .. | .or r ..
  | .xor r .. | .clz r .. | .popc r .. | .addi r .. | .andi r .. | .ori r .. | .xori r .. | .shli r .. | .shri r ..
  | .sari r .. | .li r .. | .lui r .. | .cmp r .. | .cmpi r .. | .pand r .. | .por r .. | .pxor r .. | .pnot r ..
  | .sel r .. | .csrr r .. | .csrw r .. | .b r .. | .j r .. | .jal r .. | .jr r .. | .guard r .. | .loop r ..
  | .trap r .. | .ld r .. | .st r .. | .lda r .. | .stl r .. | .amoAdd r .. | .amoAnd r .. | .amoOr r .. | .amoXor r ..
  | .amoMin r .. | .amoMax r .. | .amoMinU r .. | .amoMaxU r .. | .amoSwap r .. | .cas r .. | .fence r .. | .phase r .. => some (r, .any)
  | .ldp r .. | .ldpF r .. | .stp r .. | .stpE r .. | .poprpl r .. | .sqpush r .. | .sqbind r .. | .msend r ..
  | .sopen r .. | .slev r .. | .sind r .. | .ssrc r .. | .sremote r .. | .smerge r .. | .sbfmt r .. | .sgo r ..
  | .sfork r .. | .smark r .. | .srew r .. | .ssave r .. | .srest r .. | .sclose r .. | .sstat r .. | .sflush r ..
  | .gtbind r .. | .gtswap r .. | .gsync r .. | .gath r .. | .gathp r .. | .scat r .. | .scata r .. => some (r, .noDir)
  | .loopsp r .. | .safe r | .rdv r | .tkw r .. | .tks r .. | .stw r .. | .spawn r .. => some (r, .ring)
  | .hret r => some (r, .hdl)
  | .bara r .. | .barw r .. | .barwa r .. | .barinit r .. | .barinitFree r .. | .sems r .. | .semw r .. | .semwt r .. => some (r, .sync)
  | .asidset .. | .ptbase .. | .tlbinv .. | .killctx .. | .preempt .. | .ctxsave .. | .ctxload .. | .drain ..
  | .semmap .. | .lqpush .. | .wake .. | .timerd .. | .score .. | .monsnap .. | .adjourn .. => some (noRing, .dir)
  | .vadd r .. | .vsub r .. | .vmul r .. | .vmin r .. | .vmax r .. | .vabd r .. | .vadds r .. | .vsubs r .. | .vmulh r ..
  | .vdiv r .. | .vand r .. | .vor r .. | .vxor r .. | .vshl r .. | .vshr r .. | .vsar r .. | .vfma r .. | .vfms r ..
  | .vabs r .. | .vneg r .. | .vnot r .. | .vsqrt r .. | .vrcp r .. | .vrsq r .. | .vexp2 r .. | .vlog2 r ..
  | .vtanh r .. | .vsigm r .. | .vmov r .. | .vcmp r .. | .kand r .. | .kor r .. | .kxor r .. | .knot r .. | .kpop r ..
  | .kfirst r .. | .vsel r .. | .vmovm r .. | .vcvt r .. | .vquant r .. | .vdeq r .. | .vrsumr r .. | .vrsumc r ..
  | .vrmax r .. | .vrmin r .. | .vscanSum r .. | .vscanMax r .. | .vscanMin r .. | .vsegsum r .. | .vtrn r ..
  | .vbcr r .. | .vbcc r .. | .vrot r .. | .vslide r .. | .viota r .. | .vsplat r .. | .vext r .. | .vins r ..
  | .vshape r .. | .xadd r .. | .xsub r .. | .xmul r .. | .xmulh r .. | .xmulhu r .. | .xdiv r .. | .xdivu r ..
  | .xrem r .. | .xremu r .. | .xmin r .. | .xminu r .. | .xmax r .. | .xmaxu r .. | .xshl r .. | .xshr r .. | .xsar r ..
  | .xand r .. | .xorX r .. | .xxor r .. | .xclz r .. | .xpopc r .. | .xaddi r .. | .xmovi r .. | .xcmp r .. | .xb r ..
  | .guardX r .. | .loopX r .. | .loopspX r .. | .steer r .. | .xj r .. | .rdvX r | .safeX r | .xget r .. | .xset r ..
  | .mxldb r .. | .mxldbs r .. | .mxrun r .. | .mxrung r .. | .mxst r .. | .mxz r .. | .mxops r .. | .mxanc r ..
  | .mxfence r .. | .mxclrp r .. | .mxspill r .. | .mxfill r .. | .gbld r .. | .gbth r .. | .gbpred r .. | .gbchk r .. => some (r, .ex)
  | .loadDataReturn | .pageWalkComplete | .remoteStrongAccess | .messageRequest | .messageAccept
  | .messagePayloadComplete | .handlerStart | .mergeStep | .streamCommandEffect | .streamFillItem | .streamDrainItem
  | .decompressBlock | .remoteMessageSend | .gatherAccept | .gatherPeerRequest | .gatherRowReturn | .peerUnreachable
  | .scatterUpdate | .gsyncClose | .gatherPerformed | .generationDrop | .barrierRelease | .semaphoreGrant | .semwtTimeout
  | .drainTimeout | .timerdDeadline | .matrixCommandStart | .matrixCommandPerformed | .faultRecordEnqueue
  | .gambitPerform | .secondCompare | .rollback | .imageTextCopy | .jobStart | .jobComplete | .clusterReport
  | .instanceComplete | .walkerDeal | .tileDeposit | .corePop | .steal | .starving | .jobSave | .safePointOverdue
  | .clockFire | .heldTileRelease | .clkcmdWrite | .clkcmdRead | .clkcmdClearEn | .eventRingWrite | .evheadWrite
  | .barstateWrite | .semstateWrite | .lfsrWrite | .moncfgWrite | .monedgeWrite | .monitorSample | .monitorLevelTick
  | .brctlPause | .brctlResume | .brctlRetrain | .brrepairWrite | .bridgePauseDone | .bridgeTrainingDone
  | .bridgeFlitRetry | .plrdataWrite | .peerFlitReceive | .peerNak | .peerRetrainTimeout | .peerRequestTimeout
  | .openSession | .closeSession | .sessionTimeout | .subscribe | .loadimg | .writemem | .readmem | .bindtable | .launch
  | .clock | .kill | .readscore | .readmon | .readhealth | .ecpAdjourn | .resume | .attest | .otherFrame
  | .neighbourDiscovery | .echo | .mkaFrame | .ptpEventMessage | .ptpHoldover | .pwrFail | .railLow | .adjournmentSaved
  | .powerRestored | .holdExpiry | .powerUp | .holdupStoreFull | .thermalTrip | .warmReset | .storePerformed
  | .peerTrainingDone => none

/-- The instruction sets that have a class of instructions (R104, R120). -/
def Machine.Cls.inIsa (c : Cls) (x : Isa) : Bool :=
  match c, x with
  | .ex, .a => false
  | .ex, .x | .sync, _ => true
  | _, .a => true
  | _, .x => false

/-- Whether an instruction set has an instruction. -/
def Instr.inIsa (i : Instr) (x : Isa) : Bool :=
  match i.form with
  | some (_, c) => c.inIsa x
  | none => false

/-- The encoding checks of an instruction pass in the context that issues (R9, R99, R106, R108, R120, R123, R150, R432). -/
structure Allowed (i : Instr) (r : Ring) (c : Cls) (s : State) : Prop where
  /-- The instruction is one of the engine's. -/
  engine : c.okFor (agEng s.cur) = true
  /-- Its fields are legal together. -/
  wf : i.wf = true
  /-- Its register fields name registers that the engine has. -/
  regs : i.regsOk (agEng s.cur).isa = true
  /-- A handler and a Director have no ring. -/
  ring : agEng s.cur = .hdl ∨ agEng s.cur = .dir → r = noRing
  /-- A guard window does not forbid it. -/
  window : 0 < s.me.gRem → guardBanned i = false
  /-- A CSR number that it names is one it may name, and a LOOP has its END beyond it. -/
  fixed : staticCause (agEng s.cur) (agDie s.cur) s.me.pc i = none

/-- Nothing holds an instruction back before its own effect (R17, R122, R138): the context runs, its last signals have gone out,
the tokens it waits for are there, its guard window is on, and no load is on its way from another device. -/
structure Ready (i : Instr) (r : Ring) (c : Cls) (s : State) : Prop extends Allowed i r c s where
  run : s.me.run = .run
  sigs : s.me.sigs = []
  tokens : ∀ q ∈ ringWaits (agEng s.cur) r, s.myCore.toks q ≠ 0
  guard : s.me.gRem = 0 ∨ s.me.gOn = true
  loads : s.me.wait = .none → ∀ l ∈ s.me.loads, l.val ≠ none

/-- The same but for a guard window that is off (R122). -/
structure GuardedOff (i : Instr) (r : Ring) (c : Cls) (s : State) : Prop extends Allowed i r c s where
  run : s.me.run = .run
  sigs : s.me.sigs = []
  tokens : ∀ q ∈ ringWaits (agEng s.cur) r, s.myCore.toks q ≠ 0
  inside : 0 < s.me.gRem
  off : s.me.gOn = false

/-- A byte with everything that the context has written: its held stores over memory, its own engine commands included, which its
loads need not see yet (R81). -/
def ownByte (s : State) (ag pa : Nat) : Byte := (heldByte pa (s.ctx ag).stores).getD (memByte s pa)

/-- ALL THAT ISSUING CHANGES beside an instruction's own effect, from the state s with that effect to the next state t: the issuing
context's place (pc, loop levels and counters, guard window, its waiting, its stop at a safe point) and its held stores, which a
signal publishes, as it shows the context what its own engine commands have written; on its core the tokens, the recovery records,
EX's automatic marks and the stop of a marked job; the events and samples of the dies. Every register and predicate, CAUSE, EPC and
EVAL, every other context and core, and every byte as the context itself reads it are as in s; memory too, and what is poisoned there,
unless the instruction signals, which poisons nothing. -/
structure IssueFrame (r : Ring) (s t : State) : Prop where
  rest : t = { s with ctxs := t.ctxs, cores := t.cores, dies := t.dies, mem := t.mem, poison := t.poison, issued := t.issued }
  ctxs : ∀ ag, ag ≠ s.cur → t.ctx ag = s.ctx ag
  me : t.me = { s.me with
    run := t.me.run, pc := t.me.pc, lc := t.me.lc, levels := t.me.levels, gRem := t.me.gRem, stores := t.me.stores,
    sigs := t.me.sigs, wait := t.me.wait, ans := t.me.ans, safeAt := t.me.safeAt, stopAt := t.me.stopAt,
    stopAfter := t.me.stopAfter, atKernel := t.me.atKernel, veil := t.me.veil }
  stores : t.me.stores = s.me.stores ∧ t.me.veil = s.me.veil ∨ t.me.stores = [] ∧ t.me.veil = []
  cores : ∀ n, n ≠ agCore s.cur → t.core n = s.core n
  core : t.myCore = { s.myCore with
    tok := t.myCore.tok, rb := t.myCore.rb, ckpts := t.myCore.ckpts, ports := t.myCore.ports, job := t.myCore.job }
  ports : t.myCore.ports.map (fun x => (x.1, { x.2 with marks := [] }))
    = s.myCore.ports.map (fun x => (x.1, { x.2 with marks := [] }))
  job : t.myCore.job.map (fun j => { j with stopped := false, told := false })
    = s.myCore.job.map (fun j => { j with stopped := false, told := false })
  dies : ∀ d, t.die d = { s.die d with waiting := (t.die d).waiting, samples := (t.die d).samples }
  own : ∀ pa, ownByte t s.cur pa = ownByte s s.cur pa
  view : ∀ pa, viewByte t s.cur pa = viewByte s s.cur pa
    ∨ ringSigs (agEng s.cur) r ≠ [] ∧ viewByte t s.cur pa = ownByte s s.cur pa
  mem : (∀ x ∈ t.poison, x ∈ s.poison) ∧ (ringSigs (agEng s.cur) r = [] → t.mem = s.mem ∧ t.poison = s.poison)

/-- The ring effects of an instruction (R17): of each queue that it waits on one token is popped, on each that it signals one is
pushed, and a signal for which there is no room stays with the context. -/
def RingDone (r : Ring) (s t : State) : Prop :=
  s.me.sigs = [] →
    (∀ q, t.myCore.toks q =
      if q ∈ ringWaits (agEng s.cur) r then s.myCore.toks q - 1
      else if q ∈ ringSigs (agEng s.cur) r ∧ s.myCore.toks q < 16 then s.myCore.toks q + 1
      else s.myCore.toks q) ∧
    t.me.sigs = (ringSigs (agEng s.cur) r).filter fun q => decide (16 ≤ s.myCore.toks q)

/-- What issuing does to a state e that has the instruction's own effect: the ring effects, and nothing beyond `IssueFrame`. -/
def Issued (r : Ring) (e t : State) : Prop := IssueFrame r e t ∧ RingDone r e t

/-- The pc goes past the words of the instruction, unless a loop level ends here (R105, R151). -/
def Advances (i : Instr) (s t : State) : Prop :=
  (∀ v ∈ s.me.levels, v.act = true → v.fin ≠ s.me.pc) → t.me.pc = s.me.pc + words i

/-- The instruction issues at s, with e for the state with its own effect: the machine answers a next state, which is e but for what
issuing changes, and the pc goes on. -/
def Completes (i : Instr) (r : Ring) (s e : State) : Prop :=
  ∃ t, exec i s = .next t ∧ Issued r e t ∧ Advances i s t

/-- The instruction transfers control to an address (R152), e being the state with the rest of its effect. -/
def Transfers (i : Instr) (r : Ring) (s e : State) (target : Nat) : Prop :=
  ∃ t, exec i s = .next t ∧ Issued r e t ∧ t.me.pc = target

/-- The instruction traps precisely (R181, R185): it has no effect but the entry of the trap. -/
def Traps (i : Instr) (s : State) (code : Nat) (eval : DWord) (mfc : Nat) : Prop :=
  exec i s = .next (takeTrap s s.cur false code mfc eval)

/-- A stream instruction queues its command (R190): it completes with the command at the end of the stream command queue, as an
item for the Second, and with the held stores performed; with sixteen commands queued it waits. -/
def Queues (i : Instr) (r : Ring) (s : State) (cmd : StrCmd) : Prop :=
  (16 ≤ s.myCore.strq.length → exec i s = .next s) ∧
  (s.myCore.strq.length < 16 → ∃ e, Completes i r s e ∧ e.myCore.strq = s.myCore.strq ++ [(s.myCore.nextId, cmd)] ∧
    e.myCore.secq = s.myCore.secq ++ [s.myCore.nextId] ∧
    e.myCore = { s.myCore with
      strq := e.myCore.strq, secq := e.myCore.secq, nextId := s.myCore.nextId + 1, rb := e.myCore.rb, ckpts := e.myCore.ckpts } ∧
    e.me = { s.me with stores := [], veil := [] } ∧ ∀ a, memByte e a = ownByte s s.cur a)

/-- A gather instruction enters its command (R336): with room among the eight commands of the core, a reply reservation where it
has a reply, and, where it has ranges, an entry of the range checker, it completes with the command entered as an item for the
Second and the held stores performed; else it waits. -/
def Gathers (i : Instr) (r : Ring) (s : State) (replies : Bool) (rd wr : List (Nat × Nat)) (g : GCmd) : Prop :=
  (8 ≤ s.myCore.gcmds.length ∨ (replies = true ∧ 32 ≤ s.myCore.resv.length + s.myCore.rpl.length)
      ∨ ((rd ≠ [] ∨ wr ≠ []) ∧ 64 ≤ s.myCore.rngs.length) → exec i s = .next s) ∧
  (s.myCore.gcmds.length < 8 → (replies = true → s.myCore.resv.length + s.myCore.rpl.length < 32) →
    ((rd = [] ∧ wr = []) ∨ s.myCore.rngs.length < 64) →
    ∃ e, Completes i r s e ∧ e.myCore.gcmds = s.myCore.gcmds ++ [{ g with id := s.myCore.nextId }] ∧
      e.myCore.resv = (if replies then s.myCore.resv ++ [g.tag] else s.myCore.resv) ∧
      e.myCore.secq = s.myCore.secq ++ [s.myCore.nextId] ∧
      e.myCore.rngs = (if rd = [] ∧ wr = [] then s.myCore.rngs
        else s.myCore.rngs ++ [{ id := s.myCore.nextId, rd := rd, wr := wr }]) ∧
      e.me = { s.me with stores := [], veil := [] } ∧ ∀ a, memByte e a = ownByte s s.cur a)

/-- What a flit carries, without what its link adds to it (R421, R422). -/
def flitBody (f : Flit) : Flit := { f with seq := 0, ack := 0, nak := false, crc := 0#32 }

/-- Flits are sent on a peer port after those that wait there, each in turn (R421, R422): those that go out enter the replay buffer
with a right CRC, the others wait. -/
def SendsOn (s e : State) (p : Nat) (l : List Flit) : Prop :=
  ∃ fs : List Flit, (e.peer p).replay = (s.peer p).replay ++ fs ∧ e.out = s.out ++ fs.map (Out.flit p) ∧
    (fs ++ (e.peer p).txq).map flitBody = ((s.peer p).txq ++ l).map flitBody ∧ ∀ f ∈ fs, f.good = true

/-- A matrix command enters the matrix queue (R307, R311, R315): it completes with the command at the end of the queue under the
next SEQ, as an item for the Second, with its pad ranges in the range checker and its reply entry reserved; the registers, the
masks, the tiles and memory stay, and so do the accumulators and the loads under way. -/
def MxEnters (i : Instr) (r : Ring) (s : State) : Prop :=
  ∃ (c : Core) (q : MxCmd), Completes i r s (s.setMyCore c) ∧ c.mx = { s.myCore.mx with
      queue := s.myCore.mx.queue ++ [q], seq := s.myCore.mx.seq + 1 } ∧
    q.i = i ∧ q.seq = s.myCore.mx.seq % 256 ∧ q.id = s.myCore.nextId ∧ q.epc = s.me.pc ∧ q.ctx = (ctxOf s s.cur).1 ∧
    q.waited = false ∧ q.buf = [] ∧ q.row = 0 ∧ c.secq = s.myCore.secq ++ [s.myCore.nextId] ∧
    c.resv = (if mxReplies i then s.myCore.resv ++ [0x4D00 + s.myCore.mx.seq % 256] else s.myCore.resv) ∧
    c.rngs.length = (if mxRanges i = ([], []) then s.myCore.rngs.length else s.myCore.rngs.length + 1) ∧
    c = { s.myCore with
      mx := c.mx, secq := c.secq, nextId := s.myCore.nextId + 1, resv := c.resv, rngs := c.rngs, ports := c.ports, rb := c.rb,
      ckpts := c.ckpts }

/-- A system instruction of a Director ends (R439): it completes with a number in RD, its other registers stay, and its held stores are
performed. -/
def Answers (i : Instr) (rd : BitVec 5) (s e : State) (v : Nat) : Prop :=
  Completes i noRing s e ∧ getR e rd.toNat = (if rd = 0#5 then 0#64 else BitVec.ofNat 64 v) ∧
    (∀ n, n ≠ rd.toNat → getR e n = getR s n) ∧ e.me.stores = []

/-- A system instruction that only answers: beside RD and the Director's own stores nothing changes. -/
def OnlyAnswers (i : Instr) (rd : BitVec 5) (s : State) (v : Nat) : Prop :=
  ∃ e, Answers i rd s e v ∧ e = { s with ctxs := e.ctxs, mem := e.mem, poison := e.poison } ∧
    (∀ a, memByte e a = ownByte s s.cur a) ∧ (∀ x ∈ e.poison, x ∈ s.poison) ∧
    ∀ ag, ag ≠ s.cur → e.ctx ag = s.ctx ag

/-- A system instruction that traps with Illegal Instruction, and so has no effect (R184, R439). -/
def Illegal (i : Instr) (s : State) : Prop := Traps i s 1 (word1 i) 0

/-- An ECP request of an open session arrives that is to be executed now (R409 to R412, R414): in sequence, with none before it
under execution, and served in the state that the device is in. -/
structure Asks (s : State) (op : Nat) (r : Req) : Prop where
  powered : s.phase ≠ .off
  isReq : reqOf s s.arg.frame = some r
  isOp : r.op = op
  sess : s.sess.any (fun p => decide (p.1 = r.sess)) = true
  seq : r.seq = ((s.ses r.sess).last + 1) % 2 ^ 32 ∧ r.seq ≠ (s.ses r.sess).last
  free : (s.ses r.sess).busy = false
  served : notServed s op = none

/-- The machine answers a request (R410, R412): the reply goes out, after any events, and the session keeps it as the reply to that
SEQ. -/
def Replies (i : Instr) (s e : State) (r : Req) (status detail sseq : Nat) (body : List Byte) : Prop :=
  exec i s = .next e ∧ (∃ (m : State) (l : List Out), m.record = s.record ∧ m.out = s.out ++ l ∧
      e.out = (sendAll m (replyFrames s r r.sess status detail sseq body)).out) ∧
    (e.ses r.sess).last = r.seq ∧ (e.ses r.sess).busy = false ∧
    (e.ses r.sess).reply = replyFrames s r r.sess status detail sseq body

/-- A request that is refused has no effect but on its session (R414). -/
def Refuses (i : Instr) (s : State) (r : Req) (status detail : Nat) (body : List Byte) : Prop :=
  ∃ e, Replies i s e r status detail 0 body ∧
    e = { sendAll (noteRx s s.arg.frame) (replyFrames s r r.sess status detail 0 body) with sess := e.sess }

/-! ### Results as the rules write them, over the integers -/

namespace Spec

/-- A shift amount: bits [5:0] (R141). -/
def amt (y : DWord) : Nat := y.toNat % 64

/-- The results of the two-operand arithmetic of R141, by name. -/
inductive Fn where
  | add | sub | mul | mulh | mulhu | div | divu | rem | remu | min | minu | max | maxu | shl | shr | sar | and | or | xor
deriving DecidableEq, Repr

/-- The table of R141 with its borderline results: x and y as numbers, the result modulo 2^64. -/
def Fn.result (f : Fn) (x y : DWord) : DWord :=
  match f with
  | .add => BitVec.ofInt 64 (x.toInt + y.toInt)
  | .sub => BitVec.ofInt 64 (x.toInt - y.toInt)
  | .mul => BitVec.ofInt 64 (x.toInt * y.toInt)
  | .mulh => BitVec.ofInt 64 (x.toInt * y.toInt / 2 ^ 64)
  | .mulhu => BitVec.ofNat 64 (x.toNat * y.toNat / 2 ^ 64)
  | .div => if y.toInt = 0 then BitVec.ofInt 64 (-1) else BitVec.ofInt 64 (x.toInt.tdiv y.toInt)
  | .divu => if y.toNat = 0 then BitVec.ofNat 64 (2 ^ 64 - 1) else BitVec.ofNat 64 (x.toNat / y.toNat)
  | .rem => if y.toInt = 0 then x else BitVec.ofInt 64 (x.toInt - x.toInt.tdiv y.toInt * y.toInt)
  | .remu => if y.toNat = 0 then x else BitVec.ofNat 64 (x.toNat - x.toNat / y.toNat * y.toNat)
  | .min => BitVec.ofInt 64 (Min.min x.toInt y.toInt)
  | .minu => BitVec.ofNat 64 (Min.min x.toNat y.toNat)
  | .max => BitVec.ofInt 64 (Max.max x.toInt y.toInt)
  | .maxu => BitVec.ofNat 64 (Max.max x.toNat y.toNat)
  | .shl => BitVec.ofNat 64 (x.toNat * 2 ^ amt y)
  | .shr => BitVec.ofNat 64 (x.toNat / 2 ^ amt y)
  | .sar => BitVec.ofInt 64 (x.toInt / 2 ^ amt y)
  | .and => BitVec.ofNat 64 (x.toNat &&& y.toNat)
  | .or => BitVec.ofNat 64 (x.toNat ||| y.toNat)
  | .xor => BitVec.ofNat 64 (x.toNat ^^^ y.toNat)

/-- The OPR instruction of a function (R112, R141). -/
def Fn.opr (f : Fn) (r : Ring) (d a b : BitVec 5) : Instr :=
  match f with
  | .add => .add r d a b | .sub => .sub r d a b | .mul => .mul r d a b | .mulh => .mulh r d a b | .mulhu => .mulhu r d a b
  | .div => .div r d a b | .divu => .divu r d a b | .rem => .rem r d a b | .remu => .remu r d a b | .min => .min r d a b
  | .minu => .minu r d a b | .max => .max r d a b | .maxu => .maxu r d a b | .shl => .shl r d a b | .shr => .shr r d a b
  | .sar => .sar r d a b | .and => .and r d a b | .or => .or r d a b | .xor => .xor r d a b

/-- The XALU instruction of a function (R284). -/
def Fn.xalu (f : Fn) (r : Ring) (d a b : BitVec 4) : Instr :=
  match f with
  | .add => .xadd r d a b | .sub => .xsub r d a b | .mul => .xmul r d a b | .mulh => .xmulh r d a b
  | .mulhu => .xmulhu r d a b | .div => .xdiv r d a b | .divu => .xdivu r d a b | .rem => .xrem r d a b
  | .remu => .xremu r d a b | .min => .xmin r d a b | .minu => .xminu r d a b | .max => .xmax r d a b
  | .maxu => .xmaxu r d a b | .shl => .xshl r d a b | .shr => .xshr r d a b | .sar => .xsar r d a b
  | .and => .xand r d a b | .or => .xorX r d a b | .xor => .xxor r d a b

/-- The leading zero bits of x, 0 to 64, as a number (R141): x lies below 2^(64 - n) and not below half of that. -/
def IsClz (x : DWord) (n : Nat) : Prop := n ≤ 64 ∧ x.toNat < 2 ^ (64 - n) ∧ (n < 64 → 2 ^ (63 - n) ≤ x.toNat)

/-- The one bits of x, 0 to 64 (R141). -/
def ones (x : DWord) : Nat := ((List.range 64).filter fun i => x.toNat / 2 ^ i % 2 = 1).length

/-- The immediate forms of R142 and R143, the shifts with their six-bit amounts, by name. -/
inductive ImmFn where
  | addi (imm : BitVec 12) | andi (imm : BitVec 12) | ori (imm : BitVec 12) | xori (imm : BitVec 12)
  | shli (n : BitVec 6) | shri (n : BitVec 6) | sari (n : BitVec 6)
deriving DecidableEq, Repr

/-- The results of R142. -/
def ImmFn.result (f : ImmFn) (x : DWord) : DWord :=
  match f with
  | .addi i => BitVec.ofInt 64 (x.toInt + i.toInt)
  | .andi i => x &&& BitVec.ofInt 64 i.toInt
  | .ori i => x ||| BitVec.ofInt 64 i.toInt
  | .xori i => x ^^^ BitVec.ofInt 64 i.toInt
  | .shli n => BitVec.ofNat 64 (x.toNat * 2 ^ n.toNat)
  | .shri n => BitVec.ofNat 64 (x.toNat / 2 ^ n.toNat)
  | .sari n => BitVec.ofInt 64 (x.toInt / 2 ^ n.toNat)

/-- The instruction of an immediate form (R142). -/
def ImmFn.instr (f : ImmFn) (r : Ring) (d a : BitVec 5) : Instr :=
  match f with
  | .addi i => .addi r d a i | .andi i => .andi r d a i | .ori i => .ori r d a i | .xori i => .xori r d a i
  | .shli n => .shli r d a n | .shri n => .shri r d a n | .sari n => .sari r d a n

/-- The conditions of R113 on two 64-bit values. -/
def cond (c : Cond) (x y : DWord) : Prop :=
  match c with
  | .eq => x = y
  | .ne => x ≠ y
  | .lt => x.toInt < y.toInt
  | .ge => y.toInt ≤ x.toInt
  | .le => x.toInt ≤ y.toInt
  | .gt => y.toInt < x.toInt
  | .ltu => x.toNat < y.toNat
  | .geu => y.toNat ≤ x.toNat
  | .leu => x.toNat ≤ y.toNat
  | .gtu => y.toNat < x.toNat
  | .un | .ord => False

/-- The number that n bytes hold, the byte at i of weight 256^i (R8). -/
def le (f : Nat → Byte) : Nat → Nat
  | 0 => 0
  | n + 1 => le f n + (f n).toNat * 256 ^ n

/-- A register's byte. -/
def byteOf (v : DWord) (k : Nat) : Byte := BitVec.ofNat 8 (v.toNat / 256 ^ k)

/-- What a strong access writes over the old contents at its width (R166, R167, R168), over the integers; none where it writes
nothing. -/
def strongNew (op : StrongOp) {w : Nat} (old a b : BitVec w) : Option (BitVec w) :=
  match op with
  | .load => none
  | .store | .swap => some a
  | .cas => if old = b then some a else none
  | .add => some (BitVec.ofNat w (old.toNat + a.toNat))
  | .and => some (old &&& a)
  | .or => some (old ||| a)
  | .xor => some (old ^^^ a)
  | .min => some (BitVec.ofInt w (Min.min old.toInt a.toInt))
  | .max => some (BitVec.ofInt w (Max.max old.toInt a.toInt))
  | .minu => some (BitVec.ofNat w (Min.min old.toNat a.toNat))
  | .maxu => some (BitVec.ofNat w (Max.max old.toNat a.toNat))

/-- A strong access: its operation, its registers, its order, scope and size, whether it is a release, and the values of its
operand and of what CAS expects. -/
structure Strong where
  op : StrongOp
  ring : Ring
  rd : BitVec 5
  rb : BitVec 5
  sc : Scope
  d8 : Bool
  rel : Bool
  opd : DWord
  want : DWord

/-- The strong accesses (R165 to R168). -/
def strongOf (s : State) : Instr → Option Strong
  | .lda r rd rb _ sc d8 => some ⟨.load, r, rd, rb, sc, d8, false, 0#64, 0#64⟩
  | .stl r rb rs o sc d8 => some ⟨.store, r, 0#5, rb, sc, d8, isRelease o, getR s rs.toNat, 0#64⟩
  | .amoAdd r rd rb rs o sc d8 => some ⟨.add, r, rd, rb, sc, d8, isRelease o, getR s rs.toNat, 0#64⟩
  | .amoAnd r rd rb rs o sc d8 => some ⟨.and, r, rd, rb, sc, d8, isRelease o, getR s rs.toNat, 0#64⟩
  | .amoOr r rd rb rs o sc d8 => some ⟨.or, r, rd, rb, sc, d8, isRelease o, getR s rs.toNat, 0#64⟩
  | .amoXor r rd rb rs o sc d8 => some ⟨.xor, r, rd, rb, sc, d8, isRelease o, getR s rs.toNat, 0#64⟩
  | .amoMin r rd rb rs o sc d8 => some ⟨.min, r, rd, rb, sc, d8, isRelease o, getR s rs.toNat, 0#64⟩
  | .amoMax r rd rb rs o sc d8 => some ⟨.max, r, rd, rb, sc, d8, isRelease o, getR s rs.toNat, 0#64⟩
  | .amoMinU r rd rb rs o sc d8 => some ⟨.minu, r, rd, rb, sc, d8, isRelease o, getR s rs.toNat, 0#64⟩
  | .amoMaxU r rd rb rs o sc d8 => some ⟨.maxu, r, rd, rb, sc, d8, isRelease o, getR s rs.toNat, 0#64⟩
  | .amoSwap r rd rb rs o sc d8 => some ⟨.swap, r, rd, rb, sc, d8, isRelease o, getR s rs.toNat, 0#64⟩
  | .cas r rd rb rs o sc d8 => some ⟨.cas, r, rd, rb, sc, d8, isRelease o, getR s rs.toNat, getR s rd.toNat⟩
  | _ => none

/-- What a vector instruction uses (R261 to R283): the element widths that must fit the shape, whether its type is legal under FMT8,
its sources and destinations (with the format and the number of the elements of each), and the scalar register or the mask that it
writes. -/
structure Vec where
  widths : List Nat
  ins : List VIn
  outs : List VDst
  legal : Bool := true
  xd : Option (BitVec 4) := none
  kd : Option (BitVec 3) := none

/-- The vector instructions (R267, R268, R272 to R283). -/
def vec (s : State) (i : Instr) : Option Vec :=
  let c := s.myCore
  let e (t : ElemT) : Fmt := elemFmt t c.fmt8
  let n := c.rows * c.cols
  let src (f : BitVec 6) (t : ElemT) : VIn := { f := f.toNat, fmt := e t, n := n }
  let dst (f : BitVec 6) (x : Fmt) (k : Nat) : VDst := { f := f.toNat, fmt := x, n := k }
  let p (k : BitVec 3) : Nat := ((List.range n).filter fun j => (mget 0#4096 c.masks k.toNat).getLsbD j).length
  match i with
  | .vadd _ d a b t | .vsub _ d a b t | .vmul _ d a b t | .vmin _ d a b t | .vmax _ d a b t | .vabd _ d a b t | .vadds _ d a b t | .vsubs _ d a b t
  | .vmulh _ d a b t | .vdiv _ d a b t | .vand _ d a b t | .vor _ d a b t | .vxor _ d a b t | .vshl _ d a b t | .vshr _ d a b t | .vsar _ d a b t =>
    some { widths := [(e t).bits], ins := [src a t, src b t], outs := [dst d (e t) n] }
  | .vfma _ d a b t x _ _ | .vfms _ d a b t x _ _ =>
    some { widths := [(e t).bits], ins := [src a t, src b t, src x t], outs := [dst d (e t) n] }
  | .vabs _ d a t | .vnot _ d a t | .vsqrt _ d a t | .vrcp _ d a t | .vrsq _ d a t | .vexp2 _ d a t | .vlog2 _ d a t
  | .vtanh _ d a t | .vsigm _ d a t | .vmov _ d a t | .vscanSum _ d a t | .vscanMax _ d a t | .vscanMin _ d a t | .vtrn _ d a t
  | .vbcr _ d a _ t | .vbcc _ d a _ t | .vrot _ d a _ t | .vslide _ d a _ t =>
    some { widths := [(e t).bits], ins := [src a t], outs := [dst d (e t) n] }
  | .vneg _ d a t =>
    some { widths := [(e t).bits], ins := [src a t], outs := [dst d (e t) n], legal := match e t with
      | .b8 _ sg _ => sg
      | _ => true }
  | .vcmp _ a b t kd _ => some { widths := [(e t).bits], ins := [src a t, src b t], outs := [], kd := some kd }
  | .vsel _ d a b t _ => some { widths := [(e t).bits], ins := [src a t, src b t], outs := [dst d (e t) n] }
  | .vmovm _ d a t k _ => some { widths := [(e t).bits], ins := [src a t], outs := [dst d (e t) (p k)] }
  | .vcvt _ d a t _ u _ => some { widths := [(e t).bits, (e u).bits], ins := [src a u], outs := [dst d (e t) n] }
  | .vquant _ d a t x u _ =>
    some { widths := [(e t).bits, (e u).bits], ins := [src a u],
           outs := [dst d (e t) n, dst x (.int 8 false) ((n + 31) / 32)] }
  | .vdeq _ d a t x _ u _ =>
    some { widths := [(e t).bits, (e u).bits],
           ins := [src a u, { f := x.toNat, fmt := .int 8 false, n := (n + 31) / 32, scale := true }], outs := [dst d (e t) n] }
  | .vrsumr _ d a t =>
    some { widths := [(e t).bits, (sumFmt (e t)).bits], ins := [src a t], outs := [dst d (sumFmt (e t)) c.rows] }
  | .vrsumc _ d a t =>
    some { widths := [(e t).bits, (sumFmt (e t)).bits], ins := [src a t], outs := [dst d (sumFmt (e t)) c.cols] }
  | .vrmax _ d a t | .vrmin _ d a t => some { widths := [(e t).bits], ins := [src a t], outs := [dst d (e t) c.rows] }
  | .vsegsum _ d a t k _ =>
    some { widths := [(e t).bits, (sumFmt (e t)).bits], ins := [src a t],
           outs := [dst d (sumFmt (e t)) (nSegs (mget 0#4096 c.masks k.toNat) n)] }
  | .viota _ d t | .vsplat _ d _ t | .vins _ d _ _ t => some { widths := [(e t).bits], ins := [], outs := [dst d (e t) n] }
  | .vext _ x a _ t => some { widths := [(e t).bits], ins := [src a t], outs := [], xd := some x }
  | _ => none

/-- The number that a code of an integer type stands for. -/
def val {w : Nat} (sg : Bool) (x : BitVec w) : Int := if sg then x.toInt else x.toNat

/-- A number saturated to an integer type (R267). -/
def sat (w : Nat) (sg : Bool) (v : Int) : BitVec w :=
  BitVec.ofInt w (if sg then Max.max (-2 ^ (w - 1)) (Min.min (2 ^ (w - 1) - 1) v) else Max.max 0 (Min.min (2 ^ w - 1) v))

/-- The elementwise instructions on integer types (R264, R267, R268, R272): destination, sources, type, and the code that an element
gets from those of its sources. -/
def vecInt (w : Nat) (sg : Bool) :
    Instr → Option (BitVec 6 × List (BitVec 6) × ElemT × (BitVec w → BitVec w → BitVec w → BitVec w))
  | .vadd _ d a b t => some (d, [a, b], t, fun x y _ => BitVec.ofInt w (val sg x + val sg y))
  | .vsub _ d a b t => some (d, [a, b], t, fun x y _ => BitVec.ofInt w (val sg x - val sg y))
  | .vmul _ d a b t => some (d, [a, b], t, fun x y _ => BitVec.ofInt w (val sg x * val sg y))
  | .vmin _ d a b t => some (d, [a, b], t, fun x y _ => BitVec.ofInt w (Min.min (val sg x) (val sg y)))
  | .vmax _ d a b t => some (d, [a, b], t, fun x y _ => BitVec.ofInt w (Max.max (val sg x) (val sg y)))
  | .vabd _ d a b t => some (d, [a, b], t, fun x y _ => sat w sg ((val sg x - val sg y).natAbs : Int))
  | .vadds _ d a b t => some (d, [a, b], t, fun x y _ => sat w sg (val sg x + val sg y))
  | .vsubs _ d a b t => some (d, [a, b], t, fun x y _ => sat w sg (val sg x - val sg y))
  | .vmulh _ d a b t => some (d, [a, b], t, fun x y _ => BitVec.ofInt w (val sg x * val sg y / 2 ^ w))
  | .vdiv _ d a b t => some (d, [a, b], t, fun x y _ =>
      if y = 0#w then BitVec.allOnes w else BitVec.ofInt w ((val sg x).tdiv (val sg y)))
  | .vand _ d a b t => some (d, [a, b], t, fun x y _ => x &&& y)
  | .vor _ d a b t => some (d, [a, b], t, fun x y _ => x ||| y)
  | .vxor _ d a b t => some (d, [a, b], t, fun x y _ => x ^^^ y)
  | .vshl _ d a b t => some (d, [a, b], t, fun x y _ => BitVec.ofNat w (x.toNat * 2 ^ (y.toNat % w)))
  | .vshr _ d a b t => some (d, [a, b], t, fun x y _ => BitVec.ofNat w (x.toNat / 2 ^ (y.toNat % w)))
  | .vsar _ d a b t => some (d, [a, b], t, fun x y _ => BitVec.ofInt w (x.toInt / 2 ^ (y.toNat % w)))
  | .vfma _ d a b t c none _ => some (d, [a, b, c], t, fun x y z => BitVec.ofInt w (val sg x * val sg y + val sg z))
  | .vfms _ d a b t c none _ => some (d, [a, b, c], t, fun x y z => BitVec.ofInt w (val sg x * val sg y - val sg z))
  | .vabs _ d a t => some (d, [a], t, fun x _ _ => sat w sg ((val sg x).natAbs : Int))
  | .vneg _ d a t => some (d, [a], t, fun x _ _ => sat w sg (-val sg x))
  | .vnot _ d a t => some (d, [a], t, fun x _ _ => ~~~x)
  | .vmov _ d a t => some (d, [a], t, fun x _ _ => x)
  | _ => none

/-- The matrix instructions that EX pushes as they issue: all but MXFENCE (R315, R324). -/
def isMx : Instr → Bool
  | .mxldb _ _ _ _ _ _ _ _ _ _ | .mxldbs _ _ _ _ _ _ _ _ _ _ _ | .mxrun _ _ _ _ _ _ _ _ _ _
  | .mxrung _ _ _ _ _ _ _ _ _ _ | .mxst _ _ _ _ _ _ _ _ _ _ _ _ | .mxz _ _ _ _ _ _ | .mxops _ _ _ _ _ _ | .mxanc _ _ _ _
  | .mxclrp _ _ _ _ _ _ _ | .mxspill _ _ _ _ _ _ _ | .mxfill _ _ _ _ _ _ _ => true
  | _ => false

end Spec

end Sys2Proof
end

