-- ==== Sys2Proof/Certificates/Slice0/Obligations.lean ====
section
/-! DEFINITION. The statements for the provers: what the rules of the spec say that the machine does. -/

open Sys2Proof Sys2Proof.Machine

/-- For each of the two instruction sets, every well-formed instruction that the set has, at every value of its fields, and any
bytes that follow: the decoder reads the instruction's bytes, which are its words with the least significant byte first, as
that very instruction and leaves the bytes that follow. So no bit of an encoding is dropped, no two instructions of a set
share their words, and the decoder takes two words exactly where the instruction has two. (R104, R105, R108, R111, R118,
R120, R8.) -/
def Obligations.EncodedInstructionsDecode : Prop :=
  ∀ (x : Isa) (i : Instr) (rest : List Byte), i.inIsa x = true → i.wf = true → i.regsOk x = true →
    decodeBytes x ((encode i).flatMap wordBytes ++ rest) = some (i, rest)

/-- Whatever two words are given, what the decoder of an instruction set accepts is an instruction of that set whose fields are
legal together and whose registers the set has, and it has as many words as word 1 says. (R104, R108, R111, R118, R120.) -/
def Obligations.DecodedInstructionsAreLegal : Prop :=
  ∀ (x : Isa) (w v : Word) (i : Instr), decode x w v = some i →
    i.inIsa x = true ∧ i.wf = true ∧ i.regsOk x = true ∧ (encode i).length = (if isTwo x w then 2 else 1)

/-- A word whose major is assigned to no group of its instruction set, in the A-ISA 0x22, 0x23 and 0x3C to 0x3F and in the X-ISA
0x27, 0x3E and 0x3F, is refused, whatever its other bits and the next word. (R108, R111, R118.) -/
def Obligations.UnassignedMajorsAreRefused : Prop :=
  (∀ w v : Word, w.extractLsb' 22 6 ∈ [0x22#6, 0x23#6, 0x3C#6, 0x3D#6, 0x3E#6, 0x3F#6] → decode .a w v = none) ∧
  (∀ w v : Word, w.extractLsb' 22 6 ∈ [0x27#6, 0x3E#6, 0x3F#6] → decode .x w v = none)

/-- One or two words of each group, taken from the listings of the manual, decode to the instruction that the listing names:
arithmetic, loads, branches, streams, synchroniser, vector, masks, matrix, gather, Gambit and the Director's system
instructions; a system word whose RING nibble or whose zero field is not zero decodes to nothing. (spec/04_encoding.md,
spec/05_access.md, spec/06_streams.md, spec/07_synchroniser.md, spec/08_execute.md, spec/09_matrix.md, spec/10_gather.md,
spec/11_gambit.md, spec/14_director.md.) -/
def Obligations.WordsOfTheManualDecode : Prop :=
  decode .a 0x0206048D#32 0#32 = some (.li noRing 3#5 0x48D#17) ∧
  decode .a 0x860C3E10#32 0#32 = some (.ld ⟨true, false, false, false⟩ 6#5 3#5 .d true false 0x10#8) ∧
  decode .a 0x02829002#32 0#32 = some (.cmp noRing 5#7 4#5 0#5 .ne) ∧
  decode .a 0x1402BFFD#32 0#32 = some (.b ⟨false, false, false, true⟩ 5#7 false 0x3FFD#14) ∧
  decode .a 0x09466001#32 0x08000002#32 = some (.slev noRing 3#5 6#5 0#5 1#2 true 2#27) ∧
  decode .a 0x5AC60003#32 0#32 = some (.srew ⟨false, true, false, true⟩ 3#5 0#2) ∧
  decode .a 0x0CCA3300#32 0#32 = some (.semwt noRing 5#5 3#4 6#5) ∧
  decode .x 0x84048858#32 0x11800000#32 = some (.vfma ⟨true, false, false, true⟩ 4#6 34#6 5#6 .f32 6#6 none none) ∧
  decode .x 0x04C09804#32 0x00040004#32 = some (.vcmp noRing 38#6 0#6 .i32 1#3 .ne) ∧
  decode .x 0x0A54FFFE#32 0#32 = some (.xaddi noRing 5#4 3#4 0x3FFE#14) ∧
  decode .x 0x0E1934C0#32 0#32 = some (.mxanc noRing none none (.deflt 0x13#6 0x13#6)) ∧
  decode .x 0x0D800930#32 0x0002B802#32 = some (.mxrun noRing none none false 2#11 0x13#6 0#4 87#7 0#5 1#5) ∧
  decode .x 0x0F000000#32 0#32 = some (.gbld noRing 0#4) ∧
  decode .a 0x5B003281#32 0#32 = some (.gtswap ⟨false, true, false, true⟩ 0#5 3#5 5#5) ∧
  decode .a 0x0E441000#32 0#32 = some (.preempt 2#5 1#5) ∧
  decode .a 0x0EC83000#32 0#32 = some (.timerd 4#5 3#5) ∧
  decode .a 0x8E441000#32 0#32 = none ∧
  decode .a 0x0E441080#32 0#32 = none

/-- When a cycle has passed, the step is what the outside world has delivered first; else the step of the device that is due;
else, if it is a context's turn and no agent of its core goes before it, it asks that context. A context that is asked, with
its next words corrected, issues the instruction that its words decode to if no fetch trap and no privileged word is met:
the outcome is that instruction's meaning, to which only the Second's work, a word fetched ahead and the note of its waiting
are added. Where the item that the context forms agrees with its Second's, memory and all contexts are as the meaning leaves
them. (R23, R27, R104, R105, R107, R138, R179, R187, R460, R461.) -/
def Obligations.StepRunsDecodedInstruction : Prop :=
  (∀ (s u : State) (ag : Nat), tick s = u → u.inputs = [] → due u = none → pick u = some ag → before u ag = [] →
    step s = attempt u ag) ∧
  (∀ (s u : State) (i : Instr) (a : Arg) (t : List (Instr × Arg)), tick s = u → u.inputs = (i, a) :: t → a.errs = [] →
    step s = exec i { u with arg := a, inputs := t }) ∧
  (∀ (s u : State) (i : Instr), tick s = u → u.inputs = [] → due u = some i → step s = exec i { u with arg := {} }) ∧
  (∀ (u v : State) (ag : Nat) (i : Instr) (w : Word), asks u ag = v → w = imemWord v ag (v.ctx ag).pc →
    (v.ctx ag).pc ≤ 16383 → decode (agEng ag).isa w (word2At v ag (v.ctx ag).pc) = some i →
    ((v.ctx ag).pc = 16383 → isTwo (agEng ag).isa w = false) →
    wordBad v ag (v.ctx ag).pc = false → (isTwo (agEng ag).isa w = true → wordBad v ag ((v.ctx ag).pc + 1) = false) →
    (agEng ag = .dir ∨ agEng ag = .ex ∨ ((w.extractLsb' 22 6).toNat ∉ [0x38, 0x39, 0x3A, 0x3B, 0x3C, 0x3D] ∧
      ((w.extractLsb' 22 6).toNat ∈ [0x0E, 0x0F] → (w.extractLsb' 0 12).toNat < 0x800))) →
    attempt u ag = noted ag (seconded i ag v (exec i v)) ∧
    (∀ t, exec i v = .next t → differs i ag v = false →
      ∃ e, attempt u ag = .next e ∧ (∀ b, e.ctx b = { t.ctx b with stalled := (e.ctx b).stalled }) ∧
        (∀ n, e.core n = { t.core n with outb := (e.core n).outb, upset := (e.core n).upset }) ∧
        e = { t with ctxs := e.ctxs, cores := e.cores, dies := e.dies, sess := e.sess, out := e.out, macsec := e.macsec,
                     shadow := e.shadow, health := e.health })) ∧
  (∀ (u : State) (ag : Nat),
    (match agEng ag with
      | .dir => (u.die (agDie ag)).icorr = []
      | _ => (u.core (agCore ag)).icorr = []) → asks u ag = { u with cur := ag, issued := false })

/-- A context that is asked to issue: past word 16,383 it traps with Instruction Address and EVAL 16,384; at a word with an
uncorrectable error, or at a two-word instruction whose second word has one, it traps with cause 4 and that word's address
as EVAL, and the error is counted (the model's reading of UNCORR, log 24); in LA, SA and the handler a word of a system
major, and a CSR word that names a number above 0x7FF, trap with Privileged Instruction, and another word that decodes to
nothing with Illegal Instruction, each with the word as EVAL. (R107, R108, R184, R185, R187, R99.) -/
def Obligations.FetchTraps : Prop :=
  ∀ (u v : State) (ag : Nat) (k : Nat) (w : Word), asks u ag = v →
    (16383 < (v.ctx ag).pc → attempt u ag = noted ag (.next (takeTrap v ag false 3 0 16384#64))) ∧
    (agEng ag = .la ∨ agEng ag = .sa ∨ agEng ag = .hdl → (v.ctx ag).pc < 16383 →
      k = (agEng ag).num * 16384 + (v.ctx ag).pc → w = mget 0#32 (v.core (agCore ag)).imem k →
      ((v.core (agCore ag)).ibad.contains k = true →
        attempt u ag = noted ag (.next (takeTrap (foundError v) ag false 4 0 (BitVec.ofNat 64 (v.ctx ag).pc)))) ∧
      ((v.core (agCore ag)).ibad.contains k = false →
        (isTwo .a w = true → (v.core (agCore ag)).ibad.contains (k + 1) = true →
          attempt u ag = noted ag (.next (takeTrap (foundError v) ag false 4 0 (BitVec.ofNat 64 ((v.ctx ag).pc + 1))))) ∧
        (isTwo .a w = false ∨ (v.core (agCore ag)).ibad.contains (k + 1) = false →
          ((w.extractLsb' 22 6).toNat ∈ [0x38, 0x39, 0x3A, 0x3B, 0x3C, 0x3D]
              ∨ ((w.extractLsb' 22 6).toNat ∈ [0x0E, 0x0F] ∧ 0x800 ≤ (w.extractLsb' 0 12).toNat) →
            attempt u ag = noted ag (.next (takeTrap v ag false 2 0 (w.setWidth 64)))) ∧
          ((w.extractLsb' 22 6).toNat ∉ [0x38, 0x39, 0x3A, 0x3B, 0x3C, 0x3D] →
            ((w.extractLsb' 22 6).toNat ∈ [0x0E, 0x0F] → (w.extractLsb' 0 12).toNat < 0x800) →
            decode .a w (mget 0#32 (v.core (agCore ag)).imem (k + 1)) = none →
            attempt u ag = noted ag (.next (takeTrap v ag false 1 0 (w.setWidth 64)))))))

/-- At reset both Directors are to run from address 0 of their firmware and no other context runs; every core is on line, with
empty token queues, empty scale, steer and reply queues, LFSR 1, raw banks, VSHAPE 16 by 32, no open port and no job; every
semaphore counts 0 and every barrier is free; AGEQ is 1,500,000 and DELTA 4; NIX starts at 1; the registers whose reset
value a rule gives have it. The registers of a Director, for which the rules give no value, read 0 (a choice of the model,
assumption log 1). (R16, R47, R55, R107, R123, R183, R240, R252, R256, R294, R383, R429.) -/
def Obligations.ResetValues : Prop :=
  (∀ d, d < 2 → (State.reset.ctx (1536 + d)).run = .run ∧ (State.reset.ctx (1536 + d)).pc = 0) ∧
  (∀ ag, ag ≠ 1536 → ag ≠ 1537 → (State.reset.ctx ag).run = .idle) ∧
  (∀ ag n, (State.reset.ctx ag).reg n = 0#64 ∧ (State.reset.ctx ag).cause = 0#64 ∧ (State.reset.ctx ag).epc = 0#64
    ∧ (State.reset.ctx ag).eval = 0#64 ∧ (State.reset.ctx ag).gRem = 0 ∧ (State.reset.ctx ag).levels = []) ∧
  (∀ c q, (State.reset.core c).online = true ∧ (State.reset.core c).toks q = 0 ∧ (State.reset.core c).scq = []
    ∧ (State.reset.core c).steerL = [] ∧ (State.reset.core c).steerS = [] ∧ (State.reset.core c).rpl = []
    ∧ (State.reset.core c).lfsr = 1#32 ∧ mget 0#8 (State.reset.core c).bfmt q = 0#8 ∧ (State.reset.core c).vrows = 15#6
    ∧ (State.reset.core c).vcols = 31#6 ∧ (State.reset.core c).ports = [] ∧ (State.reset.core c).job = none
    ∧ (mget ({} : Sem) (State.reset.core c).sems q).count = 0) ∧
  (∀ k b, (mget ({} : Barrier) (State.reset.clus k).bars b).free = true) ∧
  (∀ d, (State.reset.die d).ageQ = 1500000 ∧ (State.reset.die d).delta = 4 ∧ (State.reset.die d).evEn = false) ∧
  State.reset.insts = [] ∧ State.reset.images = [] ∧ State.reset.nixCtr = 1

/-- For every instruction that a context can issue, in a context that runs: a system instruction outside a Director, and before
any other check a CSR instruction of LA, SA or the handler that names a number above 0x7FF, raise Privileged Instruction; an
instruction that the engine does not have, fields that are not legal together, a register that the engine does not have, a
RING nibble that is not zero in a handler or a Director, and a LOOP, LOOPSP, GUARD, RDV or HRET inside a guard window raise
Illegal Instruction, the window being on or off. EVAL is word 1, and nothing happens but the entry of the trap. (R99, R106,
R108, R120, R123, R137, R179, R184, R432.) -/
def Obligations.EncodingChecksTrap : Prop :=
  ∀ (i : Instr) (r : Ring) (c : Cls) (s : State), i.form = some (r, c) → s.me.run = .run →
    (c = .dir → agEng s.cur ≠ .dir → Traps i s 2 (word1 i) 0) ∧
    (agEng s.cur = .la ∨ agEng s.cur = .sa ∨ agEng s.cur = .hdl →
      (∃ x n, 0x800 ≤ n.toNat ∧ (i = .csrr r x n ∨ i = .csrw r x n)) → Traps i s 2 (word1 i) 0) ∧
    (c ≠ .dir → c.okFor (agEng s.cur) = false → Traps i s 1 (word1 i) 0) ∧
    (c.okFor (agEng s.cur) = true → csrPriv (agEng s.cur) i = false →
      i.wf = false ∨ i.regsOk (agEng s.cur).isa = false
        ∨ ((agEng s.cur = .hdl ∨ agEng s.cur = .dir) ∧ r ≠ noRing)
        ∨ (0 < s.me.gRem ∧ guardBanned i = true) →
      Traps i s 1 (word1 i) 0)

/-- For every instruction that a context can issue and whose encoding checks pass: inside a guard window that is off it answers
a next state in which only what issuing does has happened, that is the ring effects and the advance of the pc with the loop
unit, and the window is one instruction shorter. (R122, R123, R124, R151, R219.) -/
def Obligations.PredicatedOffOnlyRings : Prop :=
  ∀ (i : Instr) (r : Ring) (c : Cls) (s : State), i.form = some (r, c) → GuardedOff i r c s →
    Completes i r s s ∧ ∃ t, exec i s = .next t ∧ t.me.gRem = s.me.gRem - 1

/-- For every instruction that a context can issue and whose encoding checks pass, in a context that runs and whose last signals
have gone out: if a queue that its RING nibble waits on holds no token, a step of the instruction changes nothing at all.
(R16, R17, R18.) -/
def Obligations.EmptyTokenQueueHoldsIssue : Prop :=
  ∀ (i : Instr) (r : Ring) (c : Cls) (s : State) (q : Nat), i.form = some (r, c) → Allowed i r c s → s.me.run = .run →
    s.me.sigs = [] → q ∈ ringWaits (agEng s.cur) r → s.myCore.toks q = 0 → exec i s = .next s

/-- A trap of LA, EX or SA of a core writes that context's CAUSE (imprecise bit, engine, MFC and code), EPC (the address of word
1) and EVAL, and stops it; its registers, predicates, pc and loop unit stay; the other engines of the core's job stop at
their instruction boundary if they run, but an engine inside an MSEND or a strong access of another device only after it,
and an engine at RDV stays there; every other core keeps all its contexts; memory is unchanged; and the Director of the die
gets one event, a trap record of CAUSE, EPC, EVAL, JOBID, CTXID and COREID. A trap of the handler of a core writes its CAUSE
with engine 3, EPC and EVAL, stops the handler, leaves every other context as it was, and sends its record to the Director
of the die. (R37, R181, R182, R183, R186, R252, R437.) -/
def Obligations.TrapsOfEnginesAndHandlers : Prop :=
  (∀ (s : State) (ag : Nat) (imp : Bool) (code mfc : Nat) (ev : DWord) (t : State), ag < 1536 → ag % 4 ≠ 3 →
    takeTrap s ag imp code mfc ev = t →
    (t.ctx ag).cause = BitVec.ofNat 64 ((if imp then 2 ^ 31 else 0) + ag % 4 * 2 ^ 28 + mfc * 2 ^ 24 + code) ∧
    (t.ctx ag).epc = BitVec.ofNat 64 (s.ctx ag).pc ∧ (t.ctx ag).eval = ev ∧ (t.ctx ag).run = .trapped ∧
    (t.ctx ag).regs = (s.ctx ag).regs ∧ (t.ctx ag).q = (s.ctx ag).q ∧ (t.ctx ag).pc = (s.ctx ag).pc ∧
    (t.ctx ag).lc = (s.ctx ag).lc ∧ (t.ctx ag).levels = (s.ctx ag).levels ∧
    (∀ b, b / 4 = ag / 4 → b % 4 ≠ 3 → b ≠ ag →
      (t.ctx b).run = (if (s.ctx b).run = .run ∧ !midway (s.ctx b) then .held else (s.ctx b).run) ∧
      (t.ctx b).regs = (s.ctx b).regs ∧ (t.ctx b).pc = (s.ctx b).pc) ∧
    (∀ b, b / 4 ≠ ag / 4 → t.ctx b = s.ctx b) ∧ t.mem = s.mem ∧
    (t.die (ag / 4 / 192)).waiting = (s.die (ag / 4 / 192)).waiting ++
      [({ ty := 1, core := ag / 4, time := s.time,
          body := leBytes 8 (t.ctx ag).cause.toNat ++ leBytes 8 (t.ctx ag).epc.toNat ++ leBytes 8 ev.toNat
            ++ leBytes 8 (jobIdOf s (ag / 4)).toNat ++ leBytes 8 (ctxId s ag).toNat
            ++ leBytes 8 (coreIdOf (ag / 4)).toNat }, false)]) ∧
  (∀ (s : State) (k : Nat) (imp : Bool) (code mfc : Nat) (ev : DWord) (t : State), k < 384 →
    takeTrap s (4 * k + 3) imp code mfc ev = t →
    (t.ctx (4 * k + 3)).cause = BitVec.ofNat 64 ((if imp then 2 ^ 31 else 0) + 3 * 2 ^ 28 + mfc * 2 ^ 24 + code) ∧
    (t.ctx (4 * k + 3)).epc = BitVec.ofNat 64 (s.ctx (4 * k + 3)).pc ∧ (t.ctx (4 * k + 3)).eval = ev ∧
    (t.ctx (4 * k + 3)).run = .trapped ∧ (t.ctx (4 * k + 3)).regs = (s.ctx (4 * k + 3)).regs ∧
    (∀ b, b ≠ 4 * k + 3 → t.ctx b = s.ctx b) ∧ t.mem = s.mem ∧ t.cores = s.cores ∧
    (t.die (k / 192)).waiting.length = (s.die (k / 192)).waiting.length + 1)

/-- A precise trap in a Director sets its CAUSE, EPC and EVAL with engine 4 and transfers control to the word address in DTVEC
of its die; the Director goes on running; no record is sent, and no other context changes; JR takes it back to any address a
register names; and a second trap there overwrites the three registers. (R434.) -/
def Obligations.TrapOfADirector : Prop :=
  ∀ (s : State) (d : Nat) (code mfc : Nat) (ev : DWord) (t : State), d < 2 →
    takeTrap s (1536 + d) false code mfc ev = t →
    (t.ctx (1536 + d) = { s.ctx (1536 + d) with
      cause := BitVec.ofNat 64 (4 * 2 ^ 28 + mfc * 2 ^ 24 + code), epc := BitVec.ofNat 64 (s.ctx (1536 + d)).pc, eval := ev,
      pc := (s.die d).dtvec, wait := .none, ans := none, stopAfter := false }) ∧
    (∀ b, b ≠ 1536 + d → t.ctx b = s.ctx b) ∧ t.dies = s.dies ∧ t.cores = s.cores ∧ t.mem = s.mem ∧
    (∀ (rs : BitVec 5) (u : State), u.cur = 1536 + d → Ready (.jr noRing rs) noRing .any u →
      (getR u rs.toNat).toNat ≤ 16383 → Transfers (.jr noRing rs) noRing u u (getR u rs.toNat).toNat) ∧
    (∀ code2 mfc2 ev2, let v := takeTrap t (1536 + d) false code2 mfc2 ev2
      (v.ctx (1536 + d)).cause = BitVec.ofNat 64 (4 * 2 ^ 28 + mfc2 * 2 ^ 24 + code2) ∧
      (v.ctx (1536 + d)).epc = BitVec.ofNat 64 (s.die d).dtvec ∧ (v.ctx (1536 + d)).eval = ev2)

/-- After a write of a scalar register of the issuing context, that register reads the value written and every other register
reads as before; register 0 reads 0, and a write of it is discarded; predicates, the pc and every other field of the
context, every other context, the cores and memory stay. After a write of a predicate below 128 of the issuing context, that
predicate reads the value written and every other one as before; q0 reads true, and a write of it is discarded; registers,
the pc and every other field of the context, every other context, the cores and memory stay. (R109, R122, R136, R138, R141,
R144, R145.) -/
def Obligations.RegisterAndPredicateWrites : Prop :=
  (∀ (s : State) (n m : Nat) (v : DWord),
    getR (setR s n v) m = (if m = n ∧ n ≠ 0 then v else getR s m) ∧ getR s 0 = 0#64 ∧
    (setR s n v).me = { s.me with regs := (setR s n v).me.regs, loads := (setR s n v).me.loads } ∧
    (∀ ag, ag ≠ s.cur → (setR s n v).ctx ag = s.ctx ag) ∧
    setR s n v = { s with ctxs := (setR s n v).ctxs } ∧ (n = 0 → (setR s n v).me = s.me)) ∧
  (∀ (s : State) (n m : Nat) (b : Bool), n < 128 →
    (setP s n b).me.pred m = (if m = n ∧ n ≠ 0 then b else s.me.pred m) ∧ s.me.pred 0 = true ∧
    (setP s n b).me = { s.me with q := (setP s n b).me.q } ∧
    (∀ ag, ag ≠ s.cur → (setP s n b).ctx ag = s.ctx ag) ∧
    setP s n b = { s with ctxs := (setP s n b).ctxs } ∧ (n = 0 → (setP s n b).me = s.me))

/-- Each of ADD, SUB, MUL, MULH, MULHU, DIV, DIVU, REM, REMU, MIN, MINU, MAX, MAXU, SHL, SHR, SAR, AND, OR and XOR completes in
every context that has it and is ready, for all operands: RD receives the result that the table of R141 and its borderline
cases give for the registers as numbers, modulo 2^64, and nothing else changes but what issuing changes; no flag is set and
nothing traps. CLZ and XCLZ give the number of leading zero bits of the operand, 64 for zero, and POPC and XPOPC the number
of its one bits; they complete for every operand and change nothing else but what issuing changes. Each of XADD, XSUB, XMUL,
XMULH, XMULHU, XDIV, XDIVU, XREM, XREMU, XMIN, XMINU, XMAX, XMAXU, XSHL, XSHR, XSAR, XAND, XOR and XXOR completes in EX when
it is ready, for all operands, with the results of R141 on x registers, and changes nothing else but what issuing changes.
(R112, R141, R284.) -/
def Obligations.ScalarResults : Prop :=
  (∀ (f : Spec.Fn) (r : Ring) (d a b : BitVec 5) (s : State), Ready (f.opr r d a b) r .any s →
    Completes (f.opr r d a b) r s (setR s d.toNat (f.result (getR s a.toNat) (getR s b.toNat)))) ∧
  ((∀ (r : Ring) (d a : BitVec 5) (s : State), Ready (.clz r d a) r .any s →
    ∃ n, Spec.IsClz (getR s a.toNat) n ∧ Completes (.clz r d a) r s (setR s d.toNat (BitVec.ofNat 64 n))) ∧
  (∀ (r : Ring) (d a : BitVec 5) (s : State), Ready (.popc r d a) r .any s →
    Completes (.popc r d a) r s (setR s d.toNat (BitVec.ofNat 64 (Spec.ones (getR s a.toNat))))) ∧
  (∀ (r : Ring) (d a : BitVec 4) (s : State), Ready (.xclz r d a) r .ex s →
    ∃ n, Spec.IsClz (getR s a.toNat) n ∧ Completes (.xclz r d a) r s (setR s d.toNat (BitVec.ofNat 64 n))) ∧
  (∀ (r : Ring) (d a : BitVec 4) (s : State), Ready (.xpopc r d a) r .ex s →
    Completes (.xpopc r d a) r s (setR s d.toNat (BitVec.ofNat 64 (Spec.ones (getR s a.toNat)))))) ∧
  (∀ (f : Spec.Fn) (r : Ring) (d a b : BitVec 4) (s : State), Ready (f.xalu r d a b) r .ex s →
    Completes (f.xalu r d a b) r s (setR s d.toNat (f.result (getR s a.toNat) (getR s b.toNat))))

/-- ADDI, ANDI, ORI, XORI, SHLI, SHRI, SARI, LI, LUI, XADDI and XMOVI complete in every context that has them and is ready, for
all operands: the immediate is sign-extended, LUI's is zero-extended below the register shifted left by 17; nothing else
changes but what issuing changes. (R142, R143, R284.) -/
def Obligations.ImmediateResults : Prop :=
  (∀ (f : Spec.ImmFn) (r : Ring) (d a : BitVec 5) (s : State), Ready (f.instr r d a) r .any s →
    Completes (f.instr r d a) r s (setR s d.toNat (f.result (getR s a.toNat)))) ∧
  (∀ (r : Ring) (d : BitVec 5) (imm : BitVec 17) (s : State), Ready (.li r d imm) r .any s →
    Completes (.li r d imm) r s (setR s d.toNat (BitVec.ofInt 64 imm.toInt))) ∧
  (∀ (r : Ring) (d : BitVec 5) (imm : BitVec 17) (s : State), Ready (.lui r d imm) r .any s →
    Completes (.lui r d imm) r s
      (setR s d.toNat (BitVec.ofNat 64 ((getR s d.toNat).toNat * 2 ^ 17 + imm.toNat)))) ∧
  (∀ (r : Ring) (d a : BitVec 4) (imm : BitVec 14) (s : State), Ready (.xaddi r d a imm) r .ex s →
    Completes (.xaddi r d a imm) r s (setR s d.toNat (BitVec.ofInt 64 ((getR s a.toNat).toInt + imm.toInt)))) ∧
  (∀ (r : Ring) (d : BitVec 4) (imm : BitVec 18) (s : State), Ready (.xmovi r d imm) r .ex s →
    Completes (.xmovi r d imm) r s (setR s d.toNat (BitVec.ofInt 64 imm.toInt)))

/-- CMP, CMPI and XCMP complete and write to the destination predicate whether the condition of R113 holds of the two values as
signed or unsigned numbers, CMPI's immediate sign-extended; SEL completes and writes the register that q[Q] selects; nothing
else changes but what issuing changes. (R113, R144, R146, R285.) -/
def Obligations.CompareResults : Prop :=
  (∀ (r : Ring) (qd : BitVec 7) (a b : BitVec 5) (c : Cond) (s : State), Ready (.cmp r qd a b c) r .any s →
    ∃ v : Bool, (v = true ↔ Spec.cond c (getR s a.toNat) (getR s b.toNat)) ∧
      Completes (.cmp r qd a b c) r s (setP s qd.toNat v)) ∧
  (∀ (r : Ring) (qd : BitVec 7) (a : BitVec 5) (c : Cond) (imm : BitVec 6) (s : State),
    Ready (.cmpi r qd a c imm) r .any s →
    ∃ v : Bool, (v = true ↔ Spec.cond c (getR s a.toNat) (BitVec.ofInt 64 imm.toInt)) ∧
      Completes (.cmpi r qd a c imm) r s (setP s qd.toNat v)) ∧
  (∀ (r : Ring) (qd : BitVec 7) (a b : BitVec 4) (c : Cond) (s : State), Ready (.xcmp r qd a b c) r .ex s →
    ∃ v : Bool, (v = true ↔ Spec.cond c (getR s a.toNat) (getR s b.toNat)) ∧
      Completes (.xcmp r qd a b c) r s (setP s qd.toNat v)) ∧
  (∀ (r : Ring) (d a b : BitVec 5) (q : BitVec 7) (s : State), Ready (.sel r d a b q) r .any s →
    Completes (.sel r d a b q) r s (setR s d.toNat (if s.me.pred q.toNat then getR s a.toNat else getR s b.toNat)))

/-- PAND, POR, PXOR and PNOT complete for all predicates q0 to q31 and write and, or, exclusive or and not; the four are the
functions 0 to 3 of major 0x0C, and a PNOT whose third field is not zero decodes to nothing. (R145.) -/
def Obligations.PredicateLogic : Prop :=
  ∀ (r : Ring) (d a b : BitVec 5) (s : State),
    (Ready (.pand r d a b) r .any s →
      Completes (.pand r d a b) r s (setP s d.toNat (s.me.pred a.toNat && s.me.pred b.toNat))) ∧
    (Ready (.por r d a b) r .any s →
      Completes (.por r d a b) r s (setP s d.toNat (s.me.pred a.toNat || s.me.pred b.toNat))) ∧
    (Ready (.pxor r d a b) r .any s →
      Completes (.pxor r d a b) r s (setP s d.toNat (s.me.pred a.toNat != s.me.pred b.toNat))) ∧
    (Ready (.pnot r d a) r .any s → Completes (.pnot r d a) r s (setP s d.toNat (!s.me.pred a.toNat))) ∧
    (∀ w v : Word, w.extractLsb' 22 6 = 0x0C#6 →
      decode .a w v =
        (let n := (w.extractLsb' 0 7).toNat
         let d := w.extractLsb' 17 5
         let a := w.extractLsb' 12 5
         let b := w.extractLsb' 7 5
         if n = 0 then some (.pand (Ring.one w) d a b)
         else if n = 1 then some (.por (Ring.one w) d a b)
         else if n = 2 then some (.pxor (Ring.one w) d a b)
         else if n = 3 ∧ b = 0#5 then some (.pnot (Ring.one w) d a)
         else none))

/-- B and XB whose predicate, inverted by N, is true transfer to PC plus the sign-extended offset if it lies in 0 to 16,383, and
trap with Instruction Address and the target as EVAL if not; otherwise they complete and do nothing. J, JAL, JR and XJ
transfer to their target, JAL writing PC + 1 to RD; a register target above 16,383 traps with the register as EVAL. Nothing
else changes but what issuing changes. GUARD in either instruction set completes and opens a window of CNT + 1 instructions
that is on when the predicate, inverted by N, is true; nothing else changes but what issuing changes. (R107, R122, R148,
R149, R286.) -/
def Obligations.BranchesJumpsAndGuards : Prop :=
  ((∀ (r : Ring) (q : BitVec 7) (n : Bool) (off : BitVec 14) (s : State) (t : Int), t = s.me.pc + off.toInt →
    (Ready (.b r q n off) r .any s →
      (s.me.pred q.toNat = n → Completes (.b r q n off) r s s) ∧
      (s.me.pred q.toNat ≠ n → 0 ≤ t → t ≤ 16383 → Transfers (.b r q n off) r s s t.toNat) ∧
      (s.me.pred q.toNat ≠ n → t < 0 ∨ 16383 < t → Traps (.b r q n off) s 3 (BitVec.ofInt 64 t) 0)) ∧
    (Ready (.xb r q n off) r .ex s →
      (s.me.pred q.toNat = n → Completes (.xb r q n off) r s s) ∧
      (s.me.pred q.toNat ≠ n → 0 ≤ t → t ≤ 16383 → Transfers (.xb r q n off) r s s t.toNat) ∧
      (s.me.pred q.toNat ≠ n → t < 0 ∨ 16383 < t → Traps (.xb r q n off) s 3 (BitVec.ofInt 64 t) 0))) ∧
  (∀ (r : Ring) (target : BitVec 14) (s : State), Ready (.j r target) r .any s →
    Transfers (.j r target) r s s target.toNat) ∧
  (∀ (r : Ring) (rd : BitVec 5) (target : BitVec 14) (s : State), Ready (.jal r rd target) r .any s →
    Transfers (.jal r rd target) r s (setR s rd.toNat (BitVec.ofNat 64 (s.me.pc + 1))) target.toNat) ∧
  (∀ (r : Ring) (rs : BitVec 5) (s : State), Ready (.jr r rs) r .any s →
    ((getR s rs.toNat).toNat ≤ 16383 → Transfers (.jr r rs) r s s (getR s rs.toNat).toNat) ∧
    (16383 < (getR s rs.toNat).toNat → Traps (.jr r rs) s 3 (getR s rs.toNat) 0)) ∧
  (∀ (r : Ring) (xa : BitVec 4) (s : State), Ready (.xj r xa) r .ex s →
    ((getR s xa.toNat).toNat ≤ 16383 → Transfers (.xj r xa) r s s (getR s xa.toNat).toNat) ∧
    (16383 < (getR s xa.toNat).toNat → Traps (.xj r xa) s 3 (getR s xa.toNat) 0))) ∧
  ((∀ (r : Ring) (q : BitVec 7) (n : Bool) (cnt : BitVec 3) (s : State), Ready (.guard r q n cnt) r .any s →
    Completes (.guard r q n cnt) r s (s.setMe { s.me with gOn := s.me.pred q.toNat != n, gRem := cnt.toNat + 1 }) ∧
    ∃ t, exec (.guard r q n cnt) s = .next t ∧ t.me.gRem = cnt.toNat + 1) ∧
  (∀ (r : Ring) (q : BitVec 7) (n : Bool) (cnt : BitVec 3) (s : State), Ready (.guardX r q n cnt) r .ex s →
    Completes (.guardX r q n cnt) r s (s.setMe { s.me with gOn := s.me.pred q.toNat != n, gRem := cnt.toNat + 1 }) ∧
    ∃ t, exec (.guardX r q n cnt) s = .next t ∧ t.me.gRem = cnt.toNat + 1))

/-- A taken transfer, shown by J, ends the levels whose body the target lies outside of and every level activated after such a
one, and sets their counters to zero; the other levels and counters stay; a guard window ends. No software-pipelined loop is
active in this statement. (R122, R123, R152.) -/
def Obligations.TakenTransferEndsLevels : Prop :=
  ∀ (r : Ring) (target : BitVec 14) (s t : State), Ready (.j r target) r .any s → (∀ v ∈ s.me.levels, v.sp = none) →
    exec (.j r target) s = .next t →
    t.me.levels
      = (s.me.levels.reverse.takeWhile fun v => decide (v.lo ≤ target.toNat ∧ target.toNat ≤ v.hi)).reverse ∧
    (∀ l, (∃ v ∈ s.me.levels.reverse.dropWhile (fun v => decide (v.lo ≤ target.toNat ∧ target.toNat ≤ v.hi)), v.l = l) →
      mget 0#32 t.me.lc l = 0#32) ∧
    (∀ l, (∀ v ∈ s.me.levels.reverse.dropWhile (fun v => decide (v.lo ≤ target.toNat ∧ target.toNat ≤ v.hi)), v.l ≠ l) →
      mget 0#32 t.me.lc l = mget 0#32 s.me.lc l) ∧
    t.me.gRem = 0

/-- LOOP of either instruction set, with n in its register: it traps with Loop State and EVAL L if level L is active or a
software-pipelined loop uses lc3, with EVAL n if n is 2^32 or more, with EVAL END if an active level ends before END;
otherwise n = 0 goes to END + 1 with the loop unit as it was, and another n activates level L over the word after LOOP to
END with lc[L] = n, keeps START and END as the level's, and goes to the next word. The levels already there hold no
software-pipelined loop in the last two cases. (R150, R286.) -/
def Obligations.LoopStartsLevel : Prop :=
  ∀ (x : Bool) (r : Ring) (l : BitVec 2) (a : BitVec 5) (b : BitVec 4) (fin : BitVec 14) (s : State) (i : Instr) (n : DWord),
    (x = false ∧ i = .loop r l a fin ∧ n = getR s a.toNat ∧ Ready i r .any s
      ∨ x = true ∧ i = .loopX r l b fin ∧ n = getR s b.toNat ∧ Ready i r .ex s) →
    ((∃ v ∈ s.me.levels, (v.act = true ∧ v.l = l.toNat) ∨ (v.sp ≠ none ∧ l = 3#2)) →
      Traps i s 9 (BitVec.ofNat 64 l.toNat) 0) ∧
    ((∀ v ∈ s.me.levels, ¬(v.act = true ∧ v.l = l.toNat) ∧ v.sp = none) →
      (2 ^ 32 ≤ n.toNat → Traps i s 9 n 0) ∧
      (n.toNat < 2 ^ 32 →
        ((∃ v ∈ s.me.levels, v.act = true ∧ v.fin < fin.toNat) → Traps i s 9 (BitVec.ofNat 64 fin.toNat) 0) ∧
        ((∀ v ∈ s.me.levels, v.act = true → fin.toNat ≤ v.fin) →
          ∃ t e, exec i s = .next t ∧ Issued r e t ∧ e = s.setMe { s.me with lspan := e.me.lspan } ∧
            e.me.lspan = (if n = 0#64 then s.me.lspan else mset s.me.lspan l.toNat (s.me.pc + 1, fin.toNat)) ∧
            (if n = 0#64 then t.me.pc = fin.toNat + 1 ∧ t.me.levels = s.me.levels ∧ t.me.lc = s.me.lc
             else t.me.pc = s.me.pc + 1 ∧
              t.me.levels = { l := l.toNat, start := s.me.pc + 1, fin := fin.toNat, act := true, sp := none,
                              lo := s.me.pc + 1, hi := fin.toNat } :: s.me.levels ∧
              (∀ m, mget 0#32 t.me.lc m = if m = l.toNat then BitVec.ofNat 32 n.toNat else mget 0#32 s.me.lc m)))))

/-- Every instruction that a guard window turns off, at the END of the innermost active level: with the counter above 1 the
counter goes down by 1 and the pc to START; otherwise the counter becomes 0, the level ends, and, if no other level ends
here, the pc goes past the instruction. No software-pipelined loop is active in this statement. (R124, R139, R151.) -/
def Obligations.BackEdgeAtEnd : Prop :=
  ∀ (i : Instr) (r : Ring) (c : Cls) (s : State) (v : Level) (rest : List Level), i.form = some (r, c) → GuardedOff i r c s →
    s.me.levels = v :: rest → v.act = true → v.fin = s.me.pc → v.sp = none →
    (∀ u ∈ rest, u.sp = none ∧ (u.act = true → u.fin ≠ s.me.pc)) →
    ∃ t, exec i s = .next t ∧ Issued r s t ∧
      (if 1 < (mget 0#32 s.me.lc v.l).toNat then
        t.me.pc = v.start ∧ t.me.levels = s.me.levels ∧ mget 0#32 t.me.lc v.l = mget 0#32 s.me.lc v.l - 1#32
       else t.me.pc = s.me.pc + words i ∧ t.me.levels = rest ∧ mget 0#32 t.me.lc v.l = 0#32) ∧
      (∀ m, m ≠ v.l → mget 0#32 t.me.lc m = mget 0#32 s.me.lc m)

/-- LOOPSP of either instruction set traps with Loop State and EVAL REC if the image has no such record for the engine, with
EVAL 3 if a software-pipelined loop or a level on lc3 is active, with EVAL n if the trip count is 2^32 or more. With no loop
level active, a trip count n of 0 transfers to EEND + 1, and another n transfers to PRO with lc3 = n and the kernel as a
level from KER to KEND. (R153, R154, R286, R463.) -/
def Obligations.LoopspStartsPipelinedLoop : Prop :=
  ∀ (x : Bool) (r : Ring) (rec : BitVec 6) (s : State) (i : Instr),
    (x = false ∧ i = .loopsp r rec ∧ Ready i r .ring s ∨ x = true ∧ i = .loopspX r rec ∧ Ready i r .ex s) →
    (loopRec s rec.toNat = none → Traps i s 9 (BitVec.ofNat 64 rec.toNat) 0) ∧
    (∀ k n, loopRec s rec.toNat = some k → n = (if k.kind = 1 then getR s k.reg else BitVec.ofNat 64 k.trip) →
      k.eend < 16383 → k.pro ≤ 16383 →
      ((∃ v ∈ s.me.levels, v.sp ≠ none ∨ (v.act = true ∧ v.l = 3)) → Traps i s 9 3#64 0) ∧
      (s.me.levels = [] →
        (2 ^ 32 ≤ n.toNat → Traps i s 9 n 0) ∧
        (n = 0#64 → Transfers i r s s (k.eend + 1)) ∧
        (n ≠ 0#64 → n.toNat < 2 ^ 32 →
          ∃ t, exec i s = .next t ∧ t.me.pc = k.pro ∧ mget 0#32 t.me.lc 3 = BitVec.ofNat 32 n.toNat ∧
            (t.me.levels =
              [{ l := 3, start := k.ker, fin := k.kend, act := true, sp := some rec.toNat, lo := k.pro, hi := k.eend }]) ∧
            t.me.regs = s.me.regs ∧ t.me.q = s.me.q ∧
            (∃ p ∈ t.myCore.ckpts, p.eng = (agEng s.cur).num ∧ p.k = 0))))

/-- SAFE of either instruction set completes and starts the count of SPBOUND again; it does nothing else in a job with no
pending pre-emption, and in a marked job the engine stops after it. (R156, R288, R394, R396.) -/
def Obligations.SafePointStopsMarkedJob : Prop :=
  ∀ (x : Bool) (r : Ring) (s : State) (i : Instr),
    (x = false ∧ i = .safe r ∧ Ready i r .ring s ∨ x = true ∧ i = .safeX r ∧ Ready i r .ex s) →
    s.me.stopAfter = false → (∀ v ∈ s.me.levels, v.act = true → v.fin ≠ s.me.pc) →
    Completes i r s s ∧ ∃ t, exec i s = .next t ∧ t.me.safeAt = s.cycle ∧
      ((∀ j, s.myCore.job = some j → j.mark = none) → t.me.run = .run ∧ t.myCore.job = s.myCore.job) ∧
      (∀ j, s.myCore.job = some j → j.mark ≠ none → t.me.run = .held)

/-- RDV of either instruction set, when no stream command of the core is pending, nothing that a publish point waits for is
under way and EX delivers no floating-point trap: the engine waits at RDV, its held stores and what its commands have
written are in memory for it in LA and SA, its registers and predicates stay; and when both other engines are at RDV or
absent, the end-of-job drain starts. (R34, R37, R79, R157, R216, R288, R292.) -/
def Obligations.RdvEndsTheEnginesPart : Prop :=
  ∀ (x : Bool) (r : Ring) (s : State) (i : Instr),
    (x = false ∧ i = .rdv r ∧ Ready i r .ring s ∧ pubBusy s = false
      ∨ x = true ∧ i = .rdvX r ∧ Ready i r .ex s ∧ fpDelivers s.myCore = false) →
    s.myCore.strq = [] → s.me.stopAfter = false → (∀ v ∈ s.me.levels, v.act = true → v.fin ≠ s.me.pc) →
    ∃ t, exec i s = .next t ∧ t.me.run = .rdv ∧ t.me.regs = s.me.regs ∧ t.me.q = s.me.q ∧
      (x = false → t.me.stores = [] ∧ t.me.veil = []) ∧
      (∀ pa, ownByte t s.cur pa = ownByte s s.cur pa) ∧
      (∀ j, s.myCore.job = some j → j.mark = none →
        (∀ b, b / 4 = agCore s.cur → b % 4 ≠ 3 → b ≠ s.cur → (s.ctx b).run = .rdv ∨ (s.ctx b).run = .absent) →
        ∃ k, t.myCore.job = some k ∧ k.drain = true)

/-- TRAP raises Software Trap with its register as EVAL; predicated off it does nothing but issue; and a word of its major and
function decodes to it exactly when its RD and RS2 fields are zero. (R159.) -/
def Obligations.TrapRaisesSoftwareTrap : Prop :=
  ∀ (r : Ring) (rs : BitVec 5) (s : State),
    (Ready (.trap r rs) r .any s → Traps (.trap r rs) s 0x0C (getR s rs.toNat) 0) ∧
    (GuardedOff (.trap r rs) r .any s → Completes (.trap r rs) r s s) ∧
    (∀ w v : Word, w.extractLsb' 22 6 = 0x17#6 → w.extractLsb' 0 7 = 3#7 →
      decode .a w v =
        if w.extractLsb' 17 5 = 0#5 ∧ w.extractLsb' 7 5 = 0#5 then some (.trap (Ring.one w) (w.extractLsb' 12 5)) else none)

/-- With no ring effect of its own, TKW of count n completes when the queue from the predecessor or the successor holds n tokens
and pops n of them, and waits otherwise; TKS completes when the queue has room for n and pushes n, publishing the member's
held stores, and waits otherwise. STW takes the oldest steer entry of its engine, writes its value to RD and transfers to
its address, and waits while there is none. STEER of EX, with fewer than four entries present or on their way, sends an
entry of the low 16 bits of its registers to the Second. POPRPL writes the oldest reply that fits its tag and shows its
context what the command of that tag has written, waits while a reservation fits, and else traps with Queue State. SQPUSH
with no bound stream and room for its codes appends the low CNT bytes of its register, the lowest first; with a bound stream
it traps with Queue State and the port as EVAL; without room it waits. SQBIND off clears the binding; SQBIND of an open
scale port with no pending command and no binding binds it, and of another traps with Queue State and the port as EVAL.
(R16, R18, R20, R21, R23, R24, R170, R171, R172, R173, R174, R287.) -/
def Obligations.QueueInstructions : Prop :=
  (∀ (succ : Bool) (n : BitVec 5) (s : State) (q : Nat),
    (Ready (.tkw noRing succ n) noRing .ring s →
      q = (if succ then (ringQ (agEng s.cur)).2.1 else (ringQ (agEng s.cur)).1) →
      (n.toNat ≤ s.myCore.toks q →
        Completes (.tkw noRing succ n) noRing s (s.setMyCore (popTok s.myCore (agEng s.cur).num q n.toNat)) ∧
        (popTok s.myCore (agEng s.cur).num q n.toNat).toks q = s.myCore.toks q - n.toNat) ∧
      (s.myCore.toks q < n.toNat → exec (.tkw noRing succ n) s = .next s)) ∧
    (Ready (.tks noRing succ n) noRing .ring s →
      q = (if succ then (ringQ (agEng s.cur)).2.2.2 else (ringQ (agEng s.cur)).2.2.1) →
      (s.myCore.toks q + n.toNat ≤ 16 →
        Completes (.tks noRing succ n) noRing s
          ((publish s).setMyCore (pushTok s.myCore (agEng s.cur).num q n.toNat)) ∧
        (pushTok s.myCore (agEng s.cur).num q n.toNat).toks q = s.myCore.toks q + n.toNat) ∧
      (16 < s.myCore.toks q + n.toNat → exec (.tks noRing succ n) s = .next s))) ∧
  ((∀ (r : Ring) (rd : BitVec 5) (s : State) (pc v : BitVec 16) (t : List (BitVec 16 × BitVec 16)),
    Ready (.stw r rd) r .ring s →
    (agEng s.cur = .la → s.myCore.steerL = (pc, v) :: t → pc.toNat ≤ 16383 →
      Transfers (.stw r rd) r s (setR (s.setMyCore (logEv { s.myCore with steerL := t } 0 3 0 [pc.toNat, v.toNat]))
        rd.toNat (v.setWidth 64)) pc.toNat) ∧
    (agEng s.cur = .sa → s.myCore.steerS = (pc, v) :: t → pc.toNat ≤ 16383 →
      Transfers (.stw r rd) r s (setR (s.setMyCore (logEv { s.myCore with steerS := t } 2 3 1 [pc.toNat, v.toNat]))
        rd.toNat (v.setWidth 64)) pc.toNat) ∧
    (agEng s.cur = .la → s.myCore.steerL = [] → exec (.stw r rd) s = .next s) ∧
    (agEng s.cur = .sa → s.myCore.steerS = [] → exec (.stw r rd) s = .next s)) ∧
  (∀ (r : Ring) (xa xb : BitVec 4) (sa : Bool) (s : State), Ready (.steer r xa xb sa) r .ex s →
    (if sa then s.myCore.steerS else s.myCore.steerL).length
      + (s.myCore.steerP.filter fun x => decide (x.2.1 = sa)).length < 4 →
    ∃ c, Completes (.steer r xa xb sa) r s (s.setMyCore c) ∧ c.secq = s.myCore.secq ++ [s.myCore.nextId] ∧
      c.steerP = s.myCore.steerP ++ [(s.myCore.nextId, sa, (getR s xb.toNat).setWidth 16, (getR s xa.toNat).setWidth 16)]) ∧
  (∀ (r : Ring) (rd : BitVec 5) (any : Bool) (tag : BitVec 16) (s : State), Ready (.poprpl r rd any tag) r .noDir s →
    (∀ v pre post, s.myCore.rpl = pre ++ v :: post → (any = true ∨ v.extractLsb' 48 16 = tag) →
      (∀ u ∈ pre, any = false ∧ u.extractLsb' 48 16 ≠ tag) →
      Completes (.poprpl r rd any tag) r s
        (setR ((s.setMyCore (logEv { s.myCore with rpl := s.myCore.rpl.erase v } (agEng s.cur).num 4 0 [v.toNat])).setMe
          { s.me with veil := s.me.veil.filter fun x => decide (x.tag ≠ some (v.extractLsb' 48 16).toNat) }) rd.toNat v)) ∧
    ((∀ u ∈ s.myCore.rpl, any = false ∧ u.extractLsb' 48 16 ≠ tag) →
      ((∃ k ∈ s.myCore.resv, any = true ∨ k = tag.toNat) → exec (.poprpl r rd any tag) s = .next s) ∧
      ((∀ k ∈ s.myCore.resv, any = false ∧ k ≠ tag.toNat) →
        Traps (.poprpl r rd any tag) s 0x0A (if any then 0x10000#64 else tag.setWidth 64) 0)))) ∧
  ((∀ (r : Ring) (rs cnt : BitVec 5) (s : State), Ready (.sqpush r rs cnt) r .noDir s →
    (∀ n, s.myCore.sqBind = some n → Traps (.sqpush r rs cnt) s 0x0A (BitVec.ofNat 64 n) 0) ∧
    (s.myCore.sqBind = none →
      (s.myCore.scq.length + cnt.toNat ≤ 256 →
        ∃ c, Completes (.sqpush r rs cnt) r s (s.setMyCore c) ∧
          c.scq = s.myCore.scq ++ leBytes cnt.toNat (getR s rs.toNat).toNat ∧
          c = { s.myCore with scq := c.scq, rb := c.rb, ckpts := c.ckpts }) ∧
      (256 < s.myCore.scq.length + cnt.toNat → exec (.sqpush r rs cnt) s = .next s))) ∧
  (∀ (r : Ring) (port : BitVec 5) (s : State),
    (Ready (.sqbind r true 0#5) r .noDir s →
      Completes (.sqbind r true 0#5) r s (s.setMyCore { s.myCore with sqBind := none })) ∧
    (Ready (.sqbind r false port) r .noDir s → pendingOn s.myCore port.toNat = false →
      (s.myCore.sqBind = none → isOpen s.myCore port.toNat = true → (s.myCore.port port.toNat).dst = .scale →
        Completes (.sqbind r false port) r s (s.setMyCore { s.myCore with sqBind := some port.toNat })) ∧
      (s.myCore.sqBind ≠ none ∨ isOpen s.myCore port.toNat = false ∨ (s.myCore.port port.toNat).dst ≠ .scale →
        Traps (.sqbind r false port) s 0x0A (BitVec.ofNat 64 port.toNat) 0))))

/-- VSHAPE sets the shape; XSET sets VSHAPE, FMT8, FPCTL or FPACC from the low bits of a register, a code of FMT8 that is no
binary8 variant and a rounding mode of 5 to 7 raising Illegal Instruction; XGET reads the same fields back. They complete
and change no other register of EX. (R256, R257, R258, R259, R260.) -/
def Obligations.SpecialRegistersOfEx : Prop :=
  (∀ (r : Ring) (a b : BitVec 6) (s : State), Ready (.vshape r a b) r .ex s →
    Completes (.vshape r a b) r s (s.setMyCore { s.myCore with vrows := a, vcols := b })) ∧
  (∀ (r : Ring) (xa : BitVec 4) (s : State) (v : Nat), v = (getR s xa.toNat).toNat →
    (Ready (.xset r xa .vshape) r .ex s → Completes (.xset r xa .vshape) r s
      (s.setMyCore { s.myCore with vrows := BitVec.ofNat 6 (v / 64), vcols := BitVec.ofNat 6 v })) ∧
    (Ready (.xset r xa .fmt8) r .ex s →
      (isB8Code (v % 256) = true → Completes (.xset r xa .fmt8) r s
        (s.setMyCore { s.myCore with fmt8 := BitVec.ofNat 8 v })) ∧
      (isB8Code (v % 256) = false → Traps (.xset r xa .fmt8) s 1 (word1 (.xset r xa .fmt8)) 0)) ∧
    (Ready (.xset r xa .fpctl) r .ex s →
      (v % 8 < 5 → Completes (.xset r xa .fpctl) r s (s.setMyCore { s.myCore with fpctl := BitVec.ofNat 9 v })) ∧
      (5 ≤ v % 8 → Traps (.xset r xa .fpctl) s 1 (word1 (.xset r xa .fpctl)) 0)) ∧
    (Ready (.xset r xa .fpacc) r .ex s → Completes (.xset r xa .fpacc) r s
      (s.setMyCore { s.myCore with fpacc := BitVec.ofNat 5 v }))) ∧
  (∀ (r : Ring) (xd : BitVec 4) (sel : XSel) (s : State), Ready (.xget r xd sel) r .ex s →
    Completes (.xget r xd sel) r s (setR s xd.toNat (BitVec.ofNat 64 (match sel with
      | .vshape => s.myCore.vrows.toNat * 64 + s.myCore.vcols.toNat
      | .fmt8 => s.myCore.fmt8.toNat
      | .fpctl => s.myCore.fpctl.toNat
      | .fpacc => s.myCore.fpacc.toNat))))

/-- CSRR of a register that the context may name completes and writes its value as it stands: among them MAPREV
0x7A48C76801000000, CYCLE, TIME, LFSR, CAUSE, EPC, EVAL and the guard state. CSRW to a register whose write is not a step of
its own, with a value that the register takes, completes with the write done, and a write of another register waits to be
performed before the next instruction; a CSRW to a read-only register, and a number above 0x7FF outside a Director, trap
before predication. (R9, R99, R101, R147, R182, R183, R399, R435, R2.) -/
def Obligations.SystemRegisters : Prop :=
  (∀ (r : Ring) (rd : BitVec 5) (n : BitVec 12) (s : State), Ready (.csrr r rd n) r .any s →
    Completes (.csrr r rd n) r s (setR s rd.toNat (csrRead s s.cur n.toNat))) ∧
  (∀ s : State, csrRead s s.cur 0x010 = 0x7A48C76801000000#64 ∧
    csrRead s s.cur 0x014 = BitVec.ofNat 64 s.time ∧ csrRead s s.cur 0x015 = BitVec.ofNat 64 (s.cycle - s.cycBase) ∧
    csrRead s s.cur 0x017 = s.myCore.lfsr.setWidth 64 ∧
    csrRead s s.cur 0x018 = BitVec.ofNat 64 ((if s.me.gOn then 16 else 0) + s.me.gRem) ∧
    csrRead s s.cur 0x020 = s.me.cause ∧ csrRead s s.cur 0x021 = s.me.epc ∧ csrRead s s.cur 0x022 = s.me.eval ∧
    csrRead s s.cur 0x802 = BitVec.ofNat 64 (s.die (agDie s.cur)).dtvec) ∧
  (∀ (r : Ring) (rs : BitVec 5) (n : BitVec 12) (s : State), Ready (.csrw r rs n) r .any s →
    csrBadValue (agDie s.cur) n.toNat (getR s rs.toNat) = false →
    Completes (.csrw r rs n) r s (csrWrite s n.toNat (getR s rs.toNat))) ∧
  (∀ (s : State) (v : DWord), csrWrite s 0x802 v
      = s.setDie (agDie s.cur) { s.die (agDie s.cur) with dtvec := v.toNat % 2 ^ 14 } ∧
    csrWrite s 0x800 v = s.setDie (agDie s.cur) { s.die (agDie s.cur) with ageQ := max 1 (v.toNat % 2 ^ 32) } ∧
    csrWrite s 0x017 v = { s with csrq := s.csrq ++ [(s.cur, 0x017, v)] }) ∧
  (∀ (r : Ring) (rs : BitVec 5) (n : BitVec 12) (s : State), s.me.run = .run → agEng s.cur = .la ∨ agEng s.cur = .sa ∨ (agEng s.cur = .hdl ∧ r = noRing) →
    (csrReadOnly n.toNat = true → n.toNat < 0x800 → Traps (.csrw r rs n) s 1 (word1 (.csrw r rs n)) 0) ∧
    (0x800 ≤ n.toNat → Traps (.csrw r rs n) s 2 (word1 (.csrw r rs n)) 0))

/-- LD whose bytes are translated and not poisoned, with fewer than sixteen loads outstanding: it completes, RD reads as the
little-endian value of the bytes as the context itself sees them (its own held stores before memory), sign-extended where SX
says so; with PI the base register is advanced; every other register, every byte of memory and every held store stay. On
poisoned bytes it has no effect but the trigger of a rollback under the context's tag. A translation that fails is a Memory
Fault with its code and address; one that misses starts walks and waits. (R8, R81, R109, R110, R161, R162.) -/
def Obligations.LoadsReadTheContextsOwnView : Prop :=
  ∀ (r : Ring) (rd rb : BitVec 5) (sz : Size) (pi sx : Bool) (off : BitVec 8) (s : State) (i : Instr) (ea : DWord),
    i = .ld r rd rb sz pi sx off → Ready i r .any s → s.me.loads.length < 16 →
    ea = (if pi then getR s rb.toNat else BitVec.ofInt 64 ((getR s rb.toNat).toInt + off.toInt)) →
    (∀ pas v, xlateN s s.cur ea.toNat (szN sz) false false = .ok pas → poisonAt s pas = none →
      v = Spec.le (fun k => viewByte s s.cur (pas.getD k 0)) (szN sz) →
      ∃ e, Completes i r s e ∧
        (∀ k, e.me.reg k =
          if k = 0 then 0#64
          else if k = rd.toNat then
            (if sx then BitVec.ofInt 64 (BitVec.ofNat (8 * szN sz) v).toInt else BitVec.ofNat 64 v)
          else if pi = true ∧ k = rb.toNat then BitVec.ofInt 64 ((getR s rb.toNat).toInt + off.toInt)
          else s.me.reg k) ∧
        e = s.setMe { s.me with regs := e.me.regs, loads := e.me.loads }) ∧
    (∀ pas pa, xlateN s s.cur ea.toNat (szN sz) false false = .ok pas → pa ∈ pas → pa % 2 ^ 40 ∈ s.poison →
      ∃ u, exec i s = .next (triggerPoison s s.cur u false)) ∧
    (∀ m va, xlateN s s.cur ea.toNat (szN sz) false false = .fail m va → Traps i s 6 (BitVec.ofNat 64 va) m) ∧
    (∀ vas, xlateN s s.cur ea.toNat (szN sz) false false = .miss vas → exec i s = .next (startWalks s vas))

/-- ST whose bytes are translated for writing, with fewer than 32 stores held: it completes; the context itself then sees the
low bytes of its register, the lowest first, at the bytes stored to and every other byte as before; memory stays as it is
until the store is performed; with PI the base register is advanced and every other register stays. A translation that fails
is a Memory Fault; one that misses starts walks and waits. (R8, R79, R81, R110, R161.) -/
def Obligations.StoresAreHeld : Prop :=
  ∀ (r : Ring) (rs rb : BitVec 5) (sz : Size) (pi : Bool) (off : BitVec 8) (s : State) (i : Instr) (ea : DWord),
    i = .st r rs rb sz pi off → Ready i r .any s → s.me.stores.length < 32 →
    ea = (if pi then getR s rb.toNat else BitVec.ofInt 64 ((getR s rb.toNat).toInt + off.toInt)) →
    (∀ pas, xlateN s s.cur ea.toNat (szN sz) true false = .ok pas →
      ∃ e, Completes i r s e ∧ e.mem = s.mem ∧
        (∀ pa, viewByte e s.cur pa =
          match (List.range (szN sz)).reverse.find? (fun k => decide (pas.getD k 0 % 2 ^ 40 = pa % 2 ^ 40)) with
          | some k => Spec.byteOf (getR s rs.toNat) k
          | none => viewByte s s.cur pa) ∧
        (∀ k, e.me.reg k =
          if pi = true ∧ k = rb.toNat ∧ k ≠ 0 then BitVec.ofInt 64 ((getR s rb.toNat).toInt + off.toInt) else s.me.reg k) ∧
        e = s.setMe { s.me with regs := e.me.regs, loads := e.me.loads, stores := e.me.stores }) ∧
    (∀ m va, xlateN s s.cur ea.toNat (szN sz) true false = .fail m va → Traps i s 6 (BitVec.ofNat 64 va) m) ∧
    (∀ vas, xlateN s s.cur ea.toNat (szN sz) true false = .miss vas → exec i s = .next (startWalks s vas))

/-- An access that leaves the pad traps with Pad Range and the offset as EVAL. Inside the pad LDP writes the zero-extended bytes
to RD and STP writes the low bytes of its register to the pad, which are then not poisoned, and no other pad byte; LDP of
poisoned bytes has no effect but the trigger of a rollback; with PI the base register is advanced afterwards. Full/empty
bits and every other register stay; so does memory. A line in the buffer of an open port is Pad State, an unaligned offset
Misaligned, an offset beyond the pad Pad Range, in this order and with the offset as EVAL. LDP.F waits until its line is
full, reads the bytes and, when its last byte ends the line, makes it empty; STP.E waits until it is empty, writes the bytes
and makes it full in that case. Every other line's bit, register and pad byte stays. (R66, R109, R110, R163, R164, R185.) -/
def Obligations.PadAccesses : Prop :=
  (∀ (r : Ring) (rb : BitVec 5) (sz : Size) (pi : Bool) (off : BitVec 8) (s : State) (o : DWord) (nx : State → State),
    o = (if pi then getR s rb.toNat else BitVec.ofInt 64 ((getR s rb.toNat).toInt + off.toInt)) →
    nx = (fun e => if pi then setR e rb.toNat (BitVec.ofInt 64 ((getR e rb.toNat).toInt + off.toInt)) else e) →
    (∀ rd : BitVec 5, Ready (.ldp r rd rb sz pi off) r .noDir s →
      (0x200000 < o.toNat + szN sz → Traps (.ldp r rd rb sz pi off) s 7 o 0) ∧
      (o.toNat + szN sz ≤ 0x200000 → padPoison s.myCore o.toNat (szN sz) = none →
        Completes (.ldp r rd rb sz pi off) r s (nx (setR s rd.toNat
          (BitVec.ofNat 64 (Spec.le (fun k => mget 0#8 s.myCore.pad (o.toNat + k)) (szN sz)))))) ∧
      (∀ k, o.toNat + szN sz ≤ 0x200000 → k ∈ s.myCore.poison → o.toNat ≤ k → k < o.toNat + szN sz →
        ∃ u, exec (.ldp r rd rb sz pi off) s = .next (triggerPoison s s.cur u true))) ∧
    (∀ rs : BitVec 5, Ready (.stp r rs rb sz pi off) r .noDir s →
      (0x200000 < o.toNat + szN sz → Traps (.stp r rs rb sz pi off) s 7 o 0) ∧
      (o.toNat + szN sz ≤ 0x200000 →
        ∃ c : Core, Completes (.stp r rs rb sz pi off) r s (nx (s.setMyCore c)) ∧
          c = { s.myCore with pad := c.pad, poison := c.poison, rb := c.rb } ∧
          (∀ k, k ∈ c.poison ↔ k ∈ s.myCore.poison ∧ ¬ (o.toNat ≤ k ∧ k < o.toNat + szN sz)) ∧
          (∀ k, mget 0#8 c.pad k =
            if o.toNat ≤ k ∧ k < o.toNat + szN sz then Spec.byteOf (getR s rs.toNat) (k - o.toNat)
            else mget 0#8 s.myCore.pad k)))) ∧
  (∀ (r : Ring) (rb : BitVec 5) (sz : Size) (off : BitVec 8) (s : State) (o : DWord) (line : Nat),
    o = BitVec.ofInt 64 ((getR s rb.toNat).toInt + off.toInt) → line = o.toNat / 64 →
    (∀ (i : Instr), ((∃ x, i = .ldpF r x rb sz off) ∨ ∃ x, i = .stpE r x rb sz off) → Ready i r .noDir s →
      (inOpenBuffer s.myCore (line * 64) = true → Traps i s 8 o 0) ∧
      (inOpenBuffer s.myCore (line * 64) = false → o.toNat % szN sz ≠ 0 → Traps i s 5 o 0) ∧
      (inOpenBuffer s.myCore (line * 64) = false → o.toNat % szN sz = 0 → 0x200000 < o.toNat + szN sz → Traps i s 7 o 0)) ∧
    (inOpenBuffer s.myCore (line * 64) = false → o.toNat % szN sz = 0 → o.toNat + szN sz ≤ 0x200000 →
      (∀ rd : BitVec 5, Ready (.ldpF r rd rb sz off) r .noDir s →
        (mget false s.myCore.fe line = false → exec (.ldpF r rd rb sz off) s = .next s) ∧
        (mget false s.myCore.fe line = true → padPoison s.myCore o.toNat (szN sz) = none →
          ∃ e, Completes (.ldpF r rd rb sz off) r s e ∧
            e.me = s.me.setReg rd.toNat
              (BitVec.ofNat 64 (Spec.le (fun k => mget 0#8 s.myCore.pad (o.toNat + k)) (szN sz))) ∧
            e.myCore = { s.myCore with fe := e.myCore.fe } ∧
            (∀ l, mget false e.myCore.fe l =
              if l = line ∧ (o.toNat + szN sz) % 64 = 0 then false else mget false s.myCore.fe l))) ∧
      (∀ rs : BitVec 5, Ready (.stpE r rs rb sz off) r .noDir s →
        (mget false s.myCore.fe line = true → exec (.stpE r rs rb sz off) s = .next s) ∧
        (mget false s.myCore.fe line = false →
          ∃ c : Core, Completes (.stpE r rs rb sz off) r s (s.setMyCore c) ∧
            c = { s.myCore with pad := c.pad, poison := c.poison, fe := c.fe, rb := c.rb } ∧
            (∀ k, k ∈ c.poison ↔ k ∈ s.myCore.poison ∧ ¬ (o.toNat ≤ k ∧ k < o.toNat + szN sz)) ∧
            (∀ k, mget 0#8 c.pad k =
              if o.toNat ≤ k ∧ k < o.toNat + szN sz then Spec.byteOf (getR s rs.toNat) (k - o.toNat)
              else mget 0#8 s.myCore.pad k) ∧
            (∀ l, mget false c.fe l =
              if l = line ∧ (o.toNat + szN sz) % 64 = 0 then true else mget false s.myCore.fe l)))))

/-- A strong access of an address that is no multiple of its size traps with Misaligned, one whose translation fails with Memory
Fault. On the device's own memory, unpoisoned, it completes in one step: the context's held stores are performed, the bytes
at the address become what the operation gives on the old ones (CAS writes only on a match, LDA nothing), every other byte
of memory is what the context had written or memory held there, RD (but for STL) reads as the old value zero-extended and
every other register stays. On another slot it waits for the answer, with which it completes. (R79, R86, R87, R89, R165,
R166, R167, R168.) -/
def Obligations.StrongAccesses : Prop :=
  ∀ (i : Instr) (f : Spec.Strong) (s : State) (n : Nat) (ea : DWord), Spec.strongOf s i = some f → Ready i f.ring .any s →
    n = (if f.d8 then 8 else 4) → ea = getR s f.rb.toNat →
    (ea.toNat % n ≠ 0 → Traps i s 5 ea 0) ∧
    (ea.toNat % n = 0 → s.me.wait ≠ .remote → (f.op ≠ .store → s.me.loads.length < 16) →
      (f.op ≠ .load → s.me.stores.length < 32) →
      (∀ m, xlate s s.cur ea.toNat (decide (f.op ≠ .load)) (decide (f.sc = .sys)) = .fail m → Traps i s 6 ea m) ∧
      (∀ pa, xlate s s.cur ea.toNat (decide (f.op ≠ .load)) (decide (f.sc = .sys)) = .ok pa →
        (f.rel = true → pubBusy s = false) →
        (pa / 2 ^ 40 ≠ s.record.slot → ∃ u, exec i s = .next u ∧ u.me.wait = .remote ∧ u.me.ans = none ∧
          u.me.strong = some (pa, n, f.op, f.opd, f.want) ∧ u.me.pc = s.me.pc ∧ u.me.regs = s.me.regs) ∧
        (pa / 2 ^ 40 = s.record.slot → (∀ k < n, (pa + k) % 2 ^ 40 ∉ s.poison) →
          ∀ (old : BitVec (8 * n)) (new : Option (BitVec (8 * n))),
            old = BitVec.ofNat (8 * n) (Spec.le (fun k => ownByte s s.cur (pa + k)) n) →
            new = Spec.strongNew f.op old (f.opd.setWidth (8 * n)) (f.want.setWidth (8 * n)) →
            ∃ e, Completes i f.ring s e ∧
              (∀ a, memByte e a =
                match new with
                | none => ownByte s s.cur a
                | some v =>
                  if pa % 2 ^ 40 ≤ a % 2 ^ 40 ∧ a % 2 ^ 40 < pa % 2 ^ 40 + n then
                    BitVec.ofNat 8 (v.toNat / 256 ^ (a % 2 ^ 40 - pa % 2 ^ 40))
                  else ownByte s s.cur a) ∧
              (∀ k, e.me.reg k = if k ≠ 0 ∧ k = f.rd.toNat ∧ f.op ≠ .store then old.setWidth 64 else s.me.reg k) ∧
              e.me = { s.me with loads := e.me.loads, stores := [], veil := [] } ∧
              (∀ ag, ag ≠ s.cur → e.ctx ag = s.ctx ag)))) ∧
    (ea.toNat % n = 0 → s.me.wait = .remote →
      (s.me.ans = none → exec i s = .next s) ∧
      (∀ v, s.me.ans = some (.value v) → ∃ e, Completes i f.ring s e ∧ e.mem = s.mem ∧
        (∀ k, e.me.reg k = if k ≠ 0 ∧ k = f.rd.toNat ∧ f.op ≠ .store then v else s.me.reg k)))

/-- FENCE of every order but acquire, and PHASE: with nothing under way that a publish point waits for, it completes and the
context's held stores are in memory, every byte of which is then what the context had written or memory held; otherwise it
waits. FENCE of order acquire completes and leaves the held stores and memory as they are. Registers and predicates stay.
(R79, R80, R90, R169.) -/
def Obligations.FencesPublish : Prop :=
  (∀ (r : Ring) (o : Ord) (sc : Scope) (s : State) (i : Instr), (i = .fence r o sc ∧ o ≠ .acq ∨ i = .phase r sc) →
    Ready i r .any s →
    (pubBusy s = true → exec i s = .next s) ∧
    (pubBusy s = false → ∃ e, Completes i r s e ∧ (∀ a, memByte e a = ownByte s s.cur a) ∧
      e.me = { s.me with stores := [], veil := [] } ∧ (∀ ag, ag ≠ s.cur → e.ctx ag = s.ctx ag))) ∧
  (∀ (r : Ring) (sc : Scope) (s : State), Ready (.fence r .acq sc) r .any s →
    ∃ e, Completes (.fence r .acq sc) r s e ∧ e.mem = s.mem ∧ e.me = s.me)

/-- LOAD_DATA_RETURN writes the oldest load of a context to its register and changes no value that the context reads.
STORE_PERFORMED writes the oldest held store of a context to memory and changes no byte that the context sees.
PAGE_WALK_COMPLETE ends a walk: a translation fills the three buffers of the path of every agent that waits for it, which
then find it; a failure stays with the walk. REMOTE_STRONG_ACCESS hands the flits of the access, a request for its slot, to
the port of the route, or fails it when the route is down. (R67, R70, R75, R79, R81, R86, R139, R140, R423.) -/
def Obligations.AccessesCompleteInTheDevice : Prop :=
  (∀ (s : State) (ag rd : Nat) (v : DWord) (t : List Load), loadReady s = some ag →
    (s.ctx ag).loads = { rd := rd, val := some v } :: t → (rd ≠ 0 → ∀ l ∈ t, l.rd ≠ rd) →
    ∃ (e : State) (c : Ctx), exec .loadDataReturn s = .next e ∧ e = { s.setCtx ag c with shadow := e.shadow } ∧
      (rd ≠ 0 → mget 0#64 c.regs rd = v) ∧ c.loads = t ∧
      (∀ k, c.reg k = (s.ctx ag).reg k) ∧ c = { s.ctx ag with regs := c.regs, loads := c.loads }) ∧
  (∀ (s : State) (ag : Nat) (st : Store) (t : List Store), storeHeld s = some ag → (s.ctx ag).stores = st :: t →
    ∃ e, exec .storePerformed s = .next e ∧ e.ctx ag = { s.ctx ag with stores := t, veil := (e.ctx ag).veil } ∧
      (∀ pa, viewByte e ag pa = viewByte s ag pa ∧ ownByte e ag pa = ownByte s ag pa) ∧
      (∀ pa, memByte e pa = match st.bytes.reverse.find? (fun p => decide (p.1 % 2 ^ 40 = pa % 2 ^ 40)) with
        | some p => p.2
        | none => memByte s pa) ∧
      e = { s with mem := e.mem, poison := e.poison, ctxs := e.ctxs } ∧ (∀ x ∈ e.poison, x ∈ s.poison) ∧ (∀ b, b ≠ ag → e.ctx b = s.ctx b)) ∧
  (∀ (s : State) (a : List Walk) (k : Walk) (b : List Walk), splitWalks s.walks = some (a, k, b) →
    (∀ m, walk s k.ctx k.gen k.va = .inl m →
      exec .pageWalkComplete s = .next { s with walks := a ++ { k with res := some m } :: b }) ∧
    (∀ x, walk s k.ctx k.gen k.va = .inr x → ∃ e, exec .pageWalkComplete s = .next e ∧ e.walks = a ++ b ∧ e.mem = s.mem ∧
      ((∀ ag ∈ k.ags, tlbLook s (agCore ag) k.ctx k.gen k.va = none) → Tlb.hits x k.ctx k.gen k.va = true →
        ∀ ag ∈ k.ags, tlbLook e (agCore ag) k.ctx k.gen k.va = some x))) ∧
  (∀ (s : State) (ag pa n : Nat) (op : StrongOp) (a b : DWord), strongToSend s = some ag →
    (s.ctx ag).strong = some (pa, n, op, a, b) →
    (routeUp s (pa / 2 ^ 40) = false →
      exec .remoteStrongAccess s = .next (strongAnswer (s.setCtx ag { s.ctx ag with strong := none }) ag none)) ∧
    (routeUp s (pa / 2 ^ 40) = true → ∃ (e : State) (l : List Flit), exec .remoteStrongAccess s = .next e ∧
      e = l.foldl (fun x f => sendOn x (routePort (routeOf s (pa / 2 ^ 40))) f)
        { s.setCtx ag { s.ctx ag with strong := none } with preqs := e.preqs, preqCtr := s.preqCtr + 1 } ∧
      (∃ q, e.preqs = s.preqs ++ [q] ∧ q.id = s.preqCtr ∧ q.slot = pa / 2 ^ 40 ∧ q.ag = some ag ∧ q.at_ = s.cycle) ∧
      (∀ f ∈ l, f.type = 1 ∧ f.dst = pa / 2 ^ 40 ∧ f.src = s.record.slot) ∧
      l.map (fun f => f.data) = payloads ((wire [s.preqCtr, 0, pa % 2 ^ 40, n, op.num, a.toNat, b.toNat]).length / 242 + 1)
        (wire [s.preqCtr, 0, pa % 2 ^ 40, n, op.num, a.toNat, b.toNat])))

/-- Whatever state an instruction of the memory families (LD, ST, LDP, STP, LDP.F, STP.E, LDA, STL, AMO, CAS, FENCE, PHASE) or a
step that completes accesses leaves, the memory's table is in its canonical form if it was before: addresses rising, no
entry for a byte of value zero, whatever the instruction traps, waits or does. (R64, R79, R161, R165, R169.) -/
def Obligations.MemoryKeepsItsForm : Prop :=
  ∀ (i : Instr) (s t : State),
    ((∃ f, Spec.strongOf s i = some f) ∨ (∃ r a b sz p x o, i = .ld r a b sz p x o) ∨ (∃ r a b sz p o, i = .st r a b sz p o) ∨
      (∃ r a b sz p o, i = .ldp r a b sz p o) ∨ (∃ r a b sz p o, i = .stp r a b sz p o) ∨
      (∃ r a b sz o, i = .ldpF r a b sz o) ∨ (∃ r a b sz o, i = .stpE r a b sz o) ∨ (∃ r o sc, i = .fence r o sc) ∨
      (∃ r sc, i = .phase r sc) ∨ i = .loadDataReturn ∨ i = .storePerformed ∨ i = .pageWalkComplete ∨
      i = .remoteStrongAccess) →
    mwf 0#8 s.mem = true → exec i s = .next t → mwf 0#8 t.mem = true

/-- On a barrier of another context they trap with Sync State, reason Not Owned. BARA with a valid count and nothing to wait for
completes: the barrier is its context's, one arrival more or one generation more, SEEN takes the generation and every held
store is in memory; BARW arrives the same way and waits with PEND; it completes when its generation has, giving RB that
generation. BARWA picks the next of its barriers after ROT that has completed, or waits. BARINIT sets DEFCNT and
BARINIT.FREE frees a barrier with no arrivals and no waiters. Other barriers stay. (R237, R239, R240, R244, R245, R246,
R251, R253.) -/
def Obligations.BarrierInstructions : Prop :=
  ∀ (r : Ring) (ra num rb : BitVec 5) (s : State) (cl b ctx : Nat) (x : Barrier) (c want : Nat),
    cl = devCluster (agCore s.cur) → b = num.toNat → ctx = (ctxOf s s.cur).1 → x = s.bar cl b →
    c = (getR s ra.toNat).toNat → want = (if x.expect = 0 then (if c ≠ 0 then c else x.defcnt) else x.expect) →
    (agEng s.cur = .ex → fpDelivers s.myCore = false) →
    (∀ i : Instr, (i = .bara r ra num ∨ (i = .barw r ra num rb ∧ ¬(s.me.pend = true ∧ s.me.pnum = b)) ∨
        i = .barinit r ra num ∨ i = .barinitFree r num) → Ready i r .sync s → x.free = false → x.owner ≠ ctx →
      Traps i s 0x13 (BitVec.ofNat 64 (0x100 + b)) 0) ∧
    (x.free = true ∨ x.owner = ctx →
      (c ≤ 255 → want ≠ 0 → (x.expect = 0 ∨ c = 0 ∨ c = x.expect) → pubBusy s = false →
        ∀ y : Barrier, y = { x with
            free := false, owner := ctx,
            gen := (if x.arr + 1 = want then x.gen + 1#16 else x.gen),
            arr := (if x.arr + 1 = want then 0 else x.arr + 1), expect := (if x.arr + 1 = want then 0 else want) } →
          (Ready (.bara r ra num) r .sync s → ∃ e, Completes (.bara r ra num) r s e ∧ e.bar cl b = y ∧
            (∀ k, k ≠ cl → e.clus k = s.clus k) ∧ (∀ n, n ≠ b → e.bar cl n = s.bar cl n) ∧
            (∀ a, memByte e a = ownByte s s.cur a) ∧
            e.me = { s.me with stores := [], veil := [], seen := mput 0#16 s.me.seen b x.gen }) ∧
          (Ready (.barw r ra num rb) r .sync s → ¬(s.me.pend = true ∧ s.me.pnum = b) →
            ∃ u, exec (.barw r ra num rb) s = .next u ∧ u.bar cl b = y ∧ (∀ n, n ≠ b → u.bar cl n = s.bar cl n) ∧
              u.me = { s.me with stores := [], veil := [], pend := true, pnum := b, pgen := x.gen } ∧
              (∀ a, memByte u a = ownByte s s.cur a))) ∧
      (Ready (.barinit r ra num) r .sync s → c ≤ 255 → x.arr = 0 → waiters s cl b = 0 →
        ∃ e, Completes (.barinit r ra num) r s e ∧ e.bar cl b = { x with free := false, owner := ctx, defcnt := c } ∧
          (∀ n, n ≠ b → e.bar cl n = s.bar cl n) ∧ e.ctxs = s.ctxs ∧ e.mem = s.mem) ∧
      (Ready (.barinitFree r num) r .sync s → x.arr = 0 → waiters s cl b = 0 →
        ∃ e, Completes (.barinitFree r num) r s e ∧
          e.bar cl b = { x with free := true, owner := 0, defcnt := 0, expect := 0 } ∧
          (∀ n, n ≠ b → e.bar cl n = s.bar cl n) ∧ e.ctxs = s.ctxs ∧ e.mem = s.mem)) ∧
    (Ready (.barw r ra num rb) r .sync s → s.me.pend = true → s.me.pnum = b →
      (x.gen = s.me.pgen → exec (.barw r ra num rb) s = .next s) ∧
      (x.gen ≠ s.me.pgen → Completes (.barw r ra num rb) r s
        (setR (s.setMe { s.me with pend := false, seen := mput 0#16 s.me.seen b x.gen }) rb.toNat (s.me.pgen.setWidth 64)))) ∧
    (∀ base : BitVec 2, Ready (.barwa r ra base rb) r .sync s → 1 ≤ c → c ≤ 255 →
      (∀ k < 8, c.testBit k = true → (s.bar cl (base.toNat * 8 + k)).free = false ∧ (s.bar cl (base.toNat * 8 + k)).owner = ctx) →
      (∀ k j, k < 8 → c.testBit k = true → j < 8 → k = (s.me.rot + 1 + j) % 8 →
        (s.bar cl (base.toNat * 8 + k)).gen ≠ mget 0#16 s.me.seen (base.toNat * 8 + k) →
        (∀ l < j, c.testBit ((s.me.rot + 1 + l) % 8) = true →
          (s.bar cl (base.toNat * 8 + (s.me.rot + 1 + l) % 8)).gen
            = mget 0#16 s.me.seen (base.toNat * 8 + (s.me.rot + 1 + l) % 8)) →
        ∃ e, Completes (.barwa r ra base rb) r s e ∧
          e.me = Ctx.setReg { s.me with
              rot := k, seen := mput 0#16 s.me.seen (base.toNat * 8 + k) (s.bar cl (base.toNat * 8 + k)).gen } rb.toNat
            (BitVec.ofNat 64 (base.toNat * 8 + k)) ∧ e.clusters = s.clusters ∧ e.mem = s.mem) ∧
      ((∀ k < 8, c.testBit k = true →
          (s.bar cl (base.toNat * 8 + k)).gen = mget 0#16 s.me.seen (base.toNat * 8 + k)) →
        exec (.barwa r ra base rb) s = .next (s.setMe { s.me with wait := .barwa (base.toNat * 8) c })))

/-- An unmapped number traps with Sync State, reason Unmapped. SEMS adds its amount to the count and publishes the held stores,
and traps with Overflow when the sum passes 65,535. SEMW and SEMWT with an empty line and enough count take the amount,
SEMWT giving 1; otherwise they join the line, SEMWT with a timeout of 0 giving 0 at once; a waiter that has been granted
completes, and a SEMWT that timed out gives 0. Amounts of 0 are 1. (R247, R248, R250, R251, R253.) -/
def Obligations.SemaphoreInstructions : Prop :=
  ∀ (r : Ring) (ra rb : BitVec 5) (v : BitVec 4) (s : State) (core n : Nat), core = agCore s.cur →
    n = (if getR s ra.toNat = 0#64 then 1 else (getR s ra.toNat).toNat) →
    (∀ i : Instr, i = .sems r ra v ∨ (i = .semw r ra v ∧ (∀ p, s.me.wait ≠ .sem p)) ∨
        (i = .semwt r ra v rb ∧ (∀ p d, s.me.wait ≠ .semt p d)) → Ready i r .sync s →
      physSem s (ctxOf s s.cur).1 v.toNat = none → Traps i s 0x13 (BitVec.ofNat 64 (0x700 + v.toNat)) 0) ∧
    (∀ p x, physSem s (ctxOf s s.cur).1 v.toNat = some p → n ≤ 65535 → x = s.sem core p →
      (Ready (.sems r ra v) r .sync s →
        (65535 < x.count + n → Traps (.sems r ra v) s 0x13 (BitVec.ofNat 64 (0x600 + v.toNat)) 0) ∧
        (x.count + n ≤ 65535 → ∃ e, Completes (.sems r ra v) r s e ∧ e.sem core p = { x with count := x.count + n } ∧
          (∀ q, q ≠ p → e.sem core q = s.sem core q) ∧ e.me = { s.me with stores := [], veil := [] } ∧
          (∀ a, memByte e a = ownByte s s.cur a))) ∧
      (Ready (.semw r ra v) r .sync s → (∀ q, s.me.wait ≠ .sem q) →
        (x.ovf = true → Traps (.semw r ra v) s 0x13 (BitVec.ofNat 64 (0x600 + v.toNat)) 0) ∧
        (x.ovf = false → x.line = [] → n ≤ x.count →
          ∃ c : Core, Completes (.semw r ra v) r s (s.setMyCore c) ∧
            mget {} c.sems p = { x with count := x.count - n } ∧ (∀ q, q ≠ p → mget {} c.sems q = s.sem core q)) ∧
        (x.ovf = false → x.line ≠ [] ∨ x.count < n → ∃ u, exec (.semw r ra v) s = .next u ∧
          u.sem core p = { x with line := x.line ++ [(s.cur, n)] } ∧ u.me = { s.me with wait := .sem p })) ∧
      (Ready (.semwt r ra v rb) r .sync s → (∀ q d, s.me.wait ≠ .semt q d) → x.ovf = false →
        (getR s rb.toNat).toNat < 2 ^ 32 →
        (x.line = [] → n ≤ x.count →
          ∃ c : Core, Completes (.semwt r ra v rb) r s (setR (s.setMyCore c) ra.toNat 1#64) ∧
            mget {} c.sems p = { x with count := x.count - n }) ∧
        (x.line ≠ [] ∨ x.count < n →
          (getR s rb.toNat = 0#64 → Completes (.semwt r ra v rb) r s (setR s ra.toNat 0#64)) ∧
          (getR s rb.toNat ≠ 0#64 → ∃ u, exec (.semwt r ra v rb) s = .next u ∧
            u.sem core p = { x with line := x.line ++ [(s.cur, n)] } ∧
            u.me = { s.me with wait := .semt p (s.cycle + (getR s rb.toNat).toNat) })))) ∧
    (∀ p, Ready (.semw r ra v) r .sync s → s.me.wait = .sem p → s.me.ans = some .granted → Completes (.semw r ra v) r s s) ∧
    (∀ p d, Ready (.semwt r ra v rb) r .sync s → s.me.wait = .semt p d →
      (s.me.ans = some .granted → Completes (.semwt r ra v rb) r s (setR s ra.toNat 1#64)) ∧
      (s.me.ans = some .timeout → Completes (.semwt r ra v rb) r s (setR s ra.toNat 0#64)))

/-- BARRIER_RELEASE lets a waiting BARW or BARWA issue. SEMAPHORE_GRANT gives the first waiter of a line its amount: a member is
told that it is granted, the matrix queue's head has its wait met; the others stay in line. SEMWT_TIMEOUT takes a waiter
whose cycles are over out of its line and tells it so, where nothing can be granted. BARSTATE_WRITE and SEMSTATE_WRITE set
the selected barrier's fields and the selected semaphore's count, clearing OVF where a 1 is written. (R238, R244, R245,
R248, R249, R250, R435, R436.) -/
def Obligations.SynchroniserSteps : Prop :=
  (∀ (s : State) (ag : Nat) (r : Ring) (ra num rb : BitVec 5), toRelease s = some ag →
    (fetched s ag = some (.barw r ra num rb) → Ready (.barw r ra num rb) r .sync { s with cur := ag } →
      (agEng ag = .ex → fpDelivers (s.core (agCore ag)) = false) →
      ∃ e t, exec .barrierRelease s = .next t ∧ Issued r e t ∧ e.cur = ag ∧ e.me.pend = false ∧
        e.me.reg rb.toNat = (if rb = 0#5 then 0#64 else (s.ctx ag).pgen.setWidth 64) ∧ e.clusters = s.clusters ∧
        Advances (.barw r ra num rb) { s with cur := ag } t) ∧
    (∀ base : BitVec 2, fetched s ag = some (.barwa r ra base rb) →
      exec .barrierRelease s = exec (.barwa r ra base rb) { s with cur := ag })) ∧
  (∀ (s : State) (core p m n : Nat) (t : List (Nat × Nat)), toGrant s = some (core, p) → (s.sem core p).line = (m, n) :: t →
    (m ≠ 4096 → ∃ e, exec .semaphoreGrant s = .next e ∧
      e.sem core p = { s.sem core p with line := t, count := (s.sem core p).count - n } ∧
      e.ctx m = { s.ctx m with ans := some .granted } ∧ (∀ a, a ≠ m → e.ctx a = s.ctx a) ∧ e.mem = s.mem) ∧
    (m = 4096 → ∀ q qs, (s.core core).mx.queue = q :: qs → ∃ e, exec .semaphoreGrant s = .next e ∧
      e.sem core p = { s.sem core p with line := t, count := (s.sem core p).count - n } ∧
      (e.core core).mx.queue = { q with waited := true, inLine := false } :: qs ∧ e.ctxs = s.ctxs ∧ e.mem = s.mem)) ∧
  (∀ (s : State) (ag p d : Nat), toGrant s = none → lateSemwt s = some ag → (s.ctx ag).wait = .semt p d →
    ∃ e, exec .semwtTimeout s = .next e ∧ e.ctx ag = { s.ctx ag with ans := some .timeout } ∧
      (e.sem (agCore ag) p).line = (s.sem (agCore ag) p).line.filter (fun w => decide (w.1 ≠ ag)) ∧
      (e.sem (agCore ag) p).count = (s.sem (agCore ag) p).count ∧ e.mem = s.mem) ∧
  (∀ (s : State) (ag : Nat) (v : DWord) (t : List (Nat × Nat × DWord)) (d : Die), d = s.die (agDie ag) →
    (s.csrq = (ag, 0x851, v) :: t → ∃ e, exec .barstateWrite s = .next e ∧ e.csrq = t ∧
      e.bar (agDie ag * 24 + d.barsel / 256) (d.barsel % 32)
        = { gen := v.extractLsb' 48 16, arr := v.toNat / 2 ^ 40 % 256, expect := v.toNat / 2 ^ 32 % 256,
            defcnt := v.toNat / 2 ^ 24 % 256, free := v.getLsbD 7, owner := v.toNat % 64 } ∧ e.ctxs = s.ctxs) ∧
    (s.csrq = (ag, 0x853, v) :: t → ∃ e, exec .semstateWrite s = .next e ∧ e.csrq = t ∧
      (e.sem (d.semsel / 256) (d.semsel % 16)).count = v.toNat % 65536 ∧
      (e.sem (d.semsel / 256) (d.semsel % 16)).ovf
        = ((s.sem (d.semsel / 256) (d.semsel % 16)).ovf && !v.getLsbD 16) ∧ e.ctxs = s.ctxs))

/-- LFSR_WRITE sets the generator of the writer's core to bits [31:0], or to 1 for zero. EVHEAD_WRITE sets the Director's
consumed count. MONCFG_WRITE configures the selected monitor, keeping the defined bits, and clears its data. MONEDGE_WRITE
sets its edges, a width of 0 as 1, and clears its data. Each takes the write from the front of the queue and changes no
context and no memory. (R55, R56, R435, R437, R483, R486.) -/
def Obligations.RegisterWritesThatAreSteps : Prop :=
  ∀ (s : State) (ag : Nat) (v : DWord) (t : List (Nat × Nat × DWord)) (d : Die) (m : Mon), d = s.die (agDie ag) →
    m = mget {} d.mons d.monsel →
    (s.csrq = (ag, 0x017, v) :: t → ∃ e, exec .lfsrWrite s = .next e ∧ e.csrq = t ∧
      (e.core (agCore ag)).lfsr = BitVec.ofNat 32 (max 1 (v.toNat % 2 ^ 32)) ∧
      (∀ n, n ≠ agCore ag → e.core n = s.core n) ∧ e.ctxs = s.ctxs ∧ e.mem = s.mem) ∧
    (s.csrq = (ag, 0x841, v) :: t → ∃ e, exec .evheadWrite s = .next e ∧ e.csrq = t ∧
      e.die (agDie ag) = { d with evHead := BitVec.ofNat 32 v.toNat } ∧
      (∀ n, n ≠ agDie ag → e.die n = s.die n) ∧ e.ctxs = s.ctxs ∧ e.mem = s.mem) ∧
    (s.csrq = (ag, 0xA01, v) :: t → ∃ e, exec .moncfgWrite s = .next e ∧ e.csrq = t ∧
      mget {} (e.die (agDie ag)).mons d.monsel = { cfg := v &&& 0xFFF0FF03#64, edge := m.edge } ∧
      (∀ k, k ≠ d.monsel → mget {} (e.die (agDie ag)).mons k = mget {} d.mons k) ∧ e.ctxs = s.ctxs ∧ e.mem = s.mem) ∧
    (s.csrq = (ag, 0xA02, v) :: t → ∃ e, exec .monedgeWrite s = .next e ∧ e.csrq = t ∧
      mget {} (e.die (agDie ag)).mons d.monsel = { cfg := m.cfg, edge := if v.toNat % 2 ^ 32 = 0 then v + 1#64 else v } ∧
      (∀ k, k ≠ d.monsel → mget {} (e.die (agDie ag)).mons k = mget {} d.mons k) ∧ e.ctxs = s.ctxs ∧ e.mem = s.mem)

/-- MSEND checks target, alignment and pad range in this order; else it publishes, sends its request and waits; accepted it
completes, refused it traps with Queue State. HRET publishes, makes the handler dormant and completes. MESSAGE_REQUEST lets
a request arrive, or refuses it without an accepting queue; MESSAGE_ACCEPT reserves its lines and tells the sender;
MESSAGE_PAYLOAD_COMPLETE writes the payload to the pad; HANDLER_START starts the handler at HPC with a1 to a4;
REMOTE_MESSAGE_SEND asks a remote stream's target for room. (R160, R175, R176, R177, R178, R185, R203, R204, R205, R206.) -/
def Obligations.MessagesBetweenCores : Prop :=
  (∀ (r : Ring) (rt ro : BitVec 5) (lines : BitVec 7) (he : Bool) (queue : BitVec 3) (hpc : BitVec 14) (s : State) (i : Instr)
      (t off : DWord), i = .msend r rt ro lines he queue hpc → Ready i r .noDir s → t = getR s rt.toNat → off = getR s ro.toNat →
    (383 < t.toNat → Traps i s 0x0A t 0) ∧
    (t.toNat ≤ 383 → off.toNat % 64 ≠ 0 → Traps i s 5 off 0) ∧
    (t.toNat ≤ 383 → off.toNat % 64 = 0 → 0x200000 < off.toNat + (lines.toNat + 1) * 64 → Traps i s 7 off 0) ∧
    (t.toNat ≤ 383 → off.toNat % 64 = 0 → off.toNat + (lines.toNat + 1) * 64 ≤ 0x200000 →
      (s.me.wait = .msg →
        (s.me.ans = some .accepted → ∃ c, Completes i r s (s.setMyCore c) ∧ c = { s.myCore with rb := c.rb, ckpts := c.ckpts }) ∧
        (s.me.ans = some .refused → Traps i s 0x0A t 0) ∧ (s.me.ans = none → exec i s = .next s)) ∧
      (s.me.wait ≠ .msg → pubBusy s = false → ∃ u q, exec i s = .next u ∧ u.me.wait = .msg ∧ u.me.ans = none ∧
        u.me.pc = s.me.pc ∧ (u.core t.toNat).msgs = (s.core t.toNat).msgs ++ [q] ∧ q.ag = some s.cur ∧
        q.qn = queue.toNat ∧ q.lines = lines.toNat + 1 ∧ q.he = he ∧ q.hpc = hpc.toNat ∧ q.src = agCore s.cur ∧
        q.off = off.toNat ∧ (∀ a, memByte u a = ownByte s s.cur a)))) ∧
  (∀ (r : Ring) (s : State), Ready (.hret r) r .hdl s → pubBusy s = false →
    ∃ e, Completes (.hret r) r s e ∧ e.me = { s.me with run := .idle, stores := [], veil := [] } ∧ e.myCore.hrun = none ∧
      (∀ a, memByte e a = ownByte s s.cur a) ∧ e.myCore.pad = s.myCore.pad) ∧
  (∀ (s : State) (k : Nat) (a b : List MsgReq) (q : MsgReq), mfind (fun _ c => (splitReq c c.msgs).isSome) s.cores = some k →
    splitReq (s.core k) (s.core k).msgs = some (a, q, b) →
    (queuePort (s.core k) q.qn ≠ none → ∃ e, exec .messageRequest s = .next e ∧
      e.core k = { s.core k with msgs := a ++ { q with here := true } :: b } ∧ e.ctxs = s.ctxs ∧ e.mem = s.mem) ∧
    (∀ ag, queuePort (s.core k) q.qn = none → q.ag = some ag → ∃ e, exec .messageRequest s = .next e ∧
      e.core k = { s.core k with msgs := a ++ b } ∧ e.ctx ag = { s.ctx ag with ans := some .refused } ∧ e.mem = s.mem)) ∧
  (∀ (s : State) (k i n ag skip : Nat) (q : MsgReq) (p : Port), mfind (fun _ c => (acceptable c).isSome) s.cores = some k →
    acceptable (s.core k) = some i → (s.core k).msgs[i]? = some q → q.ag = some ag → queuePort (s.core k) q.qn = some n →
    reserve ((s.core k).port n) (fmtOf (s.core k) n) q.lines = some (p, skip) →
    ∃ e m, exec .messageAccept s = .next e ∧ e.ctx ag = { s.ctx ag with ans := some .accepted } ∧
      (e.core k).port n = { p with msgs := p.msgs ++ [m] } ∧ m.first + q.lines = max p.tail q.lines ∧ m.lines = q.lines ∧
      m.data = mgetN 0#8 (s.core (agCore ag)).pad q.off (q.lines * 64) ∧ m.whole = false ∧ e.mem = s.mem) ∧
  (∀ (s : State) (k n : Nat) (m : Msg) (p : Port), findPort s (fun _ => 0) (fun c n => (arriving_ (c.port n)).isSome) = some (k, n) →
    p = (s.core k).port n → arriving_ p = some m →
    ∃ e, exec .messagePayloadComplete s = .next e ∧
      (e.core k).pad = mputN 0#8 (s.core k).pad (p.fbank * 8192 + m.first % (128 * p.banks) * 64) m.data ∧
      (e.core k).hstart.length = (s.core k).hstart.length + (if m.he then 1 else 0) ∧ e.ctxs = s.ctxs ∧ e.mem = s.mem) ∧
  (∀ (s : State) (k : Nat) (h : HStart) (t : List HStart), toStart s = some k → (s.core k).hstart = h :: t →
    ∃ e, exec .handlerStart s = .next e ∧ (e.core k).hstart = t ∧ (e.core k).hrun = some h ∧
      (e.ctx (k * 4 + 3)).run = .run ∧ (e.ctx (k * 4 + 3)).pc = h.hpc ∧ (e.ctx (k * 4 + 3)).gRem = 0 ∧
      (e.ctx (k * 4 + 3)).reg 1 = BitVec.ofNat 64 h.src ∧ (e.ctx (k * 4 + 3)).reg 2 = BitVec.ofNat 64 h.qn ∧
      (e.ctx (k * 4 + 3)).reg 3 = BitVec.ofNat 64 h.off ∧ (e.ctx (k * 4 + 3)).reg 4 = BitVec.ofNat 64 h.len ∧
      (∀ j, 5 ≤ j → (e.ctx (k * 4 + 3)).reg j = (s.ctx (k * 4 + 3)).reg j) ∧ e.mem = s.mem) ∧
  (∀ (s : State) (k n t : Nat) (p : Port), findPort s (fun c => c.drainAt) remoteReady = some (k, n) → p = (s.core k).port n →
    p.sending = none → remoteTargets k p = [t] → t ≠ k →
    ∃ e q, exec .remoteMessageSend s = .next e ∧ (e.core t).msgs = (s.core t).msgs ++ [q] ∧ q.ag = none ∧
      q.sport = some (k, n) ∧ q.src = k ∧ ((e.core k).port n).sending = some (remoteCount (s.core k) n, [t]) ∧
      e.ctxs = s.ctxs ∧ e.mem = s.mem)

/-- SOPEN, SLEV, SIND, SSRC, SREMOTE, SGO, SFORK, SMARK, SREW, SCLOSE and SBFMT whose checks pass, on the ports as the commands
before them leave them, complete and queue their command as an item for the Second with the held stores performed; with
sixteen commands queued they wait. SOPEN of an open port and the others but SBFMT and SIND on a closed port trap with Stream
State, reasons 0x01 and 0x02; SLEV, SSRC, SREMOTE and SGO of a port past SET with 0x03, of a fork with 0x04. SGO of a direct
transfer also enters its pad region in the range checker. (R190, R191, R195, R209, R218, R220, R221, R222, R223, R226, R227,
R230.) -/
def Obligations.StreamInstructionsQueueCommands : Prop :=
  ∀ (r : Ring) (s : State) (n : BitVec 5) (c : Core) (p : Port), c = projected s.myCore → p = c.port n.toNat →
    (∀ (rs1 rs2 : BitVec 5) (src : Src) (dst : Dst) (mf : BitVec 8) (rm : Rm) (sm : Bool) (qn : BitVec 3) (i : Instr) (p0 : Port),
      i = .sopen r n rs1 rs2 src dst mf rm sm qn → Ready i r .noDir s →
      p0 = { st := .set, src := src, dst := dst, mfmt := mf.toNat, rm := rm, sm := sm, qn := qn.toNat,
             base := (getR s rs1.toNat).toNat, len := (getR s rs2.toNat).toNat, owner := s.cur, octx := (ctxOf s s.cur).1,
             ogen := (ctxOf s s.cur).2 } →
      (p.st ≠ .closed → Traps i s 0x11 (BitVec.ofNat 64 (0x100 + n.toNat)) 0) ∧
      (p.st = .closed → src ≠ .msgq → badKinds src dst = false → (src = .glob ∨ src = .dcmp ∨ dst = .glob ∨ mf = 0#8) →
        (getR s rs2.toNat).toNat < 2 ^ 32 → isBankCode mf.toNat = true →
        ((src = .pad ∨ dst = .pad) → Queues i r s (.opn n.toNat p0)) ∧
        (∀ fb k q, src ≠ .pad → dst ≠ .pad → bufRec (imageOf s (agCore s.cur)) n.toNat = some (fb, k) →
          q = { p0 with fbank := fb, banks := k } → meetsOpen c (bufRange q) = false → mixedBanks c (bufRange q) = false →
          badEncode src dst mf.toNat (c.bankFmt fb) = false → Queues i r s (.opn n.toNat q)))) ∧
    (∀ i : Instr, ((∃ a b l im x, i = .slev r n a b l im x) ∨ (∃ a, i = .ssrc r n a) ∨ i = .sgo r n ∨
        (∃ a b he q h mc ch, i = .sremote r n a b he q h mc ch)) → Ready i r .noDir s →
      (p.st = .closed → Traps i s 0x11 (BitVec.ofNat 64 (0x200 + n.toNat)) 0) ∧
      (p.st ≠ .closed → p.fork = true → Traps i s 0x11 (BitVec.ofNat 64 (0x400 + n.toNat)) 0) ∧
      (p.st ≠ .closed → p.st ≠ .set → p.fork = false → Traps i s 0x11 (BitVec.ofNat 64 (0x300 + n.toNat)) 0)) ∧
    (∀ i : Instr, ((∃ f d, i = .sfork r n f d) ∨ (∃ a b m, i = .smark r n a b m) ∨ (∃ m, i = .srew r n m) ∨ i = .sclose r n) →
      Ready i r .noDir s → p.st = .closed → Traps i s 0x11 (BitVec.ofNat 64 (0x200 + n.toNat)) 0) ∧
    (p.st = .set → p.fork = false →
      (∀ (rs1 rs2 : BitVec 5) (l : BitVec 2) (im : Bool) (x : BitVec 27) (e : Nat),
        e = (if im then x.toNat else (getR s rs2.toNat).toNat) → Ready (.slev r n rs1 rs2 l im x) r .noDir s →
        (1 ≤ e ∧ e < 2 ^ 32 → Queues (.slev r n rs1 rs2 l im x) r s (.lev n.toNat l.toNat (getR s rs1.toNat).toInt e)) ∧
        (e = 0 ∨ 2 ^ 32 ≤ e → Traps (.slev r n rs1 rs2 l im x) s 0x11 (BitVec.ofNat 64 (0x600 + n.toNat)) 0)) ∧
      (∀ ip rs2 : BitVec 5, Ready (.sind r n ip rs2) r .noDir s → p.src = .glob → ip ≠ n →
        (c.port ip.toNat).st ≠ .closed → (c.port ip.toNat).dst = .index → 1 ≤ fmtOf c ip.toNat → fmtOf c ip.toNat ≤ 6 →
        Queues (.sind r n ip rs2) r s (.ind n.toNat ip.toNat (getR s rs2.toNat).toInt)) ∧
      (∀ rs1 : BitVec 5, Ready (.ssrc r n rs1) r .noDir s →
        (p.src = .dcmp → p.dst ≠ .pad → (getR s rs1.toNat).toNat ≤ 1 →
          Queues (.ssrc r n rs1) r s (.src n.toNat (getR s rs1.toNat))) ∧
        (p.src ≠ .dcmp → (p.src = .pad ∨ p.dst = .pad) → (getR s rs1.toNat).toNat < 0x200000 →
          (getR s rs1.toNat).toNat % 64 = 0 → Queues (.ssrc r n rs1) r s (.src n.toNat (getR s rs1.toNat)))) ∧
      (∀ (rs1 rs2 : BitVec 5) (he : Bool) (q : BitVec 3) (hpc : BitVec 14) (mc : Bool) (ch : BitVec 3),
        Ready (.sremote r n rs1 rs2 he q hpc mc ch) r .noDir s → p.dst = .remote →
        (mc = false → (getR s rs1.toNat).toNat ≤ 383) →
        (mc = true → 1 ≤ (getR s rs2.toNat).toNat ∧ (getR s rs2.toNat).toNat ≤ 255) →
        Queues (.sremote r n rs1 rs2 he q hpc mc ch) r s (.rem n.toNat (BitVec.ofNat 64
          ((if mc then (getR s rs2.toNat).toNat * 2 ^ 9 + 2 ^ 38 else (getR s rs1.toNat).toNat) + q.toNat * 2 ^ 17
            + (if he then 2 ^ 20 else 0) + hpc.toNat * 2 ^ 21 + ch.toNat * 2 ^ 35)))) ∧
      (Ready (.sgo r n) r .noDir s → (p.src = .dcmp → ∀ l < 4, p.lev l = (0, 1)) → (p.dst = .remote → p.hasRem = true) →
        misItem p = none →
        (p.src ≠ .pad → p.dst ≠ .pad → Queues (.sgo r n) r s (.go n.toNat)) ∧
        (∀ lo hi, (p.src = .pad ∨ p.dst = .pad) → regionOf c p = (lo, hi) → mixedBanks c (clipRange (lo, hi)) = false →
          meetsOpen { c with ports := c.ports.filter fun x => !isDirect x.2 } (lo, hi) = false →
          badEncode p.src p.dst p.mfmt (c.bankFmt (lo / 8192)) = false →
          (isEmb (c.bankFmt (lo / 8192)) = true → p.dst = .pad → p.mfmt = 0 ∨ p.mfmt = c.bankFmt (lo / 8192)) →
          p.len ≠ 0 → hi ≤ 0x200000 → s.myCore.rngs.length < 64 → s.myCore.strq.length < 16 →
          ∃ e, Completes (.sgo r n) r s e ∧ e.myCore.strq = s.myCore.strq ++ [(s.myCore.nextId, .go n.toNat)] ∧
            e.myCore.rngs = s.myCore.rngs ++ [{ id := s.myCore.nextId, rd := if p.src = .pad then [(lo, hi)] else [],
                                                wr := if p.src = .pad then [] else [(lo, hi)] }]))) ∧
    (p.st ≠ .closed →
      (∀ (f : BitVec 5) (d : Dst), Ready (.sfork r n f d) r .noDir s → (c.port f.toNat).st = .closed → p.fork = false →
        forkOf c n.toNat = none → d ≠ .glob → d ≠ .pad → p.src ≠ .pad → p.dst ≠ .pad → badKinds p.src d = false →
        Queues (.sfork r n f d) r s (.fork n.toNat f.toNat d)) ∧
      (∀ (clr auto : Bool) (m : BitVec 2), Ready (.smark r n clr auto m) r .noDir s →
        Queues (.smark r n clr auto m) r s (.mark n.toNat m.toNat clr auto)) ∧
      (∀ m : BitVec 2, Ready (.srew r n m) r .noDir s → rewindMark c n.toNat m.toNat ≠ none →
        Queues (.srew r n m) r s (.rew n.toNat m.toNat)) ∧
      (Ready (.sclose r n) r .noDir s → Queues (.sclose r n) r s (.close n.toNat))) ∧
    (∀ (rs : BitVec 5) (code : BitVec 8), Ready (.sbfmt r rs code) r .noDir s →
      (isBankCode code.toNat = false → Traps (.sbfmt r rs code) s 0x10 (BitVec.ofNat 64 code.toNat) 0) ∧
      (isBankCode code.toNat = true → (getR s rs.toNat).toNat ≤ 255 → bankHolder c (getR s rs.toNat).toNat = none →
        Queues (.sbfmt r rs code) r s (.bfmt (getR s rs.toNat).toNat code.toNat)))

/-- SSAVE, SREST and SFLUSH whose checks pass queue a command and wait for its effect, and complete once they are told of it:
SFLUSH when, besides, all written up to its position has left or the opening has ended; SREST traps with Stream State,
reason 0x01 where its queue number is in use and 0x08 where its record is refused, at issue or at its effect. SSTAT writes
the port's word, 0 for a closed one, and waits for pending commands. SMERGE whose ports are as it needs completes with its
command queued and a reservation for its reply, or waits while a merge is queued or runs. (R190, R203, R214, R215, R218,
R229, R231, R232, R234, R207.) -/
def Obligations.StreamInstructionsThatActThemselves : Prop :=
  (∀ (r : Ring) (n rs : BitVec 5) (keep : Bool) (s : State) (off : DWord), Ready (.ssave r n rs keep) r .noDir s →
    off = getR s rs.toNat →
    (s.me.wait = .rec_ n.toNat → (s.me.ans = none → exec (.ssave r n rs keep) s = .next s) ∧
      (s.me.ans ≠ none → Completes (.ssave r n rs keep) r s s)) ∧
    (s.me.wait ≠ .rec_ n.toNat → ((projected s.myCore).port n.toNat).st ≠ .closed → off.toNat % 64 = 0 →
      off.toNat + 192 ≤ 0x200000 →
      (∀ x ∈ (projected s.myCore).ports, x.2.st = .closed ∨ x.2.fork = true ∨ isDirect x.2 = true
        ∨ setsMeet [(off.toNat, off.toNat + 192)] [bufRange x.2] = false) →
      (16 ≤ s.myCore.strq.length → exec (.ssave r n rs keep) s = .next s) ∧
      (s.myCore.strq.length < 16 → ∃ u, exec (.ssave r n rs keep) s = .next u ∧
        u.myCore.strq = s.myCore.strq ++ [(s.myCore.nextId, .save n.toNat off.toNat keep s.cur)] ∧
        u.me = { s.me with stores := [], veil := [], wait := .rec_ n.toNat, ans := none } ∧
        ∀ a, memByte u a = ownByte s s.cur a))) ∧
  (∀ (r : Ring) (n rs : BitVec 5) (s : State) (off : DWord) (l : List Byte) (c : Core), Ready (.srest r n rs) r .noDir s →
    off = getR s rs.toNat → c = projected s.myCore → l = mgetN 0#8 s.myCore.pad off.toNat 192 →
    (s.me.wait = .rec_ n.toNat → (s.me.ans = none → exec (.srest r n rs) s = .next s) ∧
      (s.me.ans = some .refused → Traps (.srest r n rs) s 0x11 (BitVec.ofNat 64 (0x800 + n.toNat)) 0) ∧
      (s.me.ans = some .accepted → Completes (.srest r n rs) r s s)) ∧
    (s.me.wait ≠ .rec_ n.toNat →
      ((c.port n.toNat).st ≠ .closed → Traps (.srest r n rs) s 0x11 (BitVec.ofNat 64 (0x100 + n.toNat)) 0) ∧
      ((c.port n.toNat).st = .closed →
        (off.toNat % 64 ≠ 0 → Traps (.srest r n rs) s 5 off 0) ∧
        (off.toNat % 64 = 0 → 0x200000 < off.toNat + 192 → Traps (.srest r n rs) s 7 off 0) ∧
        (off.toNat % 64 = 0 → off.toNat + 192 ≤ 0x200000 →
          (∀ x ∈ c.ports, x.2.st = .closed ∨ x.2.fork = true ∨ isDirect x.2 = true
            ∨ setsMeet [(off.toNat, off.toNat + 192)] [bufRange x.2] = false) →
          (recQueueUsed c l = true → Traps (.srest r n rs) s 0x11 (BitVec.ofNat 64 (0x100 + n.toNat)) 0) ∧
          (recQueueUsed c l = false →
            (recBad (imageOf s (agCore s.cur)) n.toNat l = true
                ∨ restoreRec c n.toNat l s.cur (ctxOf s s.cur).1 (ctxOf s s.cur).2 s.myCore.nextId = none →
              Traps (.srest r n rs) s 0x11 (BitVec.ofNat 64 (0x800 + n.toNat)) 0) ∧
            (recBad (imageOf s (agCore s.cur)) n.toNat l = false →
              restoreRec c n.toNat l s.cur (ctxOf s s.cur).1 (ctxOf s s.cur).2 s.myCore.nextId ≠ none →
              s.myCore.strq.length < 16 → s.myCore.rngs.length < 64 → ∃ u, exec (.srest r n rs) s = .next u ∧
                u.myCore.strq = s.myCore.strq
                  ++ [(s.myCore.nextId, .rest n.toNat l s.cur (ctxOf s s.cur).1 (ctxOf s s.cur).2)] ∧
                u.me = { s.me with stores := [], veil := [], wait := .rec_ n.toNat, ans := none } ∧
                ∀ a, memByte u a = ownByte s s.cur a)))))) ∧
  (∀ (r : Ring) (n rd : BitVec 5) (s : State), Ready (.sstat r n rd) r .noDir s →
    (pendingFor s.myCore n.toNat = true → exec (.sstat r n rd) s = .next s) ∧
    (pendingFor s.myCore n.toNat = false →
      Completes (.sstat r n rd) r s (setR s rd.toNat (sstatWord s.myCore n.toNat)) ∧
      (isOpen s.myCore n.toNat = false → sstatWord s.myCore n.toNat = 0#64))) ∧
  (∀ (r : Ring) (n : BitVec 5) (s : State), Ready (.sflush r n) r .noDir s →
    (s.me.wait = .port n.toNat →
      (s.me.ans ≠ none → drained s.myCore n.toNat s.me.fl = true → Completes (.sflush r n) r s s) ∧
      (s.me.ans = none ∨ drained s.myCore n.toNat s.me.fl = false → exec (.sflush r n) s = .next s)) ∧
    (s.me.wait ≠ .port n.toNat → ((projected s.myCore).port n.toNat).st ≠ .closed → s.myCore.strq.length < 16 →
      ∃ u, exec (.sflush r n) s = .next u ∧ u.myCore.strq = s.myCore.strq ++ [(s.myCore.nextId, .flush n.toNat s.cur)] ∧
        u.me = { s.me with stores := [], veil := [], wait := .port n.toNat, ans := none } ∧
        ∀ a, memByte u a = ownByte s s.cur a)) ∧
  (∀ (r : Ring) (ok ka kb oa ob : BitVec 5) (uni strict eoa eob eok : Bool) (tag : BitVec 16) (s : State) (i : Instr) (c : Core)
      (outs : List (BitVec 5)), i = .smerge r ok ka kb oa uni strict ob eoa eob eok tag → Ready i r .noDir s →
    c = projected s.myCore → outs = (if eok then [ok] else []) ++ (if eoa then [oa] else []) ++ (if eob then [ob] else []) →
    (∀ n : BitVec 5, n = ka ∨ n = kb → (c.port n.toNat).st ≠ .closed ∧ (c.port n.toNat).dst = .merge ∧
      1 ≤ fmtOf c n.toNat ∧ fmtOf c n.toNat ≤ 6) →
    (∀ n ∈ outs, (c.port n.toNat).st ≠ .closed ∧ (c.port n.toNat).src = .merge ∧
      (c.port n.toNat).fork = false ∧ fmtOf c n.toNat ≤ 6) → ([ka, kb] ++ outs).Nodup →
    (s.myCore.merge ≠ none ∨ (∃ x ∈ s.myCore.strq, ∃ m, x.2 = .merge m) ∨ 16 ≤ s.myCore.strq.length
      ∨ 32 ≤ s.myCore.rpl.length + s.myCore.resv.length → exec i s = .next s) ∧
    (s.myCore.merge = none → (∀ x ∈ s.myCore.strq, ∀ m, x.2 ≠ .merge m) → s.myCore.strq.length < 16 →
      s.myCore.rpl.length + s.myCore.resv.length < 32 →
      ∃ (e : State) (m : Merge), Completes i r s e ∧ e.myCore.resv = s.myCore.resv ++ [tag.toNat] ∧
        e.myCore.strq = s.myCore.strq ++ [(s.myCore.nextId, .merge m)] ∧ e.myCore.secq = s.myCore.secq ++ [s.myCore.nextId] ∧
        m.ok = ok.toNat ∧ m.ka = ka.toNat ∧ m.kb = kb.toNat ∧ m.oa = oa.toNat ∧ m.ob = ob.toNat ∧ m.eok = eok ∧ m.eoa = eoa ∧
        m.eob = eob ∧ m.uni = uni ∧ m.strict = strict ∧ m.n = 0 ∧ m.ia = 0 ∧ m.ib = 0 ∧ m.tag = tag.toNat ∧
        e.me = { s.me with stores := [], veil := [] } ∧ ∀ a, memByte e a = ownByte s s.cur a))

/-- STREAM_COMMAND_EFFECT applies the oldest command that is ready: SOPEN opens its port, SGO makes it run, SMARK marks DP, SLEV
sets a level, SSRC, SREMOTE and SIND their fields, SFORK opens a fork, SBFMT sets a bank's format, SSAVE writes the record
and closes the port, SREST restores one, SFLUSH notes what to drain, SMERGE starts the merge unit; the last three but
SMERGE, and SSAVE, tell the context that waits. STREAM_FILL_ITEM brings in an item of a running port and counts it, or stops
the port in FAULT when the translation fails. STREAM_DRAIN_ITEM enters a raw code into the scale queue, or closes a port
that has drained. DECOMPRESS_BLOCK spreads the packed elements over the ones of the mask. MERGE_STEP takes the smaller head,
or both when equal. (R24, R190, R197, R198, R200, R207, R209, R212, R230, R235.) -/
def Obligations.StepsOfTheStreamEngine : Prop :=
  (∀ (s : State) (k id : Nat) (cmd : StrCmd) (t : List (Nat × StrCmd)), mfind (fun _ c => strReady c) s.cores = some k →
    (s.core k).strq = (id, cmd) :: t →
    ∃ (e : State) (c : Core), exec .streamCommandEffect s = .next e ∧ e.core k = { c with msgs := (e.core k).msgs } ∧ c.strq = t ∧
      e.mem = s.mem ∧
      (∀ n v, cmd = .opn n v → c.port n = { v with inst := id }) ∧
      (∀ n, cmd = .go n → (c.port n).st = if ((s.core k).port n).fend then .done else .run) ∧
      (∀ n v, cmd = .src n v → (c.port n).param = v) ∧ (∀ n v, cmd = .rem n v → (c.port n).remote = v) ∧
      (∀ n i v, cmd = .ind n i v → (c.port n).ind = true ∧ (c.port n).iport = i ∧ (c.port n).istride = v) ∧
      (∀ n f d, cmd = .fork n f d → (c.port f).st = .run ∧ (c.port f).fork = true ∧ (c.port f).parent = n ∧
        (c.port f).dst = d ∧ (c.port f).dp = ((s.core k).port n).dp) ∧
      (∀ n off keep ag, cmd = .save n off keep ag → c.port n = {} ∧
        c.pad = mputN 0#8 (s.core k).pad off (saveRec (s.core k) n keep) ∧
        ((s.ctx ag).wait = .rec_ n → (e.ctx ag).ans = some .accepted)) ∧
      (∀ n r ag x g, cmd = .rest n r ag x g →
        (∀ v, restoreRec (s.core k) n r ag x g id = some v → c = { v with strq := t } ∧
          ((s.ctx ag).wait = .rec_ n → (e.ctx ag).ans = some .accepted)) ∧
        (restoreRec (s.core k) n r ag x g id = none → c = { s.core k with strq := t } ∧
          ((s.ctx ag).wait = .rec_ n → (e.ctx ag).ans = some .refused))) ∧
      (∀ n ag, cmd = .flush n ag → (∃ g, (c.port n).flush = some g ∧ (buf (s.core k) n).fw ≤ g) ∧
        ((s.ctx ag).wait = .port n → (e.ctx ag).ans = some .accepted ∧ (e.ctx ag).fl = flushGoal (s.core k) n)) ∧
      (∀ m, cmd = .merge m → c.merge = some (id, m)) ∧
      (∀ n l v e, cmd = .lev n l v e → mget 0 (c.port n).stride l = v ∧ mget 1 (c.port n).extent l = e) ∧
      (∀ n m a, cmd = .mark n m false a → mget 0 (c.port n).marks m = ((s.core k).port n).dp) ∧
      (∀ b f, cmd = .bfmt b f → mget 0#8 c.bfmt b = BitVec.ofNat 8 f)) ∧
  (∀ (s : State) (k n : Nat) (p : Port), findPort s (fun c => c.fillAt) fillReady = some (k, n) → p = (s.core k).port n →
    p.src = .glob → p.ind = false →
    (p.len ≠ 0 → p.len ≤ p.fp → ∃ e, exec .streamFillItem s = .next e ∧ e.mem = s.mem ∧ ((e.core k).port n).fend = true) ∧
    (∀ m v u, xlateEngN (s.setCore k { s.core k with fillAt := n }) k p.octx p.ogen (patAddr p (p.base + p.index.getD 0 * p.istride) p.fp)
          (itemSize p.mfmt) false
        = (.inl (m, v), u) → (p.len = 0 ∨ p.fp < p.len) → p.st ≠ .fault → ∃ e, exec .streamFillItem s = .next e ∧ e.mem = u.mem ∧
        ((e.core k).port n).st = .fault ∧ ((e.core k).port n).faultVa = BitVec.ofNat 64 v ∧
        ((e.core k).port n).faultMfc = m) ∧
    (∀ pas u, xlateEngN (s.setCore k { s.core k with fillAt := n }) k p.octx p.ogen (patAddr p (p.base + p.index.getD 0 * p.istride) p.fp)
          (itemSize p.mfmt) false
        = (.inr pas, u) → (p.len = 0 ∨ p.fp < p.len) → ∃ e, exec .streamFillItem s = .next e ∧ e.mem = u.mem ∧ e.ctxs = u.ctxs ∧
        ((e.core k).port n).fp = p.fp + 1 ∧
        ((e.core k).port n).fend = (decide (p.len ≠ 0 ∧ p.len ≤ p.fp + 1) || p.fend))) ∧
  (∀ (s : State) (k n : Nat), findPort s (fun c => c.drainAt) drainReady = some (k, n) →
    (closeReady (s.core k) n = true → ∃ e, exec .streamDrainItem s = .next e ∧ (e.core k).port n = {} ∧ e.mem = s.mem) ∧
    (closeReady (s.core k) n = false → directDrains (s.core k) n = false → globDrains (s.core k) n = false →
      scaleDrains (s.core k) n = true → fmtOf (s.core k) n = 0 → ∃ e, exec .streamDrainItem s = .next e ∧ e.mem = s.mem ∧
        (e.core k).scq = (s.core k).scq ++
          [BitVec.ofNat 8 (elCode (s.core k) n ((positions (buf (s.core k) n).gaps ((s.core k).port n).dp 1).1.headD 0))])) ∧
  (∀ (mask n : Nat) (bs : List Byte), bs.length = ((List.range n).filter fun i => mask.testBit i).length →
    (expand 1 mask n n bs).length = n ∧
    (∀ i < n, (expand 1 mask n n bs).getD i 0#8 =
      if mask.testBit i then bs.getD ((List.range i).filter fun j => mask.testBit j).length 0#8 else 0#8)) ∧
  (∀ (s z u : State) (k n : Nat) (p : Port) (pas : List Nat), nextBlock s = some (k, n) →
    z = (s.setClus (devCluster k) { s.clus (devCluster k) with dcmpAt := (corePos k + 1) % 8 }).setCore k
      { s.core k with dcAt := n } →
    p = (s.core k).port n → p.param = 0#64 → p.dskip = 0 →
    xlateEngN z k p.octx p.ogen ((p.base + p.dpos) % 2 ^ 64) 8 false = (.inr pas, u) →
    ∀ mask, mask = leNat (pas.map (memByte u)) →
      (mask = 0 → ∃ e, exec .decompressBlock s = .next e ∧ ((e.core k).port n).block = some (List.replicate 64 0#8) ∧
        ((e.core k).port n).dpos = p.dpos + 8 ∧ e.mem = s.mem) ∧
      (∀ cnt ds w, cnt = popFrom (BitVec.ofNat 64 mask) 64 → cnt ≠ 0 →
        xlateEngN u k p.octx p.ogen (((p.base + p.dpos) % 2 ^ 64 + 8) % 2 ^ 64) cnt false = (.inr ds, w) →
        ∃ e, exec .decompressBlock s = .next e ∧
          ((e.core k).port n).block = some (expand 1 mask 64 64 (ds.map (memByte w))) ∧
          ((e.core k).port n).dpos = p.dpos + 8 + cnt ∧ e.mem = s.mem)) ∧
  (∀ (s : State) (k id : Nat) (m : Merge) (a b : Int), mfind (fun _ c => (mergeStepOf c).isSome) s.cores = some k →
    (s.core k).merge = some (id, m) → matched (s.core k) id = true → mergeRoom (s.core k) m = true →
    mergeHead (s.core k) m.ka m.strict m.prevA = .el a → mergeHead (s.core k) m.kb m.strict m.prevB = .el b →
    ∃ e, exec .mergeStep s = .next e ∧ e.mem = s.mem ∧ e.ctxs = s.ctxs ∧
      (e.core k).merge = some (id,
        if a < b then { m with ia := m.ia + 1, prevA := some a, n := m.n + (if m.uni then 1 else 0) }
        else if b < a then { m with ib := m.ib + 1, prevB := some b, n := m.n + (if m.uni then 1 else 0) }
        else { m with ia := m.ia + 1, prevA := some a, ib := m.ib + 1, prevB := some b, n := m.n + 1 }))

/-- GTBIND of a valid descriptor to an unbound handle, and with V = 0 of a bound one, GTSWAP, GSYNC, GATH, GATHP, SCAT and SCATA
whose checks pass complete and enter their command, with a reply reservation but for GTBIND, their ranges in the range
checker and the held stores performed, and wait while there is no room for one of these. What a handle is bound to is read
as the GTBINDs that have issued leave it. GTBIND traps with Gather State where the handle's state does not fit it (0x01,
0x02), the table identifier is in use (0x02), 512 generations are held (0x08) or the descriptor is bad (0x03); GTSWAP at 512
generations with 0x08, for a bad or unfit descriptor with 0x03, for a generation number in use with 0x07; the others of an
unbound handle with 0x01, GSYNC of a table without order with 0x06, tags past 65535 with 0x04. (The reading of a handle as
the GTBINDs before leave it is the model's, log 35.) (R332, R335, R336, R341, R342, R343, R344, R345, R346, R348, R354.) -/
def Obligations.GatherInstructions : Prop :=
  ∀ (r : Ring) (h rs1 rs2 : BitVec 5) (s : State) (ctx : Nat) (x : Option Desc) (o t : Nat) (b : List Byte) (d : Desc),
    ctx = (ctxOf s s.cur).1 → x = curOf s ctx h.toNat → o = (getR s rs1.toNat).toNat → t = (getR s rs2.toNat).toNat →
    b = mgetN 0#8 s.myCore.pad o 64 → d = descOf b →
    (o % 64 = 0 → o + 64 ≤ 0x200000 →
      (Ready (.gtbind r h rs1) r .noDir s → d.v = true → x = none →
        (d.dist ≠ 0 ∧ tidUsed s d.tid = true → Traps (.gtbind r h rs1) s 0x12 (BitVec.ofNat 64 (0x200 + h.toNat)) 0) ∧
        ((d.dist ≠ 0 → tidUsed s d.tid = false) →
          (512 ≤ heldCount s → Traps (.gtbind r h rs1) s 0x12 (BitVec.ofNat 64 (0x800 + h.toNat)) 0) ∧
          (heldCount s < 512 →
            (descBad s.record.slot b = true → Traps (.gtbind r h rs1) s 0x12 (BitVec.ofNat 64 (0x300 + h.toNat)) 0) ∧
            (descBad s.record.slot b = false →
              Gathers (.gtbind r h rs1) r s false [] [] (mkG s (.bind (some d)) d.home h.toNat 0 0 0 0))))) ∧
      (∀ c, Ready (.gtbind r h rs1) r .noDir s → d.v = true → x = some c →
        Traps (.gtbind r h rs1) s 0x12 (BitVec.ofNat 64 (0x200 + h.toNat)) 0) ∧
      (Ready (.gtbind r h rs1) r .noDir s → d.v = false →
        (x = none → Traps (.gtbind r h rs1) s 0x12 (BitVec.ofNat 64 (0x100 + h.toNat)) 0) ∧
        (∀ c, x = some c → Gathers (.gtbind r h rs1) r s false [] [] (mkG s (.bind none) c.home h.toNat 0 0 0 0))) ∧
      (∀ c, Ready (.gtswap r h rs1 rs2) r .noDir s → t ≤ 65535 → x = some c →
        (512 ≤ heldCount s → Traps (.gtswap r h rs1 rs2) s 0x12 (BitVec.ofNat 64 (0x800 + h.toNat)) 0) ∧
        (heldCount s < 512 →
          (d.v = false ∨ descBad s.record.slot b = true ∨ swapDiffers c d = true →
            Traps (.gtswap r h rs1 rs2) s 0x12 (BitVec.ofNat 64 (0x300 + h.toNat)) 0) ∧
          (d.v = true → descBad s.record.slot b = false → swapDiffers c d = false →
            (d.gen = c.gen → Traps (.gtswap r h rs1 rs2) s 0x12 (BitVec.ofNat 64 (0x700 + h.toNat)) 0) ∧
            (d.gen ≠ c.gen → (∀ p, (handleOf s ctx h.toNat).old = some p → d.gen ≠ p.gen) →
              Gathers (.gtswap r h rs1 rs2) r s true [] [] (mkG s (.swap d) c.home h.toNat t 0 0 0)))))) ∧
    (Ready (.gtswap r h rs1 rs2) r .noDir s → t ≤ 65535 → x = none →
      Traps (.gtswap r h rs1 rs2) s 0x12 (BitVec.ofNat 64 (0x100 + h.toNat)) 0) ∧
    (Ready (.gsync r h rs2) r .noDir s →
      (65535 < t → Traps (.gsync r h rs2) s 0x12 (BitVec.ofNat 64 (0x400 + h.toNat)) 0) ∧
      (t ≤ 65535 →
        (x = none → Traps (.gsync r h rs2) s 0x12 (BitVec.ofNat 64 (0x100 + h.toNat)) 0) ∧
        (∀ c, x = some c → (c.ordered = true →
            Gathers (.gsync r h rs2) r s true [] [] (mkG s .sync c.home h.toNat t 0 0 0)) ∧
          (c.ordered = false → Traps (.gsync r h rs2) s 0x12 (BitVec.ofNat 64 (0x600 + h.toNat)) 0)))) ∧
    (∀ (ri rn rf rp : BitVec 5) (fz : Bool) (tag : BitVec 16) (c : Core) (q : Desc) (n i0 f y : Nat) (fa : Nat × Nat),
      c = projected s.myCore → x = some q → i0 = (getR s ri.toNat).toNat → f = (getR s rf.toNat).toNat →
      y = (getR s rp.toNat).toNat → fa = (f, f + 64 * ((n + 511) / 512 + 1)) → meetsOpen c fa = false →
      i0 % 4 = 0 → i0 + 4 * n ≤ 0x200000 → f % 64 = 0 → fa.2 ≤ 0x200000 →
      (1 ≤ n → n ≤ 4096 → (getR s rn.toNat).toNat = n →
        (∀ port : BitVec 5, Ready (.gath r ri rn rf h false port 0#5 fz tag) r .noDir s → badGathPort c port.toNat = false →
          pendingOn s.myCore port.toNat = false →
          Gathers (.gath r ri rn rf h false port 0#5 fz tag) r s true [(i0, i0 + 4 * n)] [fa]
            (mkG s (.gath false fz port.toNat) q.home h.toNat tag.toNat n i0 f)) ∧
        (∀ dr, Ready (.gath r ri rn rf h true 0#5 rp fz tag) r .noDir s → dr = gathDest c q y n → y % 64 = 0 → dr.2 ≤ 0x200000 →
          mixedBanks c (clipRange dr) = false → isEmb (c.bankFmt (y / 8192)) = false → meetsOpen c dr = false →
          setsMeet [fa] [dr] = false →
          Gathers (.gath r ri rn rf h true 0#5 rp fz tag) r s true [(i0, i0 + 4 * n)] [fa, dr]
            (mkG s (.gath true fz y) q.home h.toNat tag.toNat n i0 f)) ∧
        (∀ (add : Bool) (sr : Nat × Nat) (i : Instr), i = (if add then .scata r ri rn rf h rp tag else .scat r ri rn rf h rp tag) →
          Ready i r .noDir s → isEmb q.rcode = false → (add = true → q.rcode ≠ 0) →
          sr = srcRange (c.bankFmt (y / 8192)) q y (n * q.rlen) → y % 64 = 0 → sr.2 ≤ 0x200000 →
          meetsOpen c sr = false → mixedBanks c (clipRange sr) = false →
          Gathers i r s true [(i0, i0 + 4 * n), sr] [fa]
            (mkG s (if add then .scata y else .scat y) q.home h.toNat tag.toNat n i0 f))) ∧
      (∀ (mean : Bool) (port : BitVec 5) (nb : Nat), 1 ≤ n → n ≤ 4096 → 1 ≤ nb → nb ≤ 4096 →
        (getR s rn.toNat).toNat = nb * 65536 + n → Ready (.gathp r ri rn rf h mean port rp fz tag) r .noDir s → q.rcode ≠ 0 →
        badGathPort c port.toNat = false → pendingOn s.myCore port.toNat = false → y % 2 = 0 → y + 2 * nb ≤ 0x200000 →
        Gathers (.gathp r ri rn rf h mean port rp fz tag) r s true [(i0, i0 + 4 * n), (y, y + 2 * nb)] [fa]
          (mkG s (.gathp mean fz port.toNat y nb) q.home h.toNat tag.toNat n i0 f)))

/-- GATHER_ACCEPT accepts a command: a GTBIND binds its handle or unbinds it, its generations staying held; a swap installs its
generation, or waits while OLD is held; a GSYNC takes its epoch; a gather or scatter its descriptor and the next sequence
number. GATHER_ROW_RETURN and SCATTER_UPDATE read the index vector once no earlier command holds it back; then they take the
elements in turn: an index out of range faults with code 2, a row is read, an update applied or buffered.
GATHER_PEER_REQUEST answers another device's request along the route to it. PEER_UNREACHABLE marks a lost element with code
5. GSYNC_CLOSE records a CLOSE, sends this device's to every other member, holds acceptance back, or ends the epoch.
GATHER_PERFORMED gives the reply and ends the command. GENERATION_DROP drops a generation that nothing pins. (R22, R335,
R337, R338, R339, R342, R343, R347, R348, R349, R351, R352.) -/
def Obligations.StepsOfTheGatherEngine : Prop :=
  (∀ (s : State) (k : Nat) (g : GCmd) (h : Handle), nextAccept s = some (k, g) → h = handleOf s g.ctx g.handle →
    (∀ d, g.op = .bind (some d) → ∃ e, exec .gatherAccept s = .next e ∧ e.mem = s.mem ∧
      handleOf e g.ctx g.handle = { cur := some { d with uid := s.gathCtr } } ∧
      (∀ n, n ≠ g.handle → handleOf e g.ctx n = handleOf s g.ctx n) ∧
      (e.core k).gcmds = (s.core k).gcmds.filter fun x => decide (x.id ≠ g.id)) ∧
    (g.op = .bind none → ∃ e, exec .gatherAccept s = .next e ∧ e.mem = s.mem ∧ handleOf e g.ctx g.handle = {} ∧
      (∀ n, n ≠ g.handle → handleOf e g.ctx n = handleOf s g.ctx n) ∧
      (∀ d, h.cur = some d ∨ h.old = some d → ∃ y ∈ e.ghosts, y.d = d ∧ y.ctx = g.ctx ∧ y.handle = g.handle) ∧
      (e.core k).gcmds = (s.core k).gcmds.filter fun x => decide (x.id ≠ g.id)) ∧
    (∀ d, g.op = .swap d →
      (h.old = none → ∃ e, exec .gatherAccept s = .next e ∧ e.mem = s.mem ∧
        handleOf e g.ctx g.handle
          = { h with old := h.cur, cur := some { d with uid := s.gathCtr }, swap := some (g.tag, k), taken := none } ∧
        (e.core k).gcmds = (s.core k).gcmds.filter fun x => decide (x.id ≠ g.id)) ∧
      (h.old ≠ none → ∃ e, exec .gatherAccept s = .next e ∧ e.mem = s.mem ∧
        handleOf e g.ctx g.handle = { h with taken := some (k, g.id) } ∧ (e.core k).gcmds = (s.core k).gcmds)) ∧
    (g.op = .sync → ∃ e, exec .gatherAccept s = .next e ∧ e.mem = s.mem ∧
      handleOf e g.ctx g.handle = { h with sepoch := h.epoch + 1 } ∧
      (e.core k).gcmds = (s.core k).gcmds.map fun x => if x.id = g.id then { g with ep := some h.epoch } else x) ∧
    (∀ d, h.cur = some d → (isScat g.op = true ∨ isGath g.op = true) → ∃ e, exec .gatherAccept s = .next e ∧
      e.mem = s.mem ∧ handleOf e g.ctx g.handle = { h with seq := (h.seq + 1) % 2 ^ 32 } ∧
      (e.core k).gcmds = (s.core k).gcmds.map fun x =>
        if x.id = g.id then { g with acc := some (d, (h.seq + 1) % 2 ^ 32, h.sepoch), ord := s.gathCtr } else x)) ∧
  (∀ (s : State) (k : Nat) (g : GCmd) (i : Instr), canLoad (s.core k) g = true →
    (i = .gatherRowReturn ∧ s.gathRet = [] ∧ gathGo s = some (k, g) ∧ canDeliver (s.core k) g = false ∨
      i = .scatterUpdate ∧ peerWants s 2 = none ∧ scatGo s = some (k, g)) →
    ∃ e a, exec i s = .next e ∧ e.mem = s.mem ∧
      (e.core k).gcmds = ((s.core k).gcmds.map fun x => if x.id = g.id then a else x) ∧ a.rdy = true ∧ a.idx.length = g.n ∧
      (∀ j < g.n, a.idx.getD j 0 = Spec.le (fun b => mget 0#8 (s.core k).pad (g.ri + 4 * j + b)) 4)) ∧
  (∀ (s : State) (k : Nat) (g : GCmd) (d : Desc) (q ep : Nat), s.gathRet = [] → gathGo s = some (k, g) →
    canDeliver (s.core k) g = false → canLoad (s.core k) g = false → g.acc = some (d, q, ep) →
    (d.nrows ≤ g.idx.getD g.next 0 → ∃ e a, exec .gatherRowReturn s = .next e ∧ e.mem = s.mem ∧
      (e.core k).gcmds = ((s.core k).gcmds.map fun x => if x.id = g.id then a else x) ∧ a.next = g.next + 1 ∧
      mget { code := 0, mfc := 0, slot := 0, va := 0 } a.faults g.next
        = { code := 2, mfc := 0, slot := s.record.slot, va := g.idx.getD g.next 0 }) ∧
    (∀ bs u, g.idx.getD g.next 0 < d.nrows → isHere s d (ownerOf d (g.idx.getD g.next 0)).1 = true →
      readRow s g.ctx d (ownerOf d (g.idx.getD g.next 0)).2 = (.inr bs, u) → ∃ e a, exec .gatherRowReturn s = .next e ∧
      e.mem = u.mem ∧ (e.core k).gcmds = ((u.core k).gcmds.map fun x => if x.id = g.id then a else x) ∧
      a.next = g.next + 1 ∧ mget [] a.rows g.next = bs)) ∧
  (∀ (s s0 : State) (slot id w tid gen i : Nat) (t : List Nat), peerWants s 1 = some (slot, id :: w :: tid :: gen :: i :: t) →
    s0 = { s with gathIn := s.gathIn.erase (slot, id :: w :: tid :: gen :: i :: t) } → routeUp s slot = true →
    (∀ code, findBinding s tid gen = .inl code → ∃ e, exec .gatherPeerRequest s = .next e ∧ e.mem = s.mem ∧
      e.gathIn = s0.gathIn ∧ SendsOn s0 e (routePort (routeOf s slot)) (flitsOf s 2 slot [id, code, 0, 0])) ∧
    (∀ ctx h d bs u, findBinding s tid gen = .inr (ctx, h, d) → readRow s0 ctx d (ownerOf d i).2 = (.inr bs, u) →
      ∃ e, exec .gatherPeerRequest s = .next e ∧ e.mem = u.mem ∧
        SendsOn u e (routePort (routeOf u slot)) (flitsOf u 2 slot (id :: 0 :: bs.map BitVec.toNat)))) ∧
  (∀ (s : State) (q : PeerReq) (k cmd j : Nat) (g : GCmd), deadShip s = some q → q.gath = some (k, cmd, j) →
    (s.core k).gcmds.find? (fun x => decide (x.id = cmd)) = some g → ∃ e a, exec .peerUnreachable s = .next e ∧
    e.preqs = s.preqs.filter (fun x => decide (x.id ≠ q.id)) ∧
    (e.core k).gcmds = ((s.core k).gcmds.map fun x => if x.id = g.id then a else x) ∧ a.ship = mdel g.ship j ∧
    (mget { code := 0, mfc := 0, slot := 0, va := 0 } a.faults j).code = 5 ∧ e.mem = s.mem) ∧
  (∀ (s : State) (k : Nat) (g : GCmd) (d : Desc) (q ep : Nat) (u : OUpd), peerWants s 2 = none → scatGo s = some (k, g) →
    canLoad (s.core k) g = false → g.acc = some (d, q, ep) →
    (d.nrows ≤ g.idx.getD g.next 0 → ∃ e a, exec .scatterUpdate s = .next e ∧ e.mem = s.mem ∧
      (e.core k).gcmds = ((s.core k).gcmds.map fun x => if x.id = g.id then a else x) ∧ a.next = g.next + 1 ∧
      (mget { code := 0, mfc := 0, slot := 0, va := 0 } a.faults g.next).code = 2) ∧
    (g.idx.getD g.next 0 < d.nrows → (s.ctxEnt g.ctx).gen ≠ g.gen → ∃ e, exec .scatterUpdate s = .next e ∧ e.mem = s.mem ∧
      (e.core k).gcmds = ((s.core k).gcmds.map fun x => if x.id = g.id then { g with next := g.next + 1 } else x)) ∧
    (g.idx.getD g.next 0 < d.nrows → (s.ctxEnt g.ctx).gen = g.gen → isHere s d (ownerOf d (g.idx.getD g.next 0)).1 = true →
      u = { ctx := g.ctx, handle := g.handle, slot := s.record.slot, seq := q, elem := g.next, epoch := ep,
            row := g.idx.getD g.next 0, add := isAdd g.op, fmt := (srcRow (s.core k) g d g.next).1,
            data := (srcRow (s.core k) g d g.next).2, core := some k, d := d } →
      ∀ v, updateRow s u (some (g.ag, g.ctx, g.gen, g.tag)) = .inr v → ∃ e, exec .scatterUpdate s = .next e ∧ e.mem = v.mem ∧
        e.oupd = v.oupd ∧
        (e.core k).gcmds = ((v.core k).gcmds.map fun x => if x.id = g.id then { g with next := g.next + 1 } else x))) ∧
  (∀ (s : State) (slot : Nat) (data : List Nat), peerWants s 3 = some (slot, data) →
    exec .gsyncClose s = .next { s with
      gathIn := s.gathIn.erase (slot, data), oclose := s.oclose ++ [(data.getD 2 0, slot, data.getD 3 0)] }) ∧
  (∀ (s : State) (k : Nat) (g : GCmd) (d : Desc) (ep : Nat), peerWants s 3 = none → syncGo s = some (k, g) → g.ep = some ep →
    (handleOf s g.ctx g.handle).cur = some d →
    (g.next = 0 → ∃ e, exec .gsyncClose s = .next e ∧ e.mem = s.mem ∧
      (e.core k).gcmds = ((s.core k).gcmds.map fun x => if x.id = g.id then { g with next := 1 } else x) ∧
      ∀ m ∈ otherMembers s d, ∀ f ∈ flitsOf s 1 m [0, 3, d.tid, ep],
        ∃ y ∈ (e.peer (routePort (routeOf s m))).replay ++ (e.peer (routePort (routeOf s m))).txq, flitBody y = flitBody f) ∧
    (g.next = 1 → ∃ e, exec .gsyncClose s = .next e ∧ e.mem = s.mem ∧
      handleOf e g.ctx g.handle = { handleOf s g.ctx g.handle with hold := true } ∧
      (e.core k).gcmds = (s.core k).gcmds.map fun x => if x.id = g.id then { g with next := 2 } else x) ∧
    (2 ≤ g.next → ∃ e, exec .gsyncClose s = .next e ∧
      handleOf e g.ctx g.handle = { handleOf s g.ctx g.handle with epoch := ep + 1, hold := false } ∧
      (∀ u ∈ e.oupd, ¬(u.ctx = g.ctx ∧ u.handle = g.handle ∧ u.epoch = ep)))) ∧
  (∀ (s : State) (k : Nat) (g : GCmd), gathDone s = some (k, g) → g.tag ∈ (s.core k).resv →
    ∃ e w, exec .gatherPerformed s = .next e ∧ e.mem = s.mem ∧ (e.core k).rpl = (s.core k).rpl ++ [w] ∧
      w.toNat / 2 ^ 48 = g.tag % 2 ^ 16 ∧ w.toNat / 2 ^ 44 % 16 = 1 ∧ (e.core k).resv = (s.core k).resv.erase g.tag ∧
      (∀ n, g.fin = some n → w.toNat / 2 ^ 40 % 16 = 3 ∧ w.toNat % 2 ^ 40 = n % 2 ^ 40) ∧
      (g.fin = none → g.bagBad = false → g.n < 2 ^ 13 → g.rf < 2 ^ 21 →
        w.toNat % 2 ^ 13 = g.n - g.faults.length ∧ w.toNat / 2 ^ 13 % 2 ^ 27 = g.rf ∧
        w.toNat / 2 ^ 40 % 16 = (if g.faults = [] then 0 else 1)) ∧
      (e.core k).gcmds = (s.core k).gcmds.filter fun x => decide (x.id ≠ g.id)) ∧
  (∀ (s : State), (∀ g, s.ghosts.find? (fun g => !pinned s g.d) = some g → ∃ e, exec .generationDrop s = .next e ∧
      e.ghosts = s.ghosts.erase g ∧ e.mem = s.mem) ∧
    (∀ ctx h, s.ghosts.find? (fun g => !pinned s g.d) = none → oldFree s = some (ctx, h) →
      ∃ e, exec .generationDrop s = .next e ∧ handleOf e ctx h = { handleOf s ctx h with old := none, swap := none } ∧
        e.mem = s.mem))

/-- Every vector instruction but the mask instructions: a shape too large for one of its widths, or a type that FMT8 makes
illegal, is Illegal Instruction; a port operand that cannot be used is Stream State with its reason; commands pending on a
port make it wait. A poisoned element among those that it pops or the tile registers that it reads triggers a rollback, with
no other effect. With its sources available, room for its results and no poison it completes; tile registers other than its
destinations, masks but VCMP's, x registers but VEXT's, predicates, the shape, FMT8, FPCTL, other ports, memory and other
contexts stay, and FPACC only gains flags. (R202, R218, R256, R261, R262, R263, R265, R268, R280, R281.) -/
def Obligations.VectorInstructionsComplete : Prop :=
  ∀ (i : Instr) (r : Ring) (s : State) (v : Spec.Vec), Spec.vec s i = some v → Ready i r .ex s →
    ((∃ b ∈ v.widths, 16384 < s.myCore.rows * s.myCore.cols * b) ∨ v.legal = false → Traps i s 1 (word1 i) 0) ∧
    ((∀ b ∈ v.widths, s.myCore.rows * s.myCore.cols * b ≤ 16384) → v.legal = true →
      (∀ reason n, firstReason (operandReasons (projected s.myCore) v.ins v.outs) = some (reason, n) →
        Traps i s 0x11 (BitVec.ofNat 64 (reason * 256 + n)) 0) ∧
      (firstReason (operandReasons (projected s.myCore) v.ins v.outs) = none →
        ((∃ x ∈ v.ins, 32 ≤ x.f ∧ pendingOn s.myCore (x.f - 32) = true) ∨
          (∃ x ∈ v.outs, 32 ≤ x.f ∧ (pendingOn s.myCore (x.f - 32) = true ∨ gamPushes s.myCore (x.f - 32) = true)) →
          exec i s = .next s) ∧
        (∀ u, (∀ x ∈ v.ins, 32 ≤ x.f → pendingOn s.myCore (x.f - 32) = false) →
          (∀ x ∈ v.outs, 32 ≤ x.f → pendingOn s.myCore (x.f - 32) = false ∧ gamPushes s.myCore (x.f - 32) = false) →
          srcsReady s.myCore v.ins = true → dstsRoom s.myCore v.outs = true → popPoison s.myCore v.ins = some u →
          exec i s = .next (triggerPoison s s.cur u true)) ∧
        ((∀ x ∈ v.ins, 32 ≤ x.f → pendingOn s.myCore (x.f - 32) = false) →
          (∀ x ∈ v.outs, 32 ≤ x.f → pendingOn s.myCore (x.f - 32) = false ∧ gamPushes s.myCore (x.f - 32) = false) →
          srcsReady s.myCore v.ins = true → dstsRoom s.myCore v.outs = true → popPoison s.myCore v.ins = none →
          ∃ e, Completes i r s e ∧ e.mem = s.mem ∧ (∀ ag, ag ≠ s.cur → e.ctx ag = s.ctx ag) ∧
            (∀ k, k ≠ agCore s.cur → e.core k = s.core k) ∧
            e.me = { s.me with regs := e.me.regs, loads := e.me.loads, stall := none } ∧
            (∀ k, (∀ x, v.xd = some x → k ≠ x.toNat) → e.me.reg k = s.me.reg k) ∧
            e.myCore = { s.myCore with
              tiles := e.myCore.tiles, tpois := e.myCore.tpois, masks := e.myCore.masks, pad := e.myCore.pad,
              poison := e.myCore.poison, ports := e.myCore.ports,
              lfsr := e.myCore.lfsr, fpacc := e.myCore.fpacc, rb := e.myCore.rb, ckpts := e.myCore.ckpts } ∧
            s.myCore.fpacc ||| e.myCore.fpacc = e.myCore.fpacc ∧
            (∀ k, (∀ x, v.kd = some x → k ≠ x.toNat) → mget 0#4096 e.myCore.masks k = mget 0#4096 s.myCore.masks k) ∧
            (∀ b, (∀ x ∈ v.outs, x.f < 32 → b < x.f * 2048 ∨ x.f * 2048 + 2048 ≤ b) →
              mget 0#8 e.myCore.tiles b = mget 0#8 s.myCore.tiles b) ∧
            (∀ n, (∀ f, ((∃ x ∈ v.ins, x.f = f) ∨ ∃ x ∈ v.outs, x.f = f) → 32 ≤ f → n ≠ f - 32 ∧ n ≠ bufPort s.myCore (f - 32)) →
              e.myCore.port n = s.myCore.port n))))

/-- VADD, VSUB, VMUL, VMIN, VMAX, VABD, VADDS, VSUBS, VMULH, VDIV, VAND, VOR, VXOR, VSHL, VSHR, VSAR, VABS, VNEG, VNOT, VMOV
and, unmasked, VFMA and VFMS, on tile registers with an integer type: every element of the shape in the destination is what
the rules give for those of the sources as they were before, at every width and signedness, the destination being allowed to
be a source, none of them poisoned; no flag is set and no random number drawn. (R43, R261, R262, R264, R267, R268, R272.) -/
def Obligations.IntegerElements : Prop :=
  ∀ (i : Instr) (r : Ring) (s : State) (w : Nat) (sg : Bool) (d : BitVec 6) (l : List (BitVec 6)) (t : ElemT)
      (f : BitVec w → BitVec w → BitVec w → BitVec w), Ready i r .ex s → Spec.vecInt w sg i = some (d, l, t, f) →
    elemFmt t s.myCore.fmt8 = .int w sg → d.toNat < 32 → (∀ a ∈ l, a.toNat < 32) → s.myCore.rows * s.myCore.cols * w ≤ 16384 →
    s.myCore.tpois = [] → ∃ e, Completes i r s e ∧
      (∀ j < s.myCore.rows * s.myCore.cols, ∀ x : Nat → BitVec w,
        (∀ k, x k = BitVec.ofNat w (tileEl s.myCore (l.getD k 0#6).toNat w j)) →
        tileEl e.myCore d.toNat w j = (f (x 0) (x 1) (x 2)).toNat) ∧
      e.myCore = { s.myCore with tiles := e.myCore.tiles }

/-- On tile registers of any type, none poisoned: VTRN, VBCR, VBCC, VROT and VSLIDE move elements as the layout table says,
VSPLAT copies a register's low bits to each element, VINS to one, VEXT reads one, VIOTA numbers the elements of an integer
type; VSEL picks by the mask, VMOVM compresses. VCMP of an integer type sets the mask's bits and clears those past the
shape. KAND, KOR, KXOR and KNOT act on all bits, KPOP and KFIRST on those of the shape. VRSUMR and VRSUMC add integers
modulo 2^32. (R256, R276, R277, R280, R281, R282, R283.) -/
def Obligations.MasksSelectionAndLayout : Prop :=
  ∀ (r : Ring) (s : State) (t : ElemT) (w n rows cols : Nat) (a b d : BitVec 6) (xa xb xd : BitVec 4) (k ka kb : BitVec 3)
      (el : Core → BitVec 6 → Nat → Nat), w = (elemFmt t s.myCore.fmt8).bits → rows = s.myCore.rows → cols = s.myCore.cols →
    n = rows * cols → (el = fun c v j => tileEl c v.toNat w j) →
    (∀ (i : Instr) (f : BitVec 4096), (i = .kand r k ka kb ∧ f = s.myCore.mask ka.toNat &&& s.myCore.mask kb.toNat) ∨
        (i = .kor r k ka kb ∧ f = s.myCore.mask ka.toNat ||| s.myCore.mask kb.toNat) ∨
        (i = .kxor r k ka kb ∧ f = s.myCore.mask ka.toNat ^^^ s.myCore.mask kb.toNat) ∨
        (i = .knot r k ka ∧ f = ~~~(s.myCore.mask ka.toNat)) → Ready i r .ex s →
      Completes i r s (s.setMyCore (s.myCore.setMask k.toNat f)) ∧ (s.myCore.setMask k.toNat f).mask k.toNat = f) ∧
    (Ready (.kpop r xd ka) r .ex s → Completes (.kpop r xd ka) r s
      (setR s xd.toNat (BitVec.ofNat 64 ((List.range n).filter fun j => (s.myCore.mask ka.toNat).getLsbD j).length))) ∧
    (Ready (.kfirst r xd ka) r .ex s → ∃ m, Completes (.kfirst r xd ka) r s (setR s xd.toNat (BitVec.ofNat 64 m)) ∧ m ≤ n ∧
      (∀ j < m, (s.myCore.mask ka.toNat).getLsbD j = false) ∧ (m < n → (s.myCore.mask ka.toNat).getLsbD m = true)) ∧
    (n * w ≤ 16384 → a.toNat < 32 → b.toNat < 32 → d.toNat < 32 → s.myCore.tpois = [] →
      (Ready (.vtrn r d a t) r .ex s → ∃ e, Completes (.vtrn r d a t) r s e ∧
        ∀ q < rows, ∀ c < cols, el e.myCore d (c * rows + q) = el s.myCore a (q * cols + c)) ∧
      (Ready (.vbcr r d a xb t) r .ex s → ∃ e, Completes (.vbcr r d a xb t) r s e ∧
        ∀ q < rows, ∀ c < cols, el e.myCore d (q * cols + c) = el s.myCore a ((getR s xb.toNat).toNat % rows * cols + c)) ∧
      (Ready (.vbcc r d a xb t) r .ex s → ∃ e, Completes (.vbcc r d a xb t) r s e ∧
        ∀ q < rows, ∀ c < cols, el e.myCore d (q * cols + c) = el s.myCore a (q * cols + (getR s xb.toNat).toNat % cols)) ∧
      (Ready (.vrot r d a b t) r .ex s → ∃ e, Completes (.vrot r d a b t) r s e ∧
        ∀ q < rows, ∀ c < cols, el e.myCore d (q * cols + c) = el s.myCore a (q * cols + (c + b.toNat) % cols)) ∧
      (Ready (.vslide r d a b t) r .ex s → ∃ e, Completes (.vslide r d a b t) r s e ∧
        ∀ j < n, el e.myCore d j = if j + b.toNat < n then el s.myCore a (j + b.toNat) else 0) ∧
      (Ready (.vsplat r d xa t) r .ex s → ∃ e, Completes (.vsplat r d xa t) r s e ∧
        ∀ j < n, el e.myCore d j = (getR s xa.toNat).toNat % 2 ^ w) ∧
      (Ready (.vins r d xa xb t) r .ex s → ∃ e, Completes (.vins r d xa xb t) r s e ∧
        ∀ j < n, el e.myCore d j =
          if j = (getR s xb.toNat).toNat % n then (getR s xa.toNat).toNat % 2 ^ w else el s.myCore d j) ∧
      (Ready (.vext r xd a xb t) r .ex s → t.isSigned = false → ∃ e, Completes (.vext r xd a xb t) r s e ∧
        e.me.reg xd.toNat = if xd = 0#4 then 0#64 else BitVec.ofNat 64 (el s.myCore a ((getR s xb.toNat).toNat % n))) ∧
      (Ready (.vext r xd a xb t) r .ex s → t.isSigned = true → ∃ e, Completes (.vext r xd a xb t) r s e ∧
        e.me.reg xd.toNat = if xd = 0#4 then 0#64
          else (BitVec.ofNat w (el s.myCore a ((getR s xb.toNat).toNat % n))).signExtend 64) ∧
      (Ready (.viota r d t) r .ex s → t.isInt = true → ∃ e, Completes (.viota r d t) r s e ∧
        ∀ j < n, el e.myCore d j = j % 2 ^ w) ∧
      (Ready (.vsel r d a b t k) r .ex s → ∃ e, Completes (.vsel r d a b t k) r s e ∧
        ∀ j < n, el e.myCore d j = if (s.myCore.mask k.toNat).getLsbD j then el s.myCore a j else el s.myCore b j) ∧
      (∀ z : Bool, Ready (.vmovm r d a t k z) r .ex s → ∃ e, Completes (.vmovm r d a t k z) r s e ∧
        ∀ j < n, ∀ l, l = ((List.range n).filter fun j => (s.myCore.mask k.toNat).getLsbD j) →
          el e.myCore d j = if j < l.length then el s.myCore a (l.getD j 0) else if z then 0 else el s.myCore d j) ∧
      (∀ c : Cond, Ready (.vcmp r a b t k c) r .ex s → t.isInt = true → ∃ e, Completes (.vcmp r a b t k c) r s e ∧
        ∀ j, (e.myCore.mask k.toNat).getLsbD j =
          (decide (j < n) && condInt c (BitVec.ofNat w (el s.myCore a j)) (BitVec.ofNat w (el s.myCore b j)))) ∧
      (n * 32 ≤ 16384 → t.isInt = true →
        (Ready (.vrsumr r d a t) r .ex s → ∃ e, Completes (.vrsumr r d a t) r s e ∧
          ∀ q < rows, tileEl e.myCore d.toNat 32 q = (BitVec.ofInt 32
            ((List.range cols).map fun c => Spec.val t.isSigned (BitVec.ofNat w (el s.myCore a (q * cols + c)))).sum).toNat) ∧
        (Ready (.vrsumc r d a t) r .ex s → ∃ e, Completes (.vrsumc r d a t) r s e ∧
          ∀ c < cols, tileEl e.myCore d.toNat 32 c = (BitVec.ofInt 32
            ((List.range rows).map fun q => Spec.val t.isSigned (BitVec.ofNat w (el s.myCore a (q * cols + c)))).sum).toNat)))

/-- Each of the twelve matrix instructions completes and enters the matrix queue with its SEQ, its pad ranges and its reply
reservation: MXFENCE once every earlier command is performed, the others when their port can be used, nothing is pending on
it and the queue and what they need have room; else they trap with Stream State, or wait. MATRIX_COMMAND_START meets the
head's semaphore wait or lines it up, or discards it with a fault record, and starts it: MXANC sets the anchor, MXOPS the
operations, MXZ its rows, MXCLRP clears poison, MXFENCE changes nothing; a started run does its next row.
MATRIX_COMMAND_PERFORMED takes a run out and signals, puts the blocks of an MXLDB, and writes or reads the rows of MXST,
MXSPILL and MXFILL in the pad. FAULT_RECORD_ENQUEUE moves the record held the longest to its cluster's queue. (R249, R307,
R311, R312, R313, R315, R316, R320, R321, R322, R324, R326.) -/
def Obligations.MatrixCommands : Prop :=
  (∀ (i : Instr) (r : Ring) (sw ss : SemF) (s : State),
    ((∃ sk loc nb n0 bf k scl, i = .mxldb r sw ss sk loc nb n0 bf k scl) ∨ (∃ sg loc nb dc ove hi bf lo, i = .mxldbs r sw ss sg loc nb dc ove hi bf lo) ∨
      (∃ ps loc af hi lo acc0 m, i = .mxrun r sw ss ps loc af hi lo acc0 m) ∨ (∃ tb ip af hi lo acc0 m, i = .mxrung r sw ss tb ip af hi lo acc0 m) ∨
      (∃ ps loc acc0 n0 m df rm sm nb, i = .mxst r sw ss ps loc acc0 n0 m df rm sm nb) ∨ (∃ acc0 m kind, i = .mxz r sw ss acc0 m kind) ∨
      (∃ len lo hi, i = .mxops r sw ss len lo hi) ∨ (∃ a, i = .mxanc r sw ss a) ∨ (∃ acc0 m re bm, i = .mxclrp r sw ss acc0 m re bm) ∨
      (∃ ps loc acc0 m, i = .mxspill r sw ss ps loc acc0 m) ∨ (∃ ps loc acc0 m, i = .mxfill r sw ss ps loc acc0 m)) →
    Ready i r .ex s →
    (∀ reason n, mxReason (projected s.myCore) i = some (reason, n) →
      Traps i s 0x11 (BitVec.ofNat 64 (reason * 256 + n)) 0) ∧
    (mxReason (projected s.myCore) i = none →
      (16 ≤ s.myCore.mx.queue.length → exec i s = .next s) ∧
      (mxPending s.myCore i = false → s.myCore.mx.queue.length < 16 →
        (mxRanges i = ([], []) ∨ s.myCore.rngs.length < 64) →
        (mxReplies i = true → s.myCore.resv.length + s.myCore.rpl.length < 32) → mxNoRoom s.myCore i = false →
        (∃ t q, exec i s = .next t ∧ t.myCore.mx.queue = s.myCore.mx.queue ++ [q] ∧ q.i = i) ∧ MxEnters i r s))) ∧
  (∀ (r : Ring) (sw ss : SemF) (s : State), Ready (.mxfence r sw ss) r .ex s →
    (s.myCore.mx.queue = [] → (∀ x ∈ s.myCore.mx.run, x.gone = true) →
      (∃ t q, exec (.mxfence r sw ss) s = .next t ∧ t.myCore.mx.queue = [q] ∧ q.i = .mxfence r sw ss) ∧ MxEnters (.mxfence r sw ss) r s) ∧
    (s.myCore.mx.queue ≠ [] ∨ (∃ x ∈ s.myCore.mx.run, x.gone = false) → exec (.mxfence r sw ss) s = .next s)) ∧
  (∀ (s : State) (k : Nat) (q : MxCmd) (t : List MxCmd), mxGo s = some k → (s.core k).mx.queue = q :: t →
    (∀ p, mxHead s k = .join p → ∃ e, exec .matrixCommandStart s = .next e ∧ e.mem = s.mem ∧ e.ctxs = s.ctxs ∧
      (e.core k).mx.queue = { q with inLine := true } :: t ∧
      e.sem k p = { s.sem k p with line := (s.sem k p).line ++ [(4096, 1)] }) ∧
    (mxBusy s k = none →
      (∀ p, mxHead s k = .take p → ∃ e, exec .matrixCommandStart s = .next e ∧ e.mem = s.mem ∧ e.ctxs = s.ctxs ∧
        (e.core k).mx.queue = { q with waited := true } :: t ∧
        e.sem k p = { s.sem k p with count := (s.sem k p).count - 1 }) ∧
      (∀ d, mxHead s k = .bad d → ∃ e f, exec .matrixCommandStart s = .next e ∧ (e.core k).mx.queue = t ∧ e.mem = s.mem ∧
        (f ∈ (e.clus (devCluster k)).faults ∨ f ∈ (e.core k).mx.held) ∧ f.cause = 5 ∧ f.detail = d ∧ f.seq = q.seq ∧ f.epc = q.epc) ∧
      (mxHead s k = .start →
        (∀ r a b n, q.i = .mxanc r a b (.val n) → ∃ e, exec .matrixCommandStart s = .next e ∧ (e.core k).mx.queue = t ∧
          (e.core k).mx.anchor = n.toInt ∧ (e.core k).mx.rows = (s.core k).mx.rows ∧ e.mem = s.mem) ∧
        (∀ r a b n lo hi, q.i = .mxops r a b n lo hi → ∃ e, exec .matrixCommandStart s = .next e ∧ (e.core k).mx.queue = t ∧
          (e.core k).mx.opLen = n.toNat + 1 ∧ (e.core k).mx.ops = hi ++ lo ∧ (e.core k).mx.rows = (s.core k).mx.rows ∧
          e.mem = s.mem) ∧
        (∀ r a b, q.i = .mxfence r a b → ∃ e, exec .matrixCommandStart s = .next e ∧ (e.core k).mx.queue = t ∧
          (e.core k).mx.rows = (s.core k).mx.rows ∧ (e.core k).mx.blks = (s.core k).mx.blks ∧ e.mem = s.mem) ∧
        (∀ r a b acc0 m re bm, q.i = .mxclrp r a b acc0 m re bm → acc0.toNat + m.toNat < 32 → ∃ e,
          exec .matrixCommandStart s = .next e ∧ (e.core k).mx.queue = t ∧ e.mem = s.mem ∧
          (∀ j, (e.core k).mx.rowOf j = { (s.core k).mx.rowOf j with
            poison := ((s.core k).mx.rowOf j).poison && !(re && decide (acc0.toNat ≤ j ∧ j ≤ acc0.toNat + m.toNat)) }) ∧
          (∀ j < 8, (e.core k).mx.blkOf j =
            if bm.getLsbD j then { (s.core k).mx.blkOf j with poison := false, st := .empty } else (s.core k).mx.blkOf j)) ∧
        (∀ r a b acc0 m kind, q.i = .mxz r a b acc0 m kind → acc0.toNat + m.toNat < 32 → ∃ e, exec .matrixCommandStart s = .next e ∧
          (e.core k).mx.queue = t ∧ e.mem = s.mem ∧ (e.core k).mx.anchor = (s.core k).mx.anchor ∧
          ∀ j, if acc0.toNat ≤ j ∧ j ≤ acc0.toNat + m.toNat then
              (e.core k).mx.rowOf j = { (s.core k).mx.rowOf j with
                acc := ((e.core k).mx.rowOf j).acc, ranch := (s.core k).mx.anchor, tag := q.ctx, ue := [] } ∧
              (∀ c < 512, mget {} ((e.core k).mx.rowOf j).acc c
                = ({ v := BitVec.ofInt 128 (if kind = 0#2 then 0 else if kind = 1#2 then -2 ^ 127 else 2 ^ 127 - 1) } : Acc))
            else (e.core k).mx.rowOf j = (s.core k).mx.rowOf j)))) ∧
  (∀ (s : State) (k : Nat) (x : MxCmd) (a ca : List Nat) (d : Nat), mxGo s = some k → (∀ p, mxHead s k ≠ .join p) →
    mxBusy s k = some x → mxCanFeed (s.core k) x = false → x.dead = false → x.stop = false →
    rowScales s k x = .ok ca → nextRow (s.core k) x = .ok a none → d = acc0Of x.i + x.row →
    ((s.core k).mx.rowOf d).tag = x.ctx → ((s.core k).mx.rowOf d).ue = [] → (∀ j < 8, ((s.core k).mx.blkOf j).ue = []) →
    ∃ e, exec .matrixCommandStart s = .next e ∧ e.mem = s.mem ∧ e.ctxs = s.ctxs ∧
      (e.core k).mx.rowOf d = runRow (s.core k).mx x.ctx (a.map (mxFmt (mxCode x.i)).decode) ca ((s.core k).mx.rowOf d) ∧
      (∀ j, j ≠ d → (e.core k).mx.rowOf j = (s.core k).mx.rowOf j) ∧
      (e.core k).scq = (s.core k).scq.drop ((kaOf x.i + 31) / 32) ∧
      (e.core k).mx.run = (s.core k).mx.run.map fun y => if y.id = x.id then { x with row := x.row + 1 } else y) ∧
  (∀ (s : State) (k : Nat) (c : MxCmd), toPerform s = some (k, c) → c.gone = false → c.dead = false →
    (isRun c.i = true → ∃ e, exec .matrixCommandPerformed s = .next e ∧ e.mem = s.mem ∧ e.ctxs = s.ctxs ∧
      (e.core k).mx.run = (s.core k).mx.run.filter (fun x => decide (x.id ≠ c.id)) ∧
      (e.core k).rngs = (s.core k).rngs.filter (fun x => decide (x.id ≠ c.id)) ∧
      (e.core k).mx.rows = (s.core k).mx.rows ∧
      (∀ v p, mxSig c.i = some v → physSem s c.ctx v.toNat = some p →
        e.sem k p = if (s.sem k p).count = 65535 then { s.sem k p with ovf := true }
          else { s.sem k p with count := (s.sem k p).count + 1 })) ∧
    (∀ r w g loc nb n0 bf kk, c.i = .mxldb r w g .pad loc nb n0 bf kk false → (mxFmt bf.toNat).bits = 8 →
      ∃ e, exec .matrixCommandPerformed s = .next e ∧ e.mem = s.mem ∧ (e.core k).mx.rows = (s.core k).mx.rows ∧
      (e.core k).mx.run = (s.core k).mx.run.filter (fun x => decide (x.id ≠ c.id)) ∧
      ∀ j, if n0.toNat ≤ j ∧ j ≤ n0.toNat + nb.toNat then
          ((e.core k).mx.blkOf j).st = .dense ∧ ((e.core k).mx.blkOf j).poison = false ∧ ((e.core k).mx.blkOf j).tag = c.ctx ∧
          ((e.core k).mx.blkOf j).k = kk.toNat + 1 ∧
          ∀ y ≤ kk.toNat, ∀ cl < 64, mget 0#8 ((e.core k).mx.blkOf j).cells (y * 64 + cl)
            = mget 0#8 (s.core k).pad (loc.toNat * 128 + y * (64 * (nb.toNat + 1)) + 64 * (j - n0.toNat) + cl)
        else (e.core k).mx.blkOf j = (s.core k).mx.blkOf j) ∧
    (∀ r w g loc acc0 n0 m df rm sm nb, c.i = .mxst r w g true loc acc0 n0 m df rm sm nb → (mxFmt df.toNat).bits = 8 → rm ≠ .rsr →
      (∀ y ≤ m.toNat, ((s.core k).mx.rowOf (acc0.toNat + y)).poison = false ∧ ((s.core k).mx.rowOf (acc0.toNat + y)).ue = [] ∧
        ((s.core k).mx.rowOf (acc0.toNat + y)).tag = c.ctx) →
      ∃ e, exec .matrixCommandPerformed s = .next e ∧ e.mem = s.mem ∧ (e.core k).mx.rows = (s.core k).mx.rows ∧
        (e.core k).resv = (s.core k).resv.erase (0x4D00 + c.seq) ∧ (e.core k).rpl = (s.core k).rpl ∧
        ∀ y ≤ m.toNat, ∀ x < 64 * (nb.toNat + 1),
          mget 0#8 (e.core k).pad (loc.toNat * 1024 + y * (64 * (nb.toNat + 1)) + x) = BitVec.ofNat 8
            (writeback (mget {} ((s.core k).mx.rowOf (acc0.toNat + y)).acc (64 * n0.toNat + x))
              ((s.core k).mx.rowOf (acc0.toNat + y)).ranch (mxFmt df.toNat) rm sm 0)) ∧
    (∀ r w g loc acc0 m, c.i = .mxspill r w g true loc acc0 m →
      (∀ y ≤ m.toNat, ((s.core k).mx.rowOf (acc0.toNat + y)).ue = [] ∧ ((s.core k).mx.rowOf (acc0.toNat + y)).tag = c.ctx) →
      ∃ e, exec .matrixCommandPerformed s = .next e ∧ e.mem = s.mem ∧ (e.core k).mx.rows = (s.core k).mx.rows ∧
        ∀ y ≤ m.toNat, ∀ x < 8704, mget 0#8 (e.core k).pad (loc.toNat * 1024 + y * 8704 + x)
          = (spillRec ((s.core k).mx.rowOf (acc0.toNat + y))).getD x 0#8) ∧
    (∀ r w g loc acc0 m, c.i = .mxfill r w g true loc acc0 m → (s.core k).poison = [] →
      ∃ e, exec .matrixCommandPerformed s = .next e ∧ e.mem = s.mem ∧ (e.core k).mx.blks = (s.core k).mx.blks ∧
        ∀ j, (e.core k).mx.rowOf j = if acc0.toNat ≤ j ∧ j ≤ acc0.toNat + m.toNat then
            (fillRow c.ctx ((s.core k).padN (loc.toNat * 1024 + (j - acc0.toNat) * 8704) 8704)).1
          else (s.core k).mx.rowOf j)) ∧
  (∀ (s : State) (n k : Nat) (t : List Nat), heldFault s = some n → (s.clus n).heldq = k :: t →
    ∃ e, exec .faultRecordEnqueue s = .next e ∧ (e.core k).mx.held = (s.core k).mx.held.drop 1 ∧ (e.clus n).heldq = t ∧
      (e.clus n).faults = (s.clus n).faults ++ (s.core k).mx.held.take 1 ∧ e.mem = s.mem ∧ e.ctxs = s.ctxs)

/-- GBLD of a line-aligned offset and GBTH enter their command in a queue of four, or wait; another offset is Illegal
Instruction. GBPRED and GBCHK with legal counts, usable ports, their input there and room pop the input, reserve a reply and
enter; a GBPRED count of 0 or above 8,192 is Illegal Instruction. GAMBIT_PERFORM of GBTH sets the thresholds, of GBLD the
control state (invalid for a bad descriptor), of GBPRED without a valid state gives KIND 4, and gives the reply of a command
whose lists are pushed. (R22, R357, R358, R360, R362, R363, R364, R365, R366, R368, R369, R370.) -/
def Obligations.GambitCommands : Prop :=
  (∀ (r : Ring) (xa : BitVec 4) (s : State), Ready (.gbld r xa) r .ex s →
    ((getR s xa.toNat).toNat % 64 ≠ 0 ∨ 2 ^ 21 ≤ (getR s xa.toNat).toNat → Traps (.gbld r xa) s 1 (word1 (.gbld r xa)) 0) ∧
    ((getR s xa.toNat).toNat % 64 = 0 → (getR s xa.toNat).toNat < 2 ^ 21 →
      (4 ≤ s.myCore.gam.queue.length → exec (.gbld r xa) s = .next s) ∧
      (s.myCore.gam.queue.length < 4 → (∃ t q, exec (.gbld r xa) s = .next t ∧ t.myCore.gam.queue = s.myCore.gam.queue ++ [q]) ∧
        ∃ c : Core, Completes (.gbld r xa) r s (s.setMyCore c) ∧
        c.gam.queue = s.myCore.gam.queue ++ [.ld (getR s xa.toNat).toNat s.myCore.nextId (tagOf s.myCore 1)] ∧
        c = { s.myCore with gam := c.gam, nextId := c.nextId, secq := c.secq }))) ∧
  (∀ (r : Ring) (xh xl xe xt : BitVec 4) (s : State), Ready (.gbth r xh xl xe xt) r .ex s →
    (4 ≤ s.myCore.gam.queue.length → exec (.gbth r xh xl xe xt) s = .next s) ∧
    (s.myCore.gam.queue.length < 4 → (∃ t q, exec (.gbth r xh xl xe xt) s = .next t ∧
        t.myCore.gam.queue = s.myCore.gam.queue ++ [q]) ∧ ∃ c : Core, Completes (.gbth r xh xl xe xt) r s (s.setMyCore c) ∧
      c.gam.queue = s.myCore.gam.queue ++ [.th (getR s xh.toNat) (getR s xl.toNat) (getR s xe.toNat)
        ((getR s xt.toNat).setWidth 32) s.myCore.nextId (tagOf s.myCore 1)] ∧
      c = { s.myCore with gam := c.gam, nextId := c.nextId, secq := c.secq })) ∧
  (∀ (r : Ring) (inp oa ou : BitVec 6) (bf : Bool) (tag : BitVec 16) (xn xu : BitVec 4) (s : State) (i : Instr) (n u : Nat) (v : VIn),
    i = .gbpred r inp oa ou bf tag xn xu → Ready i r .ex s → n = (getR s xn.toNat).toNat → u = (getR s xu.toNat).toNat →
    v = { f := inp.toNat, fmt := elemFmt (if bf then .bf16 else .f16) 0#8, n := n } →
    (n = 0 ∨ 8192 < n ∨ 8192 < u → Traps i s 1 (word1 i) 0) ∧
    (1 ≤ n → n ≤ 8192 → u ≤ 8192 → (inp.toNat < 32 → n ≤ 1024) →
      gamReason (projected s.myCore) (oa.toNat - 32) = none → gamReason (projected s.myCore) (ou.toNat - 32) = none →
      (32 ≤ inp.toNat → srcReason (projected s.myCore) (inp.toNat - 32) = none ∧ pendingOn s.myCore (inp.toNat - 32) = false) →
      (∀ p, p = oa.toNat - 32 ∨ p = ou.toNat - 32 → pendingOn s.myCore p = false ∧ gamPushes s.myCore p = false) →
      srcsReady s.myCore [v] = true → s.myCore.gam.queue.length < 4 → s.myCore.resv.length + s.myCore.rpl.length < 32 →
      roomFor s.myCore (ou.toNat - 32) u = true → popPoison s.myCore [v] = none →
      (∃ t q, exec (.gbpred r inp oa ou bf tag xn xu) s = .next t ∧ t.myCore.gam.queue = s.myCore.gam.queue ++ [q]) ∧
      ∃ e, Completes i r s e ∧ e.myCore.resv = s.myCore.resv ++ [tag.toNat] ∧
        e.myCore.gam.queue = s.myCore.gam.queue ++ [.pred (readSrc s.myCore v).1 bf (oa.toNat - 32) (ou.toNat - 32) u tag.toNat
          s.myCore.nextId (tagOf s.myCore 1)] ∧ e.mem = s.mem ∧ e.myCore.tiles = s.myCore.tiles)) ∧
  (∀ (r : Ring) (inp o : BitVec 6) (ht : ElemT) (xu : BitVec 4) (tag : BitVec 16) (s : State) (i : Instr) (u : Nat) (v : VIn),
    i = .gbchk r inp o ht xu tag → Ready i r .ex s → u = (getR s xu.toNat).toNat →
    v = { f := inp.toNat, fmt := elemFmt ht 0#8, n := u } →
    (8192 < u → Traps i s 1 (word1 i) 0) ∧
    (u ≤ 8192 → (inp.toNat < 32 → u * ((elemFmt ht 0#8).bits / 8) ≤ 2048) →
      gamReason (projected s.myCore) (o.toNat - 32) = none →
      (32 ≤ inp.toNat → srcReason (projected s.myCore) (inp.toNat - 32) = none ∧ pendingOn s.myCore (inp.toNat - 32) = false) →
      pendingOn s.myCore (o.toNat - 32) = false → gamPushes s.myCore (o.toNat - 32) = false →
      srcsReady s.myCore [v] = true → s.myCore.gam.queue.length < 4 → s.myCore.resv.length + s.myCore.rpl.length < 32 →
      popPoison s.myCore [v] = none →
      (∃ t q, exec (.gbchk r inp o ht xu tag) s = .next t ∧ t.myCore.gam.queue = s.myCore.gam.queue ++ [q]) ∧
      ∃ e, Completes i r s e ∧ e.myCore.resv = s.myCore.resv ++ [tag.toNat] ∧
        e.myCore.gam.queue = s.myCore.gam.queue ++ [.chk (readSrc s.myCore v).1 ht (o.toNat - 32) u tag.toNat
          s.myCore.nextId (tagOf s.myCore 1)] ∧ e.mem = s.mem ∧ e.myCore.tiles = s.myCore.tiles)) ∧
  (∀ (s : State) (k : Nat) (g : Gambit) (t : List GbCmd), gamGo s = some k → g = (s.core k).gam → g.out = [] →
    (g.reply = none →
      (∀ hi lo e a id pt, g.queue = .th hi lo e a id pt :: t → matched (s.core k) id = true →
        exec .gambitPerform s = .next (s.setCore k
          { s.core k with gam := { g with thi := hi, tlo := lo, e := e, tact := a, queue := t } })) ∧
      (∀ off id pt, g.queue = .ld off id pt :: t → matched (s.core k) id = true → ∃ c : Core,
        exec .gambitPerform s = .next (s.setCore k c) ∧ c.gam.queue = t ∧ c.gam.pvalid = false ∧
        (Spec.le (fun b => mget 0#8 (s.core k).pad (off + b)) 4 % 16 ≠ 0 → c.gam.valid = false)) ∧
      (∀ d bf oa ou u tag id pt, g.queue = .pred d bf oa ou u tag id pt :: t → matched (s.core k) id = true → g.valid = false →
        exec .gambitPerform s = .next (s.setCore k { s.core k with gam := { g with
          pvalid := false, out := [(oa, []), (ou, List.replicate u 0)], reply := some (tag, 2, 4, 0) } }))) ∧
    (∀ tag src kind val q, g.reply = some (tag, src, kind, val) → g.queue = q :: t → tag ∈ (s.core k).resv → kind < 16 → src < 16 →
      ∃ (c : Core) (w : DWord), exec .gambitPerform s = .next (s.setCore k c) ∧ c.gam.queue = t ∧ c.gam.reply = none ∧
        c.rpl = (s.core k).rpl ++ [w] ∧ c.resv = (s.core k).resv.erase tag ∧ w.toNat / 2 ^ 48 = tag % 2 ^ 16 ∧
        w.toNat / 2 ^ 44 % 16 = src ∧ w.toNat / 2 ^ 40 % 16 = kind ∧ w.toNat % 2 ^ 40 = val % 2 ^ 40))

/-- WALKER_DEAL takes from a die an item to which no eligible one is preferred: a starving one of least C0, else one of the
highest effective priority. TILE_DEPOSIT puts the oldest unit's entries at the end of the deques of their cores, and marks
the running job of a core that the priority exceeds by DELTA. CORE_POP takes an entry that is not held, a starving one
first, then the highest effective priority; of a range the first tile. STEAL moves half the count of an entry that is not
held and not of a gang to another core's deque. STARVING notes an entry or item as starving and marks the job of the entry's
core. Memory and the engines stay. (R384, R385, R386, R387, R388, R389, R391, R392, R393.) -/
def Obligations.StepsOfTheNestWalker : Prop :=
  (∀ (s : State) (d n : Nat) (x : Item) (u : List (Nat × DqEnt)) (rest : Option Item),
    ((List.range 2).find? fun d => (dealTo s d).isSome) = some d → dealTo s d = some (n, x, u, rest) →
      (∀ y ∈ (s.die d).items, gangWaits s d y = false →
        (isStarving s d y.b y.c0 = true → isStarving s d x.b x.c0 = true ∧ x.c0 ≤ y.c0) ∧
        (isStarving s d x.b x.c0 = false → effPrio s d y.b y.c0 ≤ effPrio s d x.b x.c0)) ∧
      ∃ e, exec .walkerDeal s = .next e ∧
        (e.die d).items = (s.die d).items.take n ++ rest.toList ++ (s.die d).items.drop (n + 1) ∧
        (e.die d).deals = (s.die d).deals ++ [{ ents := u }] ∧ e.cores = s.cores ∧ e.ctxs = s.ctxs ∧ e.mem = s.mem) ∧
  (∀ (s : State) (d : Nat) (u : Deal) (t : List Deal), d < 2 → (∀ k < d, (s.die k).deals = []) → (s.die d).deals = u :: t →
    ∃ e, exec .tileDeposit s = .next e ∧ (e.die d).deals = t ∧ e.ctxs = s.ctxs ∧ e.mem = s.mem ∧
      (∀ k, (e.core k).deque = (s.core k).deque ++
        (u.ents.filter fun x => decide (x.1 = k) && (s.core k).online).map fun x => x.2) ∧
      (∀ k x j, u.ents = [(k, x)] → (s.core k).online = true → (s.core k).job = some j → j.gang = false → j.mark = none →
        j.stopped = false → j.starved = false →
        (e.core k).job = some { j with mark :=
          if (s.die (coreDie k)).delta ≠ 0 ∧ j.run + (s.die (coreDie k)).delta ≤ effPrio s (coreDie k) x.b x.c0 then some 0
          else none })) ∧
  (∀ (s : State) (k n : Nat) (x : DqEnt), toPop s = some k → popEnt s k = some (n, x) →
    (s.core k).deque[n]? = some x ∧ x.held = false ∧
    (∀ y ∈ (s.core k).deque, y.held = false →
      (isStarving s (coreDie k) y.b y.c0 = true → isStarving s (coreDie k) x.b x.c0 = true ∧ x.c0 ≤ y.c0) ∧
      (isStarving s (coreDie k) x.b x.c0 = false → effPrio s (coreDie k) y.b y.c0 ≤ effPrio s (coreDie k) x.b x.c0)) ∧
    (x.area = none →
      (x.count ≤ 1 → exec .corePop s = .next (s.setCore k { s.core k with
        deque := (s.core k).deque.eraseIdx n, next := some (x, s.cycle) })) ∧
      (1 < x.count → exec .corePop s = .next (s.setCore k { s.core k with
        deque := (s.core k).deque.set n { x with tile := x.tile + 1, count := x.count - 1 },
        next := some ({ x with count := 1 }, s.cycle) })))) ∧
  (∀ (s : State) (k v n : Nat) (x : DqEnt), toSteal s = some k → victimOf s k = some v → stealEnt s v = some (n, x) →
    x.held = false ∧ x.gang = false ∧
    ∃ e, exec .steal s = .next e ∧ e = { s with cores := e.cores } ∧
      (v ≠ k →
        (e.core k).deque = (s.core k).deque ++ [{ x with count := (x.count + 1) / 2 }] ∧
        (x.count = 1 → (e.core v).deque = (s.core v).deque.eraseIdx n) ∧
        (2 ≤ x.count → (e.core v).deque = (s.core v).deque.set n
          { x with tile := x.tile + (x.count + 1) / 2, count := x.count - (x.count + 1) / 2 }) ∧
        ∀ c, c ≠ k → c ≠ v → e.core c = s.core c)) ∧
  (∀ (s : State) (k n : Nat) (x : DqEnt), starvingEnt s = some (k, n) → (s.core k).deque[n]? = some x →
    ∃ e, exec .starving s = .next e ∧ (e.core k).deque = (s.core k).deque.set n { x with starved := true } ∧ e.mem = s.mem ∧
      e.ctxs = s.ctxs ∧ ∀ j, (s.core k).job = some j → j.gang = false → j.mark = none → j.stopped = false → j.starved = false →
        (e.core k).job = some { j with mark := some 0 }) ∧
  (∀ (s : State) (d n : Nat) (x : Item), starvingEnt s = none → starvingItem s = some (d, n) → (s.die d).items[n]? = some x →
    ∃ e, exec .starving s = .next e ∧ (e.die d).items = (s.die d).items.set n { x with starved := true } ∧ e.mem = s.mem ∧
      e.ctxs = s.ctxs)

/-- SPAWN of a nest that is not there or has a D level is Spawn Refused; with the table full it waits; else its instance enters,
with the nest number, the priority, the context, RS2, and under a fresh NIX. IMAGE_TEXT_COPY fills the instruction memories.
JOB_START starts the roles at their entry points, R1 to R6 the tile's indices and R7 the argument. JOB_COMPLETE frees the
core and counts the tile. JOB_SAVE stops the message queues, then writes the area and returns the job. SAFE_POINT_OVERDUE is
an imprecise Safe Point Overdue. CLUSTER_REPORT and INSTANCE_COMPLETE report. (R32, R33, R34, R36, R136, R158, R376, R391,
R396, R397, R398, R447.) -/
def Obligations.JobsStartAndEnd : Prop :=
  (∀ (r : Ring) (a b : BitVec 5) (s : State) (i : Instr) (v : DWord), i = .spawn r a b → Ready i r .ring s → v = getR s a.toNat →
    (∀ j im, s.myCore.job = some j → imageOf s (agCore s.cur) = some im →
      (im.nests[v.toNat]? = none → Traps i s 0x0B v 0) ∧
      (∀ n, im.nests[v.toNat]? = some n →
        (n.hasD = true → Traps i s 0x0B v 0) ∧
        (n.hasD = false → tableFull s = true ∨ s.phase ≠ .run → exec i s = .next s) ∧
        (n.hasD = false → tableFull s = false → s.phase = .run → instOf s (nextNix s).1 = none →
          ∃ e, Completes i r s e ∧ e.me = { s.me with stores := [], veil := [] } ∧ (∀ a, memByte e a = ownByte s s.cur a) ∧
            (∃ x ∈ e.insts, x.nix = (nextNix s).1 ∧ x.nest = v.toNat ∧ x.img = im.img ∧ x.ctx = j.ctx ∧ x.gen = j.gen ∧
              x.arg = getR s b.toNat ∧ x.deps = [] ∧ x.done = false ∧ (j.b < 16 → x.prio = j.b)) ∧
            (n.gang = false → dequeRoom s (agCore s.cur) = true →
              e.myCore.deque = s.myCore.deque ++ [{ nix := (nextNix s).1, tile := 0, count := n.tiles, range := true, b := j.b,
                                                    c0 := s.cycle, gang := false, held := false, area := none }]))))) ∧
  (∀ (s : State) (k : Nat) (x : DqEnt) (t : Nat) (p : Nat × Nat) (im : Image), mfind (fun k _ => copying s k) s.cores = some k →
    (s.core k).next = some (x, t) → entImage s x = some p →
    (s.images.find? fun i => decide (i.img = p.1 ∧ i.reg = p.2)) = some im → (∀ g < 4, (im.text.getD g []).length ≤ 65536) →
    ∃ c, exec .imageTextCopy s = .next (s.setCore k c) ∧ c.img = some (im.img, im.reg) ∧ c.pad = (s.core k).pad ∧
      ∀ g < 4, ∀ w < 16384, mget 0#32 c.imem (g * 16384 + w)
        = BitVec.ofNat 32 (Spec.le (fun b => (im.text.getD g []).getD (4 * w + b) 0#8) 4)) ∧
  (∀ (s : State) (k t : Nat) (x : DqEnt) (i : Inst) (n : Nest), mfind (fun k _ => startable s k) s.cores = some k →
    (s.core k).next = some (x, t) → x.area = none → instOf s x.nix = some i → instNest s i = some n →
    ∃ e, exec .jobStart s = .next e ∧ (e.core k).next = none ∧ (e.core k).tiles = [] ∧ (e.core k).masks = [] ∧ e.mem = s.mem ∧
      (∃ j, (e.core k).job = some j ∧ j.nix = x.nix ∧ j.tile = x.tile ∧ j.ctx = i.ctx ∧ j.b = x.b ∧
        j.run = effPrio s (coreDie k) x.b x.c0) ∧
      ∀ g < 3, ∀ w, w = n.roles.getD (3 * corePos k + g) 0xFFFF →
        (e.ctx (k * 4 + g)).run = (if w = 0xFFFF then .absent else .run) ∧ (w ≠ 0xFFFF → (e.ctx (k * 4 + g)).pc = w) ∧
        (e.ctx (k * 4 + g)).q = 1#128 ∧ (e.ctx (k * 4 + g)).reg 7 = i.arg ∧
        (∀ m < 6, (e.ctx (k * 4 + g)).reg (m + 1) = BitVec.ofNat 64 (mget 0 (n.index x.tile) m)) ∧
        ∀ m, 8 ≤ m → (e.ctx (k * 4 + g)).reg m = 0#64) ∧
  (∀ (s : State) (k : Nat) (j : Job) (i : Inst), mfind (fun k _ => jobOver s k) s.cores = some k → (s.core k).job = some j →
    instOf s j.nix = some i →
    ∃ e, exec .jobComplete s = .next e ∧ (e.core k).job = none ∧ (∀ g < 3, e.ctx (k * 4 + g) = idleCtx (s.ctx (k * 4 + g))) ∧ e.mem = s.mem ∧
      ∃ i', instOf e j.nix = some i' ∧
        (mget ({} : ClCount) i'.cl (devCluster k)).done = (mget ({} : ClCount) i.cl (devCluster k)).done + 1 ∧
        i'.outcome = if j.failed = true ∧ i.outcome = 0 then 1 else i.outcome) ∧
  (∀ (s : State) (k : Nat) (j : Job), toSave s = some k → (s.core k).job = some j →
    (portsQuiet (s.core k) = false → s.phase ≠ .adjourning → exec .jobSave s = .next (s.setCore k (quietPorts (s.core k)))) ∧
    (portsQuiet (s.core k) = true ∨ s.phase = .adjourning →
      (∀ a slot, savePlace s k j = some (a, slot) → a % 2 ^ 40 + 64 ≤ 2 ^ 40 → ∃ e, exec .jobSave s = .next e ∧ (e.core k).job = none ∧
        Spec.le (fun b => memByte e (a + b)) 4 = 0x41535A43 ∧ Spec.le (fun b => memByte e (a + 4 + b)) 2 = 1 ∧
        Spec.le (fun b => memByte e (a + 16 + b)) 8 = (jobIdOf s k).toNat ∧
        (j.gang = false → (e.die (coreDie k)).items = (s.die (coreDie k)).items ++
          [{ nix := j.nix, b := j.b, c0 := s.cycle, next := 0, back := [(corePos k, j.tile, a + 1)], gang := false,
             starved := false, adj := decide (s.phase = .adjourning) }])) ∧
      (savePlace s k j = none → ∃ e, exec .jobSave s = .next e ∧ e.mem = s.mem ∧
        (e.core k).job = some { j with mark := none, stopped := false }))) ∧
  (∀ (s : State) (ag : Nat), mfind (fun ag _ => overdue s ag) s.ctxs = some ag →
    ∃ e, exec .safePointOverdue s = .next e ∧ e.mem = s.mem ∧ ∀ a ∈ overdueOf s (agCore ag), (e.ctx a).run = .trapped ∧
      (e.ctx a).cause = causeWord true (agEng a).num 0 0x0D ∧ (e.ctx a).epc = BitVec.ofNat 64 (s.ctx a).pc ∧
      (e.ctx a).eval = BitVec.ofNat 64 (s.cycle - (s.ctx a).safeAt) ∧ (e.ctx a).regs = (s.ctx a).regs) ∧
  (∀ (s : State) (nix k : Nat) (i : Inst), toReport s = some (nix, k) → instOf s nix = some i →
    ∃ e, exec .clusterReport s = .next e ∧ e = { s with insts := e.insts } ∧ ∃ i', instOf e nix = some i' ∧
      (mget ({} : ClCount) i'.cl k).done = 0 ∧
      mget 0 i'.got (k / 24) = mget 0 i.got (k / 24) + (mget ({} : ClCount) i.cl k).done) ∧
  (∀ (s : State) (nix o : Nat) (i : Inst), instDone s = some (nix, o) → instOf s nix = some i → i.done = false →
    ∃ e, exec .instanceComplete s = .next e ∧ e.mem = s.mem ∧ e.ctxs = s.ctxs ∧ e.cores = s.cores ∧
      (∀ x ∈ e.insts, x.nix = nix → x.done = true ∧ x.outcome = o) ∧
      (s.insts.all (fun x => !x.deps.contains nix) = true → ∀ x ∈ e.insts, x.nix ≠ nix) ∧
      ∀ d, i.notify = some d → ∃ w ∈ (e.die d).waiting, w.1.ty = 8 ∧ w.1.core = 0xFFFF)

/-- CLOCK_FIRE fires the first due instance of an entry: it launches the entry's nest with its priority, die, argument, start
and tolerance; with OVR set and the last instance running it makes a flag fall instead. HELD_TILE_RELEASE releases a core's
held tiles whose start has come. CLKCMD_WRITE writes a legal record with its counters clear, or sets ERR; CLKCMD_READ reads
the record; CLKCMD_CLEAR_EN clears EN alone. MONITOR_SAMPLE takes the samples of a die; MONITOR_LEVEL_TICK takes the level
sources that are due. EVENT_RING_WRITE puts an event of least type at EVTAIL and advances it, or counts the stall. (R384,
R400, R401, R402, R403, R404, R437, R484, R485.) -/
def Obligations.ClockMonitorsAndEventRing : Prop :=
  (∀ (s : State) (c a b : Nat), toFire s = some c → firing s (s.clk c) = some (a, b) →
    a ≤ b ∧ (∃ e, exec .clockFire s = .next e ∧ (e.clk c).next = a + 1 ∧ e.mem = s.mem ∧ e.ctxs = s.ctxs ∧ e.cores = s.cores) ∧
    (∀ n x, (s.clk c).last = some n → instOf s n = some x → x.done = false → clkNat (s.clk c).rec_ 37 1 / 4 % 2 = 1 →
      ∃ e, exec .clockFire s = .next e ∧ e.insts = s.insts ∧ ∃ w ∈ (e.die 0).waiting, w.1.ty = 6) ∧
    (∀ im, (∀ n x, (s.clk c).last = some n → instOf s n = some x → x.done = true) →
      imageNow s (clkNat (s.clk c).rec_ 32 2) = some im → tableFull s = false →
      clkNat (s.clk c).rec_ 34 2 < im.nests.length → instOf s (nextNix s).1 = none →
      ∃ e, exec .clockFire s = .next e ∧ (e.clk c).last = some (nextNix s).1 ∧
        (e.clk c).rec_ = clkSet (s.clk c).rec_ 48 4 (clkNat (s.clk c).rec_ 48 4 + 1) ∧
        ∃ x ∈ e.insts, x.nix = (nextNix s).1 ∧ x.nest = clkNat (s.clk c).rec_ 34 2 ∧ x.src = 1 ∧
          x.prio = clkNat (s.clk c).rec_ 36 1 % 16 ∧ x.die = clkNat (s.clk c).rec_ 37 1 % 4 ∧
          x.arg = BitVec.ofNat 64 (clkNat (s.clk c).rec_ 40 8) ∧
          x.clk = some (c, a, clkStart (s.clk c).rec_ a, clkNat (s.clk c).rec_ 24 4))) ∧
  (∀ (s : State) (k : Nat), (mfind (fun _ c => c.deque.any fun e => mayRelease s e) s.cores) = some k →
    ∃ c e, exec .heldTileRelease s = .next e ∧ e = { s.setCore k c with insts := e.insts } ∧ c = { s.core k with deque := c.deque } ∧
      (∀ x ∈ e.insts, ∃ y ∈ s.insts, x = { y with freed := x.freed } ∧ (y.freed = true → x.freed = true)) ∧
      c.deque.length = (s.core k).deque.length ∧ ∀ (n : Nat) (x : DqEnt), (s.core k).deque[n]? = some x →
        (x.held = false → c.deque[n]? = some x) ∧
        (∀ (i : Inst) (q m t l : Nat), instOf s x.nix = some i → i.clk = some (q, m, t, l) → x.held = true →
          c.deque[n]? = some (if t ≤ s.time then { x with held := false, c0 := s.cycle, starved := false } else x))) ∧
  (∀ (s : State) (g : Nat) (v : DWord) (t : List (Nat × Nat × DWord)), s.csrq = (g, 0x819, v) :: t →
    (v.toNat % 4 = 1 →
      (clkBad s s.clkRec = true → exec .clkcmdWrite s = .next { s with csrq := t, clkErr := true }) ∧
      (clkBad s s.clkRec = false → ∃ e, exec .clkcmdWrite s = .next e ∧ e.csrq = t ∧ e.clkErr = false ∧ e.mem = s.mem ∧
        (e.clk s.clkIdx).rec_ = clkSet s.clkRec 48 12 0 ∧ ∀ c, c ≠ s.clkIdx → e.clk c = s.clk c)) ∧
    (v.toNat % 4 = 2 → exec .clkcmdRead s = .next { s with csrq := t, clkRec := (s.clk s.clkIdx).rec_ }) ∧
    (v.toNat % 4 = 3 → ∃ e, exec .clkcmdClearEn s = .next e ∧ e.csrq = t ∧ e.mem = s.mem ∧
      clkOn (e.clk s.clkIdx).rec_ = false ∧
      (∀ b, b ≠ 299 → (e.clk s.clkIdx).rec_.getLsbD b = (s.clk s.clkIdx).rec_.getLsbD b) ∧
      ∀ c, c ≠ s.clkIdx → e.clk c = s.clk c)) ∧
  (∀ (s : State) (d : Nat), (mfind (fun _ d => decide (d.samples ≠ [])) s.dies) = some d →
    ∃ e, exec .monitorSample s = .next e ∧ (e.die d).samples = [] ∧ e.mem = s.mem ∧ e.cores = s.cores ∧
      ∀ (x : Sample) (n : Nat) (m : Mon) (v : Int), (s.die d).samples = [x] → m = mget ({} : Mon) (s.die d).mons n →
        v = Max.max (-2 ^ 31) (Min.min (2 ^ 31 - 1) x.val) →
        (m.takes x = false → mget ({} : Mon) (e.die d).mons n = m) ∧
        (m.takes x = true → ∃ m', mget ({} : Mon) (e.die d).mons n = m' ∧ m'.cfg = m.cfg ∧ m'.edge = m.edge ∧
          m'.count = (m.count + 1) % 2 ^ 64 ∧ m'.sum = Max.max (-2 ^ 63) (Min.min (2 ^ 63 - 1) (m.sum + v)) ∧
          m'.min = Min.min m.min v ∧ m'.max = Max.max m.max v ∧
          mget 0 m'.bins (m.bin (v - m.base)) = Min.min (mget 0 m.bins (m.bin (v - m.base)) + 1) (2 ^ 32 - 1))) ∧
  (∀ (s : State) (d : Nat), levelDue s = some d → ∃ e l, exec .monitorLevelTick s = .next e ∧ l ≠ [] ∧
    (e.die d).samples = (s.die d).samples ++ l ∧ (e.die d).tick = s.cycle ∧ e.mem = s.mem ∧ e.cores = s.cores ∧
    ∀ x ∈ l, (x.src = 5 ∧ s.cycle / 1024 ≠ (s.die d).tick / 1024 ∧ coreDie x.core = d ∧
        x.val = Int.ofNat (occupancy (s.core x.core) x.sub)) ∨
      ((x.src = 6 ∨ x.src = 7 ∨ x.src = 8) ∧ s.cycle / 150000 ≠ (s.die d).tick / 150000)) ∧
  (∀ (s : State) (d : Nat), ringReady s = some d →
    (ringFull (s.die d) = true → ∃ e, exec .eventRingWrite s = .next e ∧ e.mem = s.mem ∧ (e.die d).evTail = (s.die d).evTail ∧
      Min.min (s.die d).evStalls (2 ^ 32 - 1) ≤ (e.die d).evStalls ∧
      (e.die d).waiting = (s.die d).waiting.map fun w => (w.1, true)) ∧
    (∀ v w a, ringFull (s.die d) = false → nextEvent s d = some (v, w) →
      a = (s.die d).evBase + (s.die d).evTail.toNat % 256 * 64 → a % 2 ^ 40 + 64 ≤ 2 ^ 40 →
      (∀ y ∈ (s.die d).waiting, v.ty ≤ y.1.ty) ∧
      ∃ e, exec .eventRingWrite s = .next e ∧ (e.die d).evTail = (s.die d).evTail + 1#32 ∧ e.ctxs = s.ctxs ∧ e.cores = s.cores ∧
        memByte e a = BitVec.ofNat 8 v.ty ∧ Spec.le (fun b => memByte e (a + 2 + b)) 2 = v.core % 2 ^ 16 ∧
        Spec.le (fun b => memByte e (a + 8 + b)) 8 = v.time % 2 ^ 64 ∧
        ∀ x < 2 ^ 40, x < a % 2 ^ 40 ∨ a % 2 ^ 40 + 64 ≤ x → memByte e x = memByte s x))

/-- SECOND_COMPARE matches the oldest item of a core: it issues, a STEER entry enters its queue and a gather command arrives at
its engine. A disagreement counts a mismatch and triggers a rollback of its engine under its item's tag, while the items
stay. An error in an engine, an input, makes its oldest item differ, or shows at once when it has none. ROLLBACK counts an
uncorrected error, and: restarts a handler run that has done nothing that cannot be replayed; removes the queued commands
under the target's tag; rolls the restored engines back to their checkpoints, at the start of their loop; where no rollback
is possible restarts a job that has written nothing, or takes Poison Persisted, or, for a disagreement, takes the core
offline. A second trigger at one point takes the core offline unless it is a poisoned unit of memory. (R20, R27, R186, R461,
R462, R466, R468, R469, R470, R471, R472.) -/
def Obligations.SecondAndRollback : Prop :=
  (∀ (s : State) (k id : Nat) (t : List Nat), s.arg.val = 0 → toMatch s = some k → disagreement (s.core k) = none →
    (s.core k).secq = id :: t →
    ∃ c, exec .secondCompare s = .next (s.setCore k c) ∧ c.secq = t ∧
      c = { s.core k with secq := c.secq, steerP := c.steerP, steerL := c.steerL, steerS := c.steerS, outb := c.outb, gcmds := c.gcmds } ∧
      c.outb = mdel (s.core k).outb id ∧
      (c.gcmds = (s.core k).gcmds.map fun g => if g.id = id then { g with arr := some s.cycle } else g) ∧
      c.steerL = (s.core k).steerL ++
        ((s.core k).steerP.filter fun x => decide (x.1 = id) && !x.2.1).map (fun x => x.2.2) ∧
      c.steerS = (s.core k).steerS ++
        ((s.core k).steerP.filter fun x => decide (x.1 = id) && x.2.1).map (fun x => x.2.2)) ∧
  (∀ (s : State) (k g tag : Nat), s.arg.val = 0 → toMatch s = some k → disagreement (s.core k) = some (g, tag) →
    ∃ e, exec .secondCompare s = .next e ∧ e.health.mismatch = Min.min (s.health.mismatch + 1) (2 ^ 64 - 1) ∧ e.mem = s.mem ∧
      e.ctxs = s.ctxs ∧ (e.core k).secq = (s.core k).secq ∧ (e.core k).upset = (s.core k).upset.drop 1 ∧
      ∃ x, (e.core k).rb.pending = some x ∧ x.eng = g ∧ x.mis = true ∧ x.tag = tag) ∧
  (∀ (s : State) (k g : Nat), g < 4 → s.arg.val = (g + 1 : Nat) → s.arg.port = k → k < 384 →
    ∃ c, exec .secondCompare s = .next (s.setCore k c) ∧ c.secq = (s.core k).secq ∧
      (∀ id x, (s.core k).secq.find? (fun n => decide ((mget { eng := 5, tag := 0, bad := false } (s.core k).outb n).eng = g)) = some id →
        x = mget { eng := g, tag := 0, bad := false } (s.core k).outb id →
        mget { eng := 5, tag := 0, bad := false } c.outb id = { x with bad := true } ∧ c.upset = (s.core k).upset) ∧
      ((s.core k).secq.find? (fun n => decide ((mget { eng := 5, tag := 0, bad := false } (s.core k).outb n).eng = g)) = none →
        c.upset = (s.core k).upset ++ [(g, (tagOf (s.core k) g).getD 0)] ∧ c.outb = (s.core k).outb)) ∧
  (∀ (s : State) (k : Nat) (t : Trig) (c : Core), toRoll s = some (k, t) → c = s.core k →
    (∃ e, exec .rollback s = .next e) ∧
    (t.eng = 3 → c.rb.handler = false → ∃ e, exec .rollback s = .next e ∧ e.mem = s.mem ∧
      (e.core k).rb.pending = c.rb.more.head? ∧
      e.ctx (k * 4 + 3) = { c.hsave with stores := [], veil := [] }) ∧
    (t.eng < 3 → c.job = none → exec .rollback s = .next
      (s.setCore k { c with rb := { c.rb with pending := none, more := [] } })) ∧
    (∀ j, t.eng < 3 → k < 384 → c.job = some j →
      (escalates c t = true → t.mis = true ∨ t.own = true →
        ∃ e, exec .rollback s = .next e ∧ (e.core k).online = false ∧ (e.core k).job = none ∧ e.mem = s.mem) ∧
      (escalates c t = false →
        (∀ i n, rolledCore c t = none → c.rb.irrev = false → c.rb.wrote = false → instOf s j.nix = some i → instNest s i = some n →
          ∃ e, exec .rollback s = .next e ∧ e.mem = s.mem ∧ (e.core k).rb.pending = none ∧
            ∀ g < 3, ∀ w, w = n.roles.getD (3 * corePos k + g) 0xFFFF → w ≠ 0xFFFF →
              (e.ctx (k * 4 + g)).run = .run ∧ (e.ctx (k * 4 + g)).pc = w ∧ (e.ctx (k * 4 + g)).reg 7 = i.arg ∧
              (e.ctx (k * 4 + g)).stores = []) ∧
        (rolledCore c t = none → c.rb.irrev = true ∨ c.rb.wrote = true →
          (t.mis = true → ∃ e, exec .rollback s = .next e ∧ (e.core k).online = false ∧ (e.core k).job = none ∧ e.mem = s.mem) ∧
          (t.mis = false → ∃ e, exec .rollback s = .next e ∧ (e.core k).rb.pending = none ∧
            e.health.uncorr = Min.min (s.health.uncorr + 1) (2 ^ 64 - 1) ∧
            (e.ctx (k * 4 + t.eng)).run = .trapped ∧ (e.ctx (k * 4 + t.eng)).cause = causeWord true t.eng 0 0x0F)) ∧
        (∀ d, rolledCore c t = some d →
          ((restored c t).contains 1 = true → mxRemoved c t.tag ≠ [] ∨ gbRemoved c t.tag ≠ [] →
            exec .rollback s = .next (s.setCore k (removeCmds c t.tag))) ∧
          ((restored c t).contains 1 = false ∨ (mxRemoved c t.tag = [] ∧ gbRemoved c t.tag = []) →
            (∀ x, d.job = some x → x.stopped = false) →
            ∃ e, exec .rollback s = .next e ∧ e.mem = s.mem ∧ (c.rb.more = [] → (e.core k).rb.pending = none) ∧
              e.health.rollbacks = Min.min (s.health.rollbacks + 1) (2 ^ 64 - 1) ∧
              ∀ g ∈ restored c t, ∀ q, ckptOf c g t.tag = some q → (e.ctx (k * 4 + g)).run = .run ∧
                (e.ctx (k * 4 + g)).wait = .none ∧ (e.ctx (k * 4 + g)).levels = q.ctx.levels ∧
                (∀ v, q.ctx.levels.find? (fun v => v.sp.isSome) = some v → (e.ctx (k * 4 + g)).pc = v.lo) ∧
                (q.ctx.levels.find? (fun v => v.sp.isSome) = none → (e.ctx (k * 4 + g)).pc = q.ctx.pc ∧
                  (q.ctx.loads = [] → ∀ n < (if g = 1 then 16 else 32), (e.ctx (k * 4 + g)).reg n = q.ctx.reg n)))))))

/-- Each traps with Illegal Instruction on a bad operand, else answers in RD: a status, with nothing else changed, where it may
not act; 0, or the saved size, with its effect where it may. ASIDSET writes a context's entry from its descriptor; PTBASE
its ROOT; TLBINV drops translations and walks; KILLCTX ends the context's jobs and instances; SEMMAP maps a semaphore;
PREEMPT marks jobs; DRAIN waits for a stopped job to drain; CTXSAVE writes the area and frees the core; CTXLOAD loads a job.
The publish of the Director's stores comes first. (R97, R439, R440, R441, R442, R443, R444, R445, R446, R448, R450, R452.) -/
def Obligations.DirectorInstructionsOnContextsAndJobs : Prop :=
  ∀ (s p : State) (i : Instr) (rd ra rb : BitVec 5) (x y : DWord), x = getR s ra.toNat → y = getR s rb.toNat → p = publish s →
    Ready i noRing .dir s →
    (i = .asidset rd ra rb →
      (64 ≤ x.toNat ∨ ownHbm s y.toNat 64 64 = false ∨ (ctxDescBad p (memN p y.toNat 64) = true ∧ s.poison = []) → Illegal i s) ∧
      (∀ c f, x.toNat = c → c < 64 → ownHbm s y.toNat 64 64 = true → memPoison s y.toNat 64 = none → ctxDescBad p (memN p y.toNat 64) = false →
        f = (fun k n => Spec.le (fun b => ownByte s s.cur (y.toNat + k + b)) n) →
        (f 23 1 = 1 → ∃ e, Answers i rd s e 0 ∧ e.cores = s.cores ∧ (∀ d, d ≠ c → e.ctxEnt d = s.ctxEnt d) ∧
          e.ctxEnt c = { s.ctxEnt c with
            v := true, root := f 0 8, pool := f 8 8, nslot := f 16 2, slotsz := f 18 2,
            spbound := if f 20 3 = 0 ∨ 2 ^ 20 < f 20 3 then 2 ^ 20 else f 20 3, sem := BitVec.ofNat 80 (f 24 10), used := [] }) ∧
        (f 23 1 = 0 → (ctxLive p c = true → OnlyAnswers i rd s 4) ∧
          (ctxLive p c = false → ∃ e, Answers i rd s e 0 ∧ e.ctxEnt c = { s.ctxEnt c with v := false } ∧ e.cores = s.cores)))) ∧
    (i = .ptbase rd ra rb →
      (64 ≤ x.toNat ∨ ownHbm s y.toNat 4096 4096 = false → Illegal i s) ∧
      (x.toNat < 64 → ownHbm s y.toNat 4096 4096 = true →
        ((s.ctxEnt x.toNat).v = false → OnlyAnswers i rd s 3) ∧
        ((s.ctxEnt x.toNat).v = true → ∃ e, Answers i rd s e 0 ∧ e.ctxEnt x.toNat = { s.ctxEnt x.toNat with root := y.toNat } ∧
          (∀ d, d ≠ x.toNat → e.ctxEnt d = s.ctxEnt d) ∧ e.cores = s.cores))) ∧
    (i = .tlbinv rd ra rb →
      (x &&& ~~~0x33F#64 ≠ 0#64 ∨ y &&& ~~~0xFFFFFFFFF00F#64 ≠ 0#64 ∨ invSize (y.toNat % 16) = none → Illegal i s) ∧
      (∀ (sh : Nat) (hit : Tlb → Prop), invSize (y.toNat % 16) = some sh → x &&& ~~~0x33F#64 = 0#64 →
        y &&& ~~~0xFFFFFFFFF00F#64 = 0#64 →
        (∀ t, hit t ↔ (if t.g = true then x.getLsbD 9 = true else x.getLsbD 8 = true ∨ t.ctx = x.toNat % 64) ∧
          y.toNat / 4096 * 4096 / 2 ^ sh * 2 ^ sh < t.va + t.size ∧ t.va < y.toNat / 4096 * 4096 / 2 ^ sh * 2 ^ sh + 2 ^ sh) →
        ∃ e, Answers i rd s e 0 ∧ e.walks = [] ∧
          ∀ k t, (t ∈ (e.core k).tlb ↔ t ∈ (s.core k).tlb ∧ ¬ hit t) ∧ (t ∈ (e.clus k).tlb ↔ t ∈ (s.clus k).tlb ∧ ¬ hit t) ∧
            (t ∈ (e.die k).tlb ↔ t ∈ (s.die k).tlb ∧ ¬ hit t))) ∧
    (i = .killctx rd ra →
      (64 ≤ x.toNat → Illegal i s) ∧
      (∀ c, x.toNat = c → c < 64 →
        ((∀ q, s.me.wait ≠ .kill q) →
          ((s.ctxEnt c).v = false → OnlyAnswers i rd s 3) ∧
          ((s.ctxEnt c).v = true → ∃ e, exec i s = .next e ∧ (e.ctxEnt c).gen = (s.ctxEnt c).gen + 1#16 ∧ (e.ctxEnt c).used = [] ∧
            (∀ k < 384, ∀ j, (e.core k).job = some j → j.ctx ≠ c) ∧ (∀ n ∈ e.insts, n.ctx = c → (s.insts.filter fun z => decide (z.nix = n.nix)).length ≤ 1 → n.done = true) ∧
            (∀ a, memByte e a = ownByte s s.cur a) ∧
            (killPending (killCtx p c) c = true → e.me.wait = .kill c ∧ e.me.pc = s.me.pc)) ∧
          ((s.ctxEnt c).v = true → killPending (killCtx p c) c = false → ∃ e, Answers i rd s e 0)) ∧
        (∀ q, s.me.wait = .kill q → killPending p c = false → OnlyAnswers i rd s 0))) ∧
    (i = .semmap rd ra rb →
      (64 ≤ x.toNat ∨ 512 ≤ y.toNat → Illegal i s) ∧
      (x.toNat < 64 → y.toNat < 512 → ((s.ctxEnt x.toNat).v = false → OnlyAnswers i rd s 3) ∧
        ((s.ctxEnt x.toNat).v = true → ∃ e m, Answers i rd s e 0 ∧ e.ctxEnt x.toNat = { s.ctxEnt x.toNat with sem := m } ∧
          e.cores = s.cores ∧ ∀ w < 16, m.extractLsb' (5 * w) 5 =
            if w = y.toNat % 16 then BitVec.ofNat 5 (y.toNat / 16) else (s.ctxEnt x.toNat).sem.extractLsb' (5 * w) 5))) ∧
    (i = .preempt rd ra →
      (coreOperand s x false = none → Illegal i s) ∧
      (∀ k, coreOperand s x false = some k → k = x.toNat ∧ k < 384 ∧ k / 192 = agDie s.cur ∧
        ((s.core k).job = none → OnlyAnswers i rd s 2) ∧
        (∀ j, (s.core k).job = some j → ∃ e, Answers i rd s e 0 ∧ ∀ n j', (s.core n).job = some j' →
          (if j.gang = true then devCluster n = devCluster k ∧ j'.gang = true ∧ j'.nix = j.nix ∧ (∃ q < 8, n = clusterCore (devCluster k) q)
            else n = k) →
          ∃ j'', (e.core n).job = some j'' ∧ j''.mark = some 1 ∧ j''.nix = j'.nix ∧ j''.tile = j'.tile))) ∧
    (i = .drain rd ra rb →
      (coreOperand s x false = none → Illegal i s) ∧
      (∀ k, coreOperand s x false = some k →
        (s.me.ans = some .timeout → OnlyAnswers i rd s 8) ∧
        (s.me.ans ≠ some .timeout →
          (dirStopped p k = false → OnlyAnswers i rd s (if (s.core k).job = none then 2 else 1)) ∧
          (dirStopped p k = true → drainDone p k = true → OnlyAnswers i rd s 0) ∧
          (dirStopped p k = true → drainDone p k = false → (∀ q t, s.me.wait ≠ .drain q t) → ∃ e, exec i s = .next e ∧
            e.me.wait = .drain k (if y.toNat = 0 then 0 else s.cycle + y.toNat) ∧ e.me.pc = s.me.pc)))) ∧
    (i = .ctxsave rd ra rb → ∀ flag, flag = x.getLsbD 12 →
      (coreOperand s x true = none → Illegal i s) ∧
      (∀ k, coreOperand s x true = some k →
        (ownHbm s y.toNat (max 4096 (areaSize p k)) 4096 = false → Illegal i s) ∧
        (ownHbm s y.toNat (max 4096 (areaSize p k)) 4096 = true →
          ((s.core k).job = none → OnlyAnswers i rd s 2) ∧
          (∀ j, (s.core k).job = some j →
            (dirStopped p k = false → OnlyAnswers i rd s 1) ∧
            (dirStopped p k = true → drainDone p k = false ∨ portsSavable (s.core k) = false → ∃ e, exec i s = .next e ∧
              e.me.wait = .drain k 0 ∧ e.me.pc = s.me.pc ∧ e.core k = s.core k) ∧
            (dirStopped p k = true → drainDone p k = true → portsSavable (s.core k) = true → portsQuiet (s.core k) = false →
              ∃ e, exec i s = .next e ∧ e.me.wait = .drain k 0 ∧ e.me.pc = s.me.pc ∧ e.core k = quietPorts (s.core k)) ∧
            (dirStopped p k = true → drainDone p k = true → portsSavable (s.core k) = true → portsQuiet (s.core k) = true →
              ∃ e, Answers i rd s e (areaSize p k * 2 ^ 32) ∧ (e.core k).job = none ∧
                Spec.le (fun b => memByte e (y.toNat + b)) 4 = 0x41535A43 ∧
                Spec.le (fun b => memByte e (y.toNat + 16 + b)) 8 = (jobIdOf s k).toNat ∧
                (flag = true → j.gang = false → (e.die (coreDie k)).items = (s.die (coreDie k)).items ++
                  [{ nix := j.nix, b := j.b, c0 := s.cycle, next := 0, back := [(corePos k, j.tile, y.toNat + 1)], gang := false,
                     starved := false }]) ∧
                (flag = false → e.dies = s.dies)))))) ∧
    (i = .ctxload rd ra rb → coreOperand s x true = none ∨ ownHbm s y.toNat 4096 4096 = false → Illegal i s) ∧
    (i = .ctxload rd ra rb → ∀ k, coreOperand s x true = some k → ownHbm s y.toNat 4096 4096 = true →
      (s.phase = .adjourning ∨ s.phase = .adjourned → OnlyAnswers i rd s 9) ∧
      (s.phase ≠ .adjourning → s.phase ≠ .adjourned →
        ((s.core k).online = false → OnlyAnswers i rd s 6) ∧
        ((s.core k).online = true →
          ((s.core k).job ≠ none ∨ (s.core k).next ≠ none → OnlyAnswers i rd s 1) ∧
          ((s.core k).job = none → (s.core k).next = none →
            (areaOk p y.toNat = false → OnlyAnswers i rd s 5) ∧
            (∀ im, areaOk p y.toNat = true → areaImage p y.toNat = some im → (s.core k).img = some (im.img, im.reg) →
              enginesBusy (s.core k) = false → ∃ e j, Answers i rd s e 0 ∧ (e.core k).job = some j ∧
                j.tile = Spec.le (fun b => ownByte s s.cur (y.toNat + 16 + b)) 4 ∧
                j.nix = Spec.le (fun b => ownByte s s.cur (y.toNat + 20 + b)) 4 ∧ j.stopped = x.getLsbD 12)))))

/-- WAKE of KIND 0 resumes a stopped job, its mark kept (the model's reading, log 38), 1 ends it, 2 resumes a trapped handler, 3
ends its run, 4 restarts a port in FAULT; it answers 2 or 7 where there is none. LQPUSH launches a nest and answers its NIX,
or a status in the high word; a poisoned descriptor is a warm reset. TIMERD answers 1 with an event, 0 at its deadline, else
waits. SCORE appends an entry and answers its number, or updates one. MONSNAP writes the records of the masked monitors and
clears them. ADJOURN begins or ends an adjournment. DRAIN_TIMEOUT and TIMERD_DEADLINE answer the Director that waits. (R379,
R380, R439, R446, R453, R454, R455, R456, R457, R458, R475, R480.) -/
def Obligations.DirectorInstructionsOnTheDevice : Prop :=
  (∀ (s p : State) (i : Instr) (rd ra rb : BitVec 5) (x y : DWord), x = getR s ra.toNat → y = getR s rb.toNat → p = publish s →
    Ready i noRing .dir s →
    (i = .wake rd ra rb →
      (coreOperand s x false = none ∨ 512 ≤ y.toNat ∨ 5 ≤ y.toNat % 16 ∨ (y.toNat % 16 ≠ 4 ∧ 16 ≤ y.toNat) → Illegal i s) ∧
      (∀ k j, coreOperand s x false = some k → (s.core k).job = some j → dirStopped p k = true →
        (y.toNat = 0 → s.phase = .adjourning → OnlyAnswers i rd s 9) ∧
        (y.toNat = 0 → s.phase ≠ .adjourning → ∃ e j', Answers i rd s e 0 ∧ (e.core k).job = some j' ∧ j'.stopped = false ∧
          j'.tile = j.tile ∧ j'.mark = j.mark ∧ ∀ g < 3, (s.ctx (k * 4 + g)).run = .held ∨ (s.ctx (k * 4 + g)).run = .trapped →
            (e.ctx (k * 4 + g)).run = .run ∧ (e.ctx (k * 4 + g)).pc = (s.ctx (k * 4 + g)).pc) ∧
        (y.toNat = 1 → ∃ e, Answers i rd s e 0 ∧ (e.core k).job = none ∧ ∀ g < 3, e.ctx (k * 4 + g) = idleCtx (s.ctx (k * 4 + g)))) ∧
      (∀ k, coreOperand s x false = some k →
        (dirStopped p k = false → y.toNat = 0 ∨ y.toNat = 1 → OnlyAnswers i rd s 2) ∧
        ((s.ctx (k * 4 + 3)).run ≠ .trapped → y.toNat = 2 ∨ y.toNat = 3 → OnlyAnswers i rd s 2) ∧
        ((s.ctx (k * 4 + 3)).run = .trapped →
          (y.toNat = 2 → ∃ e, Answers i rd s e 0 ∧ e.ctx (k * 4 + 3) = { s.ctx (k * 4 + 3) with run := .run }) ∧
          (y.toNat = 3 → ∃ e, Answers i rd s e 0 ∧ (e.ctx (k * 4 + 3)).run = .idle ∧ (e.core k).hrun = none)) ∧
        (∀ n < 32, y.toNat = n * 16 + 4 →
          (((s.core k).port n).st ≠ .fault → OnlyAnswers i rd s 7) ∧
          (((s.core k).port n).st = .fault → ∃ e, Answers i rd s e 0 ∧
            ((e.core k).port n).st = if ((s.core k).port n).fend = true then .done else .run)))) ∧
    (i = .lqpush rd ra →
      (ownHbm s x.toNat 32 8 = false → Illegal i s) ∧
      (∀ u, ownHbm s x.toNat 32 8 = true → memPoison p x.toNat 32 = some u → ∃ e, exec i s = .next e ∧ e.wres = true) ∧
      (∀ f, ownHbm s x.toNat 32 8 = true → memPoison s x.toNat 32 = none → f = (fun k n => Spec.le (fun b => ownByte s s.cur (x.toNat + k + b)) n) →
        (s.phase = .adjourning ∨ s.phase = .adjourned → OnlyAnswers i rd s (0x0E * 2 ^ 32)) ∧
        (s.phase ≠ .adjourning → s.phase ≠ .adjourned →
          (16 < f 4 1 ∨ 2 ≤ f 5 1 ∨ 4 < f 6 1 ∨ f 7 1 ≠ 0 → OnlyAnswers i rd s (5 * 2 ^ 32)) ∧
          (f 4 1 ≤ 16 → f 5 1 < 2 → f 6 1 = 0 → f 7 1 = 0 → (∀ k < 16, f (16 + k) 1 = 0) →
            (imageNow s (f 0 2) = none → OnlyAnswers i rd s (0x0A * 2 ^ 32)) ∧
            (∀ im, imageNow s (f 0 2) = some im →
              (im.nests.length ≤ f 2 2 → OnlyAnswers i rd s (0x0A * 2 ^ 32)) ∧
              (f 2 2 < im.nests.length → tableFull s = true → OnlyAnswers i rd s (7 * 2 ^ 32)) ∧
              (f 2 2 < im.nests.length → tableFull s = false → instOf s (nextNix s).1 = none →
                ∃ e, Answers i rd s e (nextNix s).1 ∧ (∀ a, memByte e a = ownByte s s.cur a) ∧ ∃ n ∈ e.insts, n.nix = (nextNix s).1 ∧
                  n.nest = f 2 2 ∧ n.img = im.img ∧ n.arg = BitVec.ofNat 64 (f 8 8) ∧ n.ctx = im.ctx ∧ n.die = agDie s.cur ∧
                  n.notify = (if f 5 1 = 1 then some (agDie s.cur) else none) ∧ (f 4 1 < 16 → n.prio = f 4 1)))))) ) ∧
    (i = .timerd rd ra →
      (ringHolds s = true → OnlyAnswers i rd s 1) ∧
      (ringHolds s = false → x = 0#64 ∨ s.me.ans = some .timeout → OnlyAnswers i rd s 0) ∧
      (ringHolds s = false → x ≠ 0#64 → s.me.ans ≠ some .timeout → ∃ e, exec i s = .next e ∧ e.me.wait = .timer x.toNat ∧
        e.me.pc = s.me.pc ∧ e.cores = s.cores)) ∧
    (i = .score rd ra rb → ∀ m, m = y.toNat / 256 →
      (ownHbm s x.toNat 64 64 = false ∨ 2 ≤ y.toNat % 256 → Illegal i s) ∧
      (ownHbm s x.toNat 64 64 = true → memPoison s x.toNat 64 = none →
        (y.toNat % 256 = 0 → ∃ e w, Answers i rd s e s.sseq ∧ e.sseq = s.sseq + 1 ∧ scoreOf e s.sseq = some w ∧ w.tacc = s.time ∧
          w.st = (ownByte s s.cur (x.toNat + 28)).toNat ∧
          w.result = (List.range 8).map fun k => ownByte s s.cur (x.toNat + 32 + k)) ∧
        (y.toNat % 256 = 1 → scoreOf s m = none → OnlyAnswers i rd s 0) ∧
        (∀ o, y.toNat % 256 = 1 → scoreOf s m = some o → ∃ e, Answers i rd s e m ∧ e.sseq = s.sseq ∧
          mget o e.score (m % 65536) = { o with
            st := (ownByte s s.cur (x.toNat + 28)).toNat,
            result := (List.range 8).map fun k => ownByte s s.cur (x.toNat + 32 + k),
            tdone := Spec.le (fun k => ownByte s s.cur (x.toNat + 16 + k)) 8 }))) ∧
    (i = .monsnap rd ra rb → ∀ n, n = 128 * ((List.range 64).filter fun m => x.getLsbD m).length →
      (ownHbm s y.toNat n 64 = false → Illegal i s) ∧
      (ownHbm s y.toNat n 64 = true → ∃ e, Answers i rd s e n ∧ e.cores = s.cores ∧
        (∀ m < 64, x.getLsbD m = true → mget ({} : Mon) (e.die (agDie s.cur)).mons m =
          { cfg := (mget ({} : Mon) (s.die (agDie s.cur)).mons m).cfg, edge := (mget ({} : Mon) (s.die (agDie s.cur)).mons m).edge }) ∧
        (∀ m, x.getLsbD m = false → mget ({} : Mon) (e.die (agDie s.cur)).mons m = mget {} (s.die (agDie s.cur)).mons m) ∧
        (∀ m < 64, (∀ q, x.getLsbD q = decide (q = m)) → memByte e y.toNat = BitVec.ofNat 8 m ∧
          Spec.le (fun k => memByte e (y.toNat + 16 + k)) 8 = (mget ({} : Mon) (s.die (agDie s.cur)).mons m).count % 2 ^ 64) ∧
        ∀ a < 2 ^ 40, a < y.toNat % 2 ^ 40 ∨ y.toNat % 2 ^ 40 + n ≤ a → memByte e a = ownByte s s.cur a)) ∧
    (i = .adjourn rd ra →
      (2 ≤ x.toNat → Illegal i s) ∧
      (x = 0#64 → s.phase = .adjourning ∨ s.phase = .adjourned → OnlyAnswers i rd s 9) ∧
      (x = 0#64 → s.phase ≠ .adjourning → s.phase ≠ .adjourned → ∃ e, Answers i rd s e 0 ∧ e.phase = .adjourning ∧
        e.byCmd = true ∧ ∀ k j, (s.core k).job = some j → (s.core k).next = none → k ∈ mkeys s.cores →
          j.stopped = true ∨ ∃ j', (e.core k).job = some j' ∧ j'.mark = some 1) ∧
      (x = 1#64 → s.phase = .adjourning → OnlyAnswers i rd s 9) ∧
      (x = 1#64 → s.phase = .adjourned → ∃ e, Answers i rd s e 0 ∧ e.phase = (if s.full = true then .run else .boot) ∧ e.hdls = []) ∧
      (x = 1#64 → s.phase ≠ .adjourning → s.phase ≠ .adjourned → OnlyAnswers i rd s 2))) ∧
  (∀ (s : State) (g : Nat), (lateDrain s = some g →
      exec .drainTimeout s = .next (s.setCtx g { s.ctx g with ans := some .timeout })) ∧
    (lateTimer s = some g → exec .timerdDeadline s = .next (s.setCtx g { s.ctx g with ans := some .timeout })))

/-- PWR_FAIL and RAIL_LOW begin an adjournment and mark the running jobs, or join one. ADJOURNMENT_SAVED saves the handler runs
and powers compute down; POWER_RESTORED resumes. HOLD_EXPIRY writes the sealed copy and THERMAL_TRIP none, and the module is
off. POWER_UP boots both Directors at address 0 with the first firmware slot whose package both signatures and the version
floor admit, if the record is accepted under its keys, else with none; HOLDUP_STORE_FULL ends the start, with the tables of
a valid sealed copy, or with the open entries of the scoresheet abandoned. WARM_RESET boots the Directors, empties the
cores, and fails the contexts that were not idle. Nothing happens where a step is not enabled. (R429, R473, R474, R475,
R476, R477, R478, R479, R480, R481, R490, R491.) -/
def Obligations.PowerAndReset : Prop :=
  (∀ (s : State) (i : Instr), i = .pwrFail ∨ i = .railLow →
    (s.phase = .off → exec i s = .next s) ∧
    (s.phase = .adjourning ∨ s.phase = .adjourned → exec i s = .next { s with byCmd := false, back := false }) ∧
    (s.phase = .boot ∨ s.phase = .run → ∃ e, exec i s = .next e ∧ e.phase = .adjourning ∧ e.byCmd = false ∧ e.mem = s.mem ∧
      e.health.adjourns = Min.min (s.health.adjourns + 1) (2 ^ 64 - 1) ∧ e.sseq = s.sseq + 1 ∧
      ∀ k ∈ mkeys s.cores, (e.core k).next = none ∧
        ∀ j, (s.core k).job = some j → j.stopped = true ∨ ∃ j', (e.core k).job = some j' ∧ j'.mark = some 1)) ∧
  (∀ s : State, (adjournReady s = false → exec .adjournmentSaved s = .next s) ∧
    (adjournReady s = true → ∃ e, exec .adjournmentSaved s = .next e ∧ e.phase = .adjourned ∧
      (∀ k, (e.core k).job = none ∧ (e.core k).pad = [] ∧ (e.core k).deque = []) ∧ (∀ g < 1536, e.ctx g = {}) ∧
      (∀ k h, (s.core k).hrun = some h → ∃ x ∈ e.hdls, x.core = k ∧ x.run = some h ∧ x.ctx.regs = (s.ctx (k * 4 + 3)).regs ∧
        x.ctx.pc = (s.ctx (k * 4 + 3)).pc ∧ x.starts = (s.core k).hstart))) ∧
  (∀ s : State, (s.byCmd = true ∨ (s.phase ≠ .adjourning ∧ s.phase ≠ .adjourned) → exec .powerRestored s = .next s) ∧
    (s.byCmd = false → s.phase = .adjourning → exec .powerRestored s = .next { s with back := true }) ∧
    (s.byCmd = false → s.phase = .adjourned → ∃ e, exec .powerRestored s = .next e ∧ e.hdls = [] ∧ e.mem = s.mem ∧
      e.phase = (if s.full = true then .run else .boot) ∧ e.sseq = s.sseq + 1 ∧ ∀ x ∈ s.hdls, x.core < 384 →
        (∀ y ∈ s.hdls, y.core = x.core → y = x) → (e.core x.core).hrun = x.run ∧ e.ctx (x.core * 4 + 3) = x.ctx)) ∧
  (∀ s : State, (s.phase = .adjourned → s.byCmd = false → ∃ e x, exec .holdExpiry s = .next e ∧ e.phase = .off ∧ e.mem = [] ∧
      e.ctxs = [] ∧ e.cores = [] ∧ e.sealed = some x ∧ x.counter = s.sealCtr ∧ x.insts = s.insts ∧ x.ctxTab = s.ctxTab ∧
      x.images = s.images ∧ x.clocks = s.clocks ∧ x.hdls = s.hdls ∧ x.nixCtr = s.nixCtr ∧
      ∀ c, c ∈ s.ctxTab → c.2.v = true → c.2.root % 2 ^ 40 + 4096 ≤ 2 ^ 40 → ∀ b < 4096,
        mget 0#8 x.mem (c.2.root % 2 ^ 40 + b) = memByte s (c.2.root + b)) ∧
    (s.phase ≠ .adjourned ∨ s.byCmd = true → exec .holdExpiry s = .next s)) ∧
  (∀ s : State, (s.phase = .off → exec .thermalTrip s = .next s) ∧
    (s.phase ≠ .off → ∃ e, exec .thermalTrip s = .next e ∧ e.phase = .off ∧ e.sealed = none ∧ e.mem = [] ∧ e.ctxs = [] ∧
      e.journal = s.journal ∧ e.record = s.record)) ∧
  (∀ s : State, ∃ e, exec .powerUp s = .next e ∧ e.phase = .boot ∧ e.insts = [] ∧ e.cores = [] ∧
    e.health.boots = Min.min (s.health.boots + 1) (2 ^ 64 - 1) ∧ e.journal = s.journal ∧ e.routes = s.record.routes ∧
    (∀ p tx d, fwBoot s = some p → recordOk s p = true → firmOf p.body = some (tx, d) → e.bootFail = false ∧ e.fwVer = p.ver ∧
      e.ctx 1536 = Ctx.director ∧ e.ctx 1537 = Ctx.director ∧ (e.die 0).imem = tx ∧ (e.die 1).imem = tx) ∧
    ((∀ p, fwBoot s = some p → recordOk s p = false) → e.bootFail = true ∧ e.ctx 1536 = {} ∧ e.ctx 1537 = {} ∧
      (e.die 0).imem = [] ∧ (e.die 1).imem = [])) ∧
  (∀ (s : State) (p : Pkg), fwBoot s = some p →
    (s.slotA = some p ∨ (s.slotB = some p ∧ ∀ a, s.slotA = some a → fwOk s a = false)) ∧ s.fwFloor ≤ p.ver ∧
    sha384 p.edKey = s.romEd ∧ sha384 p.mlKey = s.romMl ∧ sha384 p.body = p.digest ∧
    ∀ g ∈ [p.ed, p.ml], g.ver = p.ver ∧ g.digest = p.digest ∧ (g = p.ed → g.key = p.edKey) ∧ (g = p.ml → g.key = p.mlKey)) ∧
  (∀ s : State,
    (s.phase = .adjourning ∨ s.phase = .adjourned → exec .holdupStoreFull s = .next { s with full := true }) ∧
    (s.phase = .off ∨ s.phase = .run → exec .holdupStoreFull s = .next s) ∧
    (s.phase = .boot → s.bootFail = true → exec .holdupStoreFull s = .next { s with full := true }) ∧
    (s.phase = .boot → s.bootFail = false →
      (∀ x, s.sealed = some x → x.counter = s.sealCtr → ∃ e, exec .holdupStoreFull s = .next e ∧ e.phase = .run ∧
        e.insts = x.insts ∧ e.ctxTab = x.ctxTab ∧ e.images = x.images ∧ e.nixCtr = x.nixCtr ∧ e.sealCtr = s.sealCtr + 1) ∧
      (s.sealed = none ∨ (∃ x, s.sealed = some x ∧ x.counter ≠ s.sealCtr) → ∃ e, exec .holdupStoreFull s = .next e ∧
        e.phase = .run ∧ e.insts = s.insts ∧ e.mem = s.mem ∧ (∀ p ∈ e.score, p.2.st ≠ 1 ∧ p.2.st ≠ 3) ∧
        ∀ p ∈ s.journal, p.2.sseq + 65536 ≤ e.sseq))) ∧
  (∀ s : State, (resetDue s = false → s.arg.ok = false ∨ s.phase = .off → exec .warmReset s = .next s) ∧
    (resetDue s = true ∨ (s.arg.ok = true ∧ s.phase ≠ .off) → ∃ e, exec .warmReset s = .next e ∧ e.phase = s.phase ∧
      (∀ p tx d, fwKept s = some p → firmOf p.body = some (tx, d) → e.bootFail = false ∧ e.ctx 1536 = Ctx.director ∧
        e.ctx 1537 = Ctx.director ∧ (e.die 0).imem = tx ∧ (e.die 1).imem = tx) ∧
      (fwKept s = none → e.bootFail = true ∧ e.ctx 1536 = {} ∧ e.ctx 1537 = {}) ∧ e.cycBase = s.cycle ∧ e.ptp.lock = 3 ∧ e.ptp.ofs = 0 ∧
      (∀ g < 1536, e.ctx g = {}) ∧ (∀ k, (e.core k).job = none ∧ (e.core k).deque = [] ∧ (e.core k).hrun = none) ∧ e.sess = [] ∧
      e.health.wresets = Min.min (s.health.wresets + 1) (2 ^ 64 - 1) ∧ e.images = s.images ∧
      ∀ c < 64, (e.ctxEnt c).gen = (if ctxBusy s c = true then (s.ctxEnt c).gen + 1#16 else (s.ctxEnt c).gen) ∧
        (e.ctxEnt c).v = (s.ctxEnt c).v ∧ (e.ctxEnt c).root = (s.ctxEnt c).root))

/-- A good flit in order is acknowledged and consumed, forwarded once on the direct route to its slot, or dropped and counted; a
bad one is answered with a NAK that names the last good one, and so is the first out of order. Good idle and link-control
flits only acknowledge. A request for a strong access is performed on the memory and answered; a response gives the waiting
engine its value, or its failure. A NAK sends the flits after the last good one again, and after 8 resends of one the port
retrains; a retrain of 10 ms fails, and one that ends resends the replay buffer. A strong access without a response in time
ends with a failure. BRCTL pauses, resumes or retrains a module, or sets ERR and does nothing; a pause moves the flits that
await retry to another module and ends PAUSED, a retrain PAUSED or DOWN; a repair map is written only then. A bad CRC
counts, and reaching THR sets HIT and tells both Directors. The form of a flit's payload (payloadOf, unwire, flitsOf) is the
model's choice (log 53). (R86, R421, R422, R423, R424, R425, R426, R427.) -/
def Obligations.PeerLinksAndBridge : Prop :=
  (∀ (s : State) (p a : Nat) (x : Peer) (l : List Flit), x = s.peer p → l = afterAck a x.replay → (ackFlits s p a).mem = s.mem ∧
    SendsOn (s.setPeer p { x with replay := l, resends := if l = x.replay then x.resends else 0 }) (ackFlits s p a) p []) ∧
  (∀ (s : State) (q : Nat) (f : Flit) (x : Peer), q = s.arg.port → f = s.arg.flit → x = s.peer q →
    (x.st ≠ 2 → exec .peerFlitReceive s = .next s) ∧
    (x.st = 2 → f.good = false ∨ (f.nak = false ∧ f.type ≠ 0 ∧ f.type ≠ 3 ∧ f.seq ≠ (x.rxSeq + 1) % 4096 ∧ x.nakSent = false) →
      ∃ e n, exec .peerFlitReceive s = .next e ∧
        e = { s.setPeer q { x with nakSent := true, crcs := if f.good then x.crcs else x.crcs + 1 } with out := s.out ++ [.flit q n] } ∧
        n.type = 3 ∧ n.nak = true ∧ n.ack = x.rxSeq ∧ n.good = true) ∧
    (x.st = 2 → f.good = true → f.nak = true ∨ (f.type ≠ 0 ∧ f.type ≠ 3 ∧ f.seq ≠ (x.rxSeq + 1) % 4096 ∧ x.nakSent = true) →
      exec .peerFlitReceive s = .next s) ∧
    (x.st = 2 → f.good = true → f.nak = false → f.type = 0 ∨ f.type = 3 → exec .peerFlitReceive s = .next (ackFlits s q f.ack))) ∧
  (∀ (s : State) (q : Nat) (f : Flit) (x : Peer) (z : State) (b : List Byte), q = s.arg.port → f = s.arg.flit → x = s.peer q →
    x.st = 2 → f.good = true → f.nak = false → f.type ≠ 0 → f.type ≠ 3 → f.seq = (x.rxSeq + 1) % 4096 →
    z = ackFlits (s.setPeer q { x with rxSeq := f.seq, nakSent := false }) q f.ack →
    b = mget [] s.parts (f.type * 64 + f.src % 64) ++ (payloadOf f).1 →
    ∃ e, exec .peerFlitReceive s = .next e ∧ (e.peer q).rxSeq = f.seq ∧ (e.peer q).nakSent = false ∧
      (f.dst = s.record.slot → (payloadOf f).2 = false →
        e = { z with parts := mset s.parts (f.type * 64 + f.src % 64) b }) ∧
      (∀ (t off n op u v : Nat) (r : DWord × State), f.type = 1 → f.dst = s.record.slot → (payloadOf f).2 = true →
        unwire b.length b = [t, 0, off, n, op, u, v] → off + n ≤ 0xC000000000 →
        r = strongAt s (StrongOp.ofNum op) off n (BitVec.ofNat 64 u) (BitVec.ofNat 64 v) →
        e.mem = r.2.mem ∧ (routeUp s f.src = true →
          SendsOn z e (routePort (routeOf s f.src)) (flitsOf s 2 f.src [t, 0, r.1.toNat])) ∧
        (routeUp s f.src = false → e.flitDrop = s.flitDrop + 1 ∧ e.out = z.out)) ∧
      (∀ (w : PeerReq) (ag id st : Nat) (rest : List Nat), f.type = 2 → f.dst = s.record.slot → (payloadOf f).2 = true →
        unwire b.length b = id :: st :: rest → s.preqs.find? (fun w => decide (w.id = id)) = some w → w.ag = some ag →
        (∀ y ∈ e.preqs, y.id ≠ w.id) ∧ ((s.ctx ag).wait = .remote → (e.ctx ag).ans = some
          (if st = 0 then .value (BitVec.ofNat 64 (rest.headD 0)) else .refused))) ∧
      (f.dst ≠ s.record.slot → f.viaV = true → f.via = s.record.slot → routeUp s f.dst = true →
        (routeOf s f.dst).getLsbD 9 = false → e.mem = s.mem ∧ SendsOn z e (routePort (routeOf s f.dst)) [f]) ∧
      (f.dst ≠ s.record.slot →
        (f.viaV = false ∨ f.via ≠ s.record.slot ∨ routeUp s f.dst = false ∨ (routeOf s f.dst).getLsbD 9 = true) →
        e = { z with flitDrop := s.flitDrop + 1 })) ∧
  (∀ (s : State) (q n : Nat) (f : Flit) (x y : Peer) (l : List Flit), q = s.arg.port → f = s.arg.flit → x = s.peer q →
    l = afterAck f.ack x.replay → n = (if l.length < x.replay.length then 1 else x.resends + 1) →
    y = { x with replay := l, resends := n, retries := Min.min (x.retries + l.length) (2 ^ 32 - 1) } →
    (x.st ≠ 2 ∨ (f.good = true ∧ f.nak = false) → exec .peerNak s = .next s) ∧
    (x.st = 2 → f.good = true → f.nak = true → l = [] ∨ n ≤ 8 → ∃ e, exec .peerNak s = .next e ∧ e.mem = s.mem ∧
      SendsOn { s.setPeer q y with out := s.out ++ l.map (Out.flit q) } e q []) ∧
    (x.st = 2 → f.good = true → f.nak = true → l ≠ [] → 8 < n → exec .peerNak s = .next (s.setPeer q
      { y with st := 1, since := s.cycle, retrains := Min.min (x.retrains + 1) 0xFFFF, resends := 0 }))) ∧
  (∀ (s : State) (q : Nat) (x : Peer), x = s.peer q →
    (lateRetrain s = some q → exec .peerRetrainTimeout s = .next (s.setPeer q { x with st := 0 })) ∧
    (s.arg.port = q → q < 8 → x.st ≠ 2 → ∃ e, exec .peerTrainingDone s = .next e ∧ (e.peer q).st = 2 ∧ e.mem = s.mem ∧
      SendsOn { s.setPeer q { x with st := 2, resends := 0, nakSent := false } with
        out := s.out ++ x.replay.map (Out.flit q) } e q []) ∧
    (s.arg.port = q → 8 ≤ q ∨ x.st = 2 → exec .peerTrainingDone s = .next s)) ∧
  (∀ (s : State) (w : PeerReq) (ag : Nat), deadReq s = some w → w.ag = some ag → ∃ e, exec .peerRequestTimeout s = .next e ∧
    (∀ z ∈ e.preqs, z.id ≠ w.id) ∧ e.mem = s.mem ∧ ((s.ctx ag).wait = .remote → (e.ctx ag).ans = some .refused)) ∧
  (∀ (s : State) (g : Nat) (v : DWord) (t : List (Nat × Nat × DWord)), s.csrq = (g, 0x923, v) :: t →
    ∃ e, exec .plrdataWrite s = .next e ∧ e.csrq = t ∧ routeOf e (s.die (agDie g)).plroute = v.setWidth 16 &&& 0xFF07#16 ∧
      ∀ n, n ≠ (s.die (agDie g)).plroute → routeOf e n = routeOf s n) ∧
  (∀ (s : State) (g m : Nat) (v : DWord) (t : List (Nat × Nat × DWord)) (x : BrMod), s.csrq = (g, 0x904, v) :: t →
    m = (s.die (agDie g)).brsel → x = s.brMod m →
    (v.toNat % 8 = 1 →
      (x.st ≠ 0 ∨ x.busy ≠ none ∨ (∀ k < 32, k ≠ m → (s.brMod k).st ≠ 0 ∨ (s.brMod k).busy ≠ none) →
        exec .brctlPause s = .next (({ s with csrq := t } : State).setBrMod m { x with err := true })) ∧
      (x.st = 0 → x.busy = none → (∃ k < 32, k ≠ m ∧ (s.brMod k).st = 0 ∧ (s.brMod k).busy = none) →
        ∃ k < 32, k ≠ m ∧ (s.brMod k).st = 0 ∧ (s.brMod k).busy = none ∧ exec .brctlPause s = .next
          ((({ s with csrq := t } : State).setBrMod k { s.brMod k with held := (s.brMod k).held + x.held }).setBrMod m
            { x with err := false, held := 0, busy := some (false, s.cycle) }))) ∧
    (v.toNat % 8 = 2 →
      (x.st ≠ 1 → exec .brctlResume s = .next (({ s with csrq := t } : State).setBrMod m { x with err := true })) ∧
      (x.st = 1 → exec .brctlResume s = .next (({ s with csrq := t } : State).setBrMod m { x with err := false, st := 0 }))) ∧
    (v.toNat % 8 = 3 →
      (v.toNat / 16 % 4 = 3 ∨ (x.st ≠ 1 ∧ x.st ≠ 3) ∨ badMap x.repair (v.toNat / 16 % 4) = true →
        exec .brctlRetrain s = .next (({ s with csrq := t } : State).setBrMod m { x with err := true })) ∧
      (v.toNat / 16 % 4 ≠ 3 → x.st = 1 ∨ x.st = 3 → badMap x.repair (v.toNat / 16 % 4) = false →
        exec .brctlRetrain s = .next (({ s with csrq := t } : State).setBrMod m
          { x with err := false, st := 2, width := v.toNat / 16 % 4, busy := some (true, s.cycle) })))) ∧
  (∀ (s : State) (g m : Nat) (v : DWord) (t : List (Nat × Nat × DWord)) (x : BrMod), s.csrq = (g, 0x903, v) :: t →
    m = (s.die (agDie g)).brsel → x = s.brMod m →
    (x.st = 1 ∨ x.st = 3 → exec .brrepairWrite s = .next (({ s with csrq := t } : State).setBrMod m
      { x with repair := v.setWidth 32 &&& 0xBFBFBFBF#32 })) ∧
    (x.st ≠ 1 → x.st ≠ 3 → exec .brrepairWrite s = .next (({ s with csrq := t } : State).setBrMod m { x with err := true }))) ∧
  (∀ (s : State) (m : Nat), (pauseDone s = some m →
      exec .bridgePauseDone s = .next (s.setBrMod m { s.brMod m with st := 1, busy := none })) ∧
    (trainDone s = some m → ∃ e, exec .bridgeTrainingDone s = .next e ∧ (e.brMod m).busy = none ∧
      ((e.brMod m).st = 1 ∨ (e.brMod m).st = 3) ∧ (e.brMod m).width = (s.brMod m).width ∧ e.mem = s.mem ∧
      ∀ n < 4, (e.brMod m).spares / 2 ^ n % 2 = (s.brMod m).repair.toNat / 2 ^ (8 * n + 7) % 2)) ∧
  (∀ (s : State) (m : Nat) (x : BrMod), m = s.arg.port % 32 → x = s.brMod m →
    (x.st ≠ 0 → exec .bridgeFlitRetry s = .next s) ∧
    (x.st = 0 → s.arg.ok = true → exec .bridgeFlitRetry s = .next (s.setBrMod m { x with held := x.held - 1 })) ∧
    (x.st = 0 → s.arg.ok = false → ∃ e, exec .bridgeFlitRetry s = .next e ∧ (e.brMod m).held = x.held + 1 ∧
      (e.brMod m).count = Min.min (x.count + 1) (2 ^ 32 - 1) ∧
      (e.brMod m).crcerr = Min.min (x.crcerr + 1) (2 ^ 32 - 1) ∧
      (s.brThr ≤ Min.min (x.count + 1) (2 ^ 32 - 1) → e.brHit.getLsbD m = true) ∧
      (Min.min (x.count + 1) (2 ^ 32 - 1) < s.brThr → e.brHit = s.brHit) ∧
      (s.brThr ≤ Min.min (x.count + 1) (2 ^ 32 - 1) → s.brHit.getLsbD m = false →
        ∀ d < 2, ∃ w ∈ (e.die d).waiting, w.1.ty = 5 ∧ w.1.core = 0xFFFF)))

/-- A request to resolve an address of the port, or an echo request to it, that passes the port's protection is answered on it;
one that does not, a frame of no standard function, or an MKA frame that is not authentic, is dropped and counted. On a
protected port only a frame of its secure channel with a right check and a packet number above the last passes, MKA and, if
the record says so, PTP excepted; what is sent takes the next packet number. An authentic MKA frame of a peer that can serve
keys gives the port the peer's key. A Sync of the port's master, with the path delay known, measures the offset: one beyond
STEPTHR steps TIME and restarts the servo; a smaller one is left to slew, and 16 good ones in a row make LOCKED. A delay
response gives the path delay. Without messages for three intervals the servo goes to HOLDOVER. A module that is off does
nothing. The contents that frames hold here are the model's choice (log 60). (R409, R417, R418, R419, R420, R481.) -/
def Obligations.HostPortFramesAndTime : Prop :=
  (∀ (s : State) (f g : Frame) (t : SecTag) (k : Macsec) (l : Map Macsec),
    (mget false s.record.prot f.port = false → framePasses s f = true ∧ noteRx s f = s) ∧
    (mget false s.record.prot f.port = true → exempt s f = false → f.sec = none → framePasses s f = false) ∧
    (mget false s.record.prot f.port = true → exempt s f = false → f.sec = some t →
      s.macsec.find? (fun p => decide (p.1 = f.port)) = some (f.port, k) →
      t.an ≠ k.an ∨ fullPn k t.pn ≤ k.rxPn ∨ t.icv ≠ Config.gcmIcv k.key (fullPn k t.pn) (frameText f) → framePasses s f = false) ∧
    (mget false s.record.prot f.port = true → f.sec = some t →
      s.macsec.find? (fun p => decide (p.1 = f.port)) = some (f.port, k) → t.an = k.an → k.rxPn < fullPn k t.pn →
      fullPn k t.pn < 2 ^ 32 → t.icv = Config.gcmIcv k.key (fullPn k t.pn) (frameText f) → framePasses s f = true ∧
        noteRx s f = { s with macsec := (noteRx s f).macsec } ∧
        ((noteRx s f).macsec.find? fun p => decide (p.1 = f.port)) = some (f.port, { k with rxPn := fullPn k t.pn })) ∧
    (mget false s.record.prot g.port = false → sendFrame s g = { s with out := s.out ++ [.frame { g with sec := none }] }) ∧
    (mget false s.record.prot g.port = true → exempt s g = false →
      s.macsec.find? (fun p => decide (p.1 = g.port)) = some (g.port, k) → k.txPn + 1 < 2 ^ 32 →
      sendFrame s g = { s with macsec := (sendFrame s g).macsec, out := s.out ++ [.frame { g with
        sec := some { an := k.an, pn := k.txPn + 1, icv := Config.gcmIcv k.key (k.txPn + 1) (frameText g) } }] } ∧
      ((sendFrame s g).macsec.find? fun p => decide (p.1 = g.port)) = some (g.port, { k with txPn := k.txPn + 1 }))) ∧
  (∀ (s : State) (i : Instr) (k : Nat) (f : Frame), f = s.arg.frame → i = .neighbourDiscovery ∧ k = 1 ∨ i = .echo ∧ k = 2 →
    (s.phase = .off ∨ frameKind s f ≠ k → exec i s = .next s) ∧
    (s.phase ≠ .off → frameKind s f = k → framePasses s f = false → exec i s = .next
      { s with health := { s.health with dropped := Min.min (s.health.dropped + 1) (2 ^ 64 - 1) } }) ∧
    (∀ a b m, s.phase ≠ .off → frameKind s f = k → framePasses s f = true → f.pay = .resolve a b false m →
      (ownIp s f.port b = true → exec i s = .next (sendFrame (noteRx s f)
        { port := f.port, dst := m, src := macOf s f.port, pay := .resolve b a true (macOf s f.port) })) ∧
      (ownIp s f.port b = false → exec i s = .next (noteRx s f))) ∧
    (∀ a b d, s.phase ≠ .off → frameKind s f = k → framePasses s f = true → f.pay = .echo a b false d →
      exec i s = .next (sendFrame (noteRx s f)
        { port := f.port, dst := f.src, src := macOf s f.port, pay := .echo b a true d })) ∧
    (∀ a b m, s.phase ≠ .off → frameKind s f = k → framePasses s f = true → f.pay = .resolve a b true m →
      exec i s = .next (noteRx s f))) ∧
  (∀ (s : State) (f : Frame) (m : Mka), f = s.arg.frame → s.phase ≠ .off → frameKind s f = 3 → f.pay = .mka m →
    (mget false s.record.prot f.port = false ∨ m.icv ≠ Config.mkaIcv s.record.cak (mkaText m) → exec .mkaFrame s = .next
      { s with health := { s.health with dropped := Min.min (s.health.dropped + 1) (2 ^ 64 - 1) } }) ∧
    (mget false s.record.prot f.port = true → m.icv = Config.mkaIcv s.record.cak (mkaText m) →
      ∃ e g w, exec .mkaFrame s = .next e ∧ e = { s with macsec := e.macsec, out := s.out ++ [.frame g], free := e.free } ∧
        g.port = f.port ∧ g.sec = none ∧ g.pay = .mka w ∧ w.prio = 255 ∧ w.icv = Config.mkaIcv s.record.cak (mkaText w) ∧
        (∀ key an x, m.able = true → m.sak = some (key, an, x) →
          mget {} e.macsec f.port = { key := Config.mkaUnwrap s.record.cak key, an := an, xpn := x }) ∧
        (m.able = true → m.sak = none → e.macsec = s.macsec) ∧
        (m.able = false → ∃ k, (mget {} e.macsec f.port).key = k ∧ (mget {} e.macsec f.port).rxPn = 0 ∧
          (mget {} e.macsec f.port).txPn = 0 ∧ ∃ an x, w.sak = some (Config.mkaWrap s.record.cak k, an, x)))) ∧
  (∀ s : State, (s.phase ≠ .off → frameKind s s.arg.frame = 5 → exec .otherFrame s = .next
      { s with health := { s.health with dropped := Min.min (s.health.dropped + 1) (2 ^ 64 - 1) } }) ∧
    (frameKind s s.arg.frame ≠ 5 → exec .otherFrame s = .next s) ∧ (frameKind s s.arg.frame ≠ 3 → exec .mkaFrame s = .next s) ∧
    (frameKind s s.arg.frame ≠ 4 → exec .ptpEventMessage s = .next s) ∧
    (s.phase = .off → ∀ i, i = .otherFrame ∨ i = .neighbourDiscovery ∨ i = .echo ∨ i = .mkaFrame ∨ i = .ptpEventMessage
      ∨ i = .ptpHoldover → exec i s = .next s)) ∧
  (∀ (s : State) (f : Frame) (m : PtpMsg) (x : PtpPort), f = s.arg.frame → x = ptpPort s f.port → s.phase ≠ .off →
    frameKind s f = 4 → f.pay = .ptp m →
    (framePasses s f = false → exec .ptpEventMessage s = .next
      { s with health := { s.health with dropped := Min.min (s.health.dropped + 1) (2 ^ 64 - 1) } }) ∧
    (framePasses s f = true → s.ptp.en = false ∨ (s.ptp.port ≠ 2 ∧ s.ptp.port ≠ f.port) ∨ m.std ≠ s.ptp.profile →
      exec .ptpEventMessage s = .next (noteRx s f)) ∧
    (framePasses s f = true → s.ptp.en = true → f.port < 2 → s.ptp.port = f.port → m.std = s.ptp.profile → x.src = some m.src →
      (∀ (d v : Int), m.type = 0 → m.two = false → x.delay = some d → v = (s.time : Int) - (m.ts + m.corr) - d →
        ∃ e, exec .ptpEventMessage s = .next e ∧ e.ptp.ofs = v ∧ e.ptp.actport = f.port ∧ e.mem = s.mem ∧
          ((s.ptp.stepthr : Int) < v.natAbs → e.timeOfs = s.timeOfs - v ∧ e.ptp.lock = 1 ∧ e.ptp.syncs = 0) ∧
          ((v.natAbs : Int) ≤ s.ptp.stepthr → e.timeOfs = s.timeOfs ∧ -500000 ≤ e.ptp.freq ∧ e.ptp.freq ≤ 500000 ∧
            (v.natAbs < 100 → 15 ≤ s.ptp.good → e.ptp.lock = 2) ∧
            (s.ptp.lock = 2 → (v.natAbs < 1000 ∨ s.ptp.bad < 3) → e.ptp.lock = 2) ∧
            (s.ptp.lock = 2 → 1000 ≤ v.natAbs → 3 ≤ s.ptp.bad → e.ptp.lock = 1) ∧
            (s.ptp.lock ≠ 2 → (100 ≤ v.natAbs ∨ s.ptp.good < 15) → e.ptp.lock = 1))) ∧
      (∀ (t1 t2 t3 : Int), m.type = 9 → s.ptp.profile = 0 → m.req = ptpIdent s f.port → x.req = some (m.seq, t3) →
        x.pair = some (t1, t2) → ∃ e, exec .ptpEventMessage s = .next e ∧ e.timeOfs = s.timeOfs ∧ e.ptp.lock = s.ptp.lock ∧
          (ptpPort e f.port).delay = some (((t2 - t1) + (m.ts - m.corr - t3)) / 2)))) ∧
  (∀ (s : State) (x : PtpPort), s.phase ≠ .off →
    (s.ptp.en = false ∨ s.ptp.lock = 0 ∨ s.ptp.lock = 3 → exec .ptpHoldover s = .next s) ∧
    (s.ptp.port ≠ 2 → x = ptpPort s s.ptp.port → s.ptp.en = true → s.ptp.lock = 1 ∨ s.ptp.lock = 2 →
      (x.src ≠ none → s.cycle < x.at_ + 3 * x.ivl → exec .ptpHoldover s = .next s) ∧
      (x.src = none ∨ x.at_ + 3 * x.ivl ≤ s.cycle → exec .ptpHoldover s = .next
        { s with ptp := { s.ptp with lock := 3, good := 0, bad := 0, syncs := 0 } })))

/-- A datagram that is no valid request is dropped and counted. OPEN opens the first free session or answers BUSY; CLOSE and
SESSION_TIMEOUT end one, while what it had accepted goes on. A request without a session is NOSESSION, one out of sequence
BADSEQ, the last one again is answered again, one that is not served now gets its status, and these do nothing else. A
request that is to be executed is refused with BADFIELD, NOCTX or its own status, or replied to OK after its effect:
SUBSCRIBE, LOADIMG, WRITEMEM, READMEM, BINDTABLE, LAUNCH, CLOCK, READSCORE, READMON, READHEALTH, ADJOURN, RESUME, ATTEST;
KILL and a BINDTABLE that must wait are replied to on completion. Replies leave through the port's protection (sendAll).
ATTEST holds the digests of the firmware and the record. (R401, R409, R410, R411, R412, R413, R414, R415, R430, R443, R477,
R480.) -/
def Obligations.EcpRequests : Prop :=
  (∀ (s : State) (i : Instr), s.phase ≠ .off → otherKind s s.arg.frame = false → reqOf s s.arg.frame = none → s.arg ≠ {} →
    i = .openSession ∨ i = .closeSession ∨ i = .subscribe ∨ i = .loadimg ∨ i = .writemem ∨ i = .readmem ∨ i = .bindtable
      ∨ i = .launch ∨ i = .clock ∨ i = .kill ∨ i = .readscore ∨ i = .readmon ∨ i = .readhealth ∨ i = .ecpAdjourn ∨ i = .resume
      ∨ i = .attest →
    exec i s = .next { s with health := { s.health with dropped := Min.min (s.health.dropped + 1) (2 ^ 64 - 1) } }) ∧
  (∀ (s : State) (r : Req), s.phase ≠ .off → reqOf s s.arg.frame = some r → r.op = 0x01 →
    (r.sess ≠ 0 ∨ r.seq ≠ 0 → exec .openSession s = .next (sendAll (noteRx s s.arg.frame) (replyFrames s r r.sess 1 0 0 []))) ∧
    (r.sess = 0 → r.seq = 0 → r.body ≠ [] → exec .openSession s = .next (sendAll (noteRx s s.arg.frame) (replyFrames s r r.sess 5 0 0 []))) ∧
    (r.sess = 0 → r.seq = 0 → r.body = [] →
      ((∀ n, 1 ≤ n → n ≤ 16 → s.sess.any (fun p => decide (p.1 = n)) = true) →
        exec .openSession s = .next (sendAll (noteRx s s.arg.frame) (replyFrames s r r.sess 2 0 0 []))) ∧
      (∀ n, 1 ≤ n → n ≤ 16 → s.sess.any (fun p => decide (p.1 = n)) = false →
        (∀ m, 1 ≤ m → m < n → s.sess.any (fun p => decide (p.1 = m)) = true) → ∃ e, exec .openSession s = .next e ∧
        e.out = (sendAll (noteRx s s.arg.frame) (replyFrames s r n 0 0 0 [])).out ∧ (e.ses n).last = 0 ∧ (e.ses n).mask = 0 ∧
        (e.ses n).busy = false ∧ (e.ses n).at_ = s.cycle ∧ e = { s with sess := e.sess, out := e.out, macsec := e.macsec }))) ∧
  (∀ (s : State) (r : Req), Asks s 0x02 r → r.body = [] → ∃ e, exec .closeSession s = .next e ∧
    e.out = (sendAll (noteRx s s.arg.frame) (replyFrames s r r.sess 0 0 0 [])).out ∧ e.ses r.sess = {} ∧
    (∀ n, n ≠ r.sess → e.ses n = s.ses n) ∧ (r.sess ≠ 0 → ∀ w ∈ e.ecpq, w.sess ≠ r.sess) ∧ e.ecpq.length = s.ecpq.length ∧
    e.mem = s.mem) ∧
  (∀ (s : State) (n : Nat), staleSession s = some n → ∃ e, exec .sessionTimeout s = .next e ∧ e.ses n = {} ∧ e.out = s.out ∧
    (∀ m, m ≠ n → e.ses m = s.ses m) ∧ e.ecpq.length = s.ecpq.length ∧ e.mem = s.mem) ∧
  (∀ (s : State) (r : Req) (i : Instr) (op : Nat), s.phase ≠ .off → reqOf s s.arg.frame = some r → r.op = op →
    (i, op) ∈ [(Instr.subscribe, 0x03), (.loadimg, 0x10), (.writemem, 0x11), (.readmem, 0x12), (.bindtable, 0x13), (.launch, 0x20),
      (.clock, 0x21), (.kill, 0x22), (.readscore, 0x30), (.readmon, 0x31), (.readhealth, 0x32), (.ecpAdjourn, 0x40), (.resume, 0x41),
      (.attest, 0x50)] →
    (s.sess.any (fun p => decide (p.1 = r.sess)) = false → exec i s = .next (sendAll (noteRx s s.arg.frame) (replyFrames s r r.sess 3 0 0 []))) ∧
    (s.sess.any (fun p => decide (p.1 = r.sess)) = true →
      (r.seq ≠ (s.ses r.sess).last → r.seq ≠ ((s.ses r.sess).last + 1) % 2 ^ 32 → ∃ e, exec i s = .next e ∧
        e.out = (sendAll (noteRx s s.arg.frame) (replyFrames s r r.sess 1 0 0 [])).out ∧ (e.ses r.sess).last = (s.ses r.sess).last ∧
        e = { s with sess := e.sess, out := e.out, macsec := e.macsec }) ∧
      (r.seq = (s.ses r.sess).last → ∃ e, exec i s = .next e ∧ (e.ses r.sess).last = (s.ses r.sess).last ∧
        e = { s with sess := e.sess, out := e.out, macsec := e.macsec } ∧ ((s.ses r.sess).busy = true → e.out = s.out) ∧
        ((s.ses r.sess).busy = false → mget false s.record.prot s.arg.frame.port = false → e.out.length = s.out.length + (s.ses r.sess).reply.length)) ∧
      (r.seq ≠ (s.ses r.sess).last → r.seq = ((s.ses r.sess).last + 1) % 2 ^ 32 → (s.ses r.sess).busy = true →
        ∃ e, exec i s = .next e ∧ e.out = (sendAll (noteRx s s.arg.frame) (replyFrames s r r.sess 2 0 0 [])).out ∧
        e = { s with sess := e.sess, out := e.out, macsec := e.macsec }) ∧
      (∀ st, r.seq ≠ (s.ses r.sess).last → r.seq = ((s.ses r.sess).last + 1) % 2 ^ 32 → (s.ses r.sess).busy = false →
        notServed s op = some st → Refuses i s r st 0 []))) ∧
  (∀ (s : State) (r : Req), Asks s 0x03 r → r.body.length = 64 → (r.body.getD 0 0#8).toNat < 8 → (∀ k, 1 ≤ k → k < 64 → r.body.getD k 0#8 = 0#8) →
    ∃ e, exec .subscribe s = .next e ∧ Replies .subscribe s e r 0 0 0 [] ∧ (e.ses r.sess).mask = (r.body.getD 0 0#8).toNat ∧ e.mem = s.mem) ∧
  (∀ (s : State) (r : Req), Asks s 0x10 r → 17 ≤ r.body.length → r.body.length ≤ 1024 → at_ r.body 0 1 < 64 → at_ r.body 1 1 < 64 →
    at_ r.body 2 1 < 4 → at_ r.body 3 1 = 0 →
    ((s.ctxEnt (at_ r.body 1 1)).v = false → Refuses .loadimg s r 0x0D 0 []) ∧
    ((s.ctxEnt (at_ r.body 1 1)).v = true → at_ r.body 2 1 % 2 = 1 → at_ r.body 4 4 = 0 →
      (at_ r.body 2 1 = 1 → ∃ e, exec .loadimg s = .next e ∧ Replies .loadimg s e r 0 0 0 [] ∧ e.images = s.images ∧ e.mem = s.mem ∧ ∀ d, mget d e.stages r.sess =
        { img := at_ r.body 0 1, ctx := at_ r.body 1 1, dva := at_ r.body 8 8, body := r.body.drop 16 }) ∧
      (∀ im l, at_ r.body 2 1 = 3 →
        loadImage (r.body.drop 16) (at_ r.body 0 1) (at_ r.body 1 1) (at_ r.body 8 8) s.regCtr = .ok im →
        ecpAccess s im.ctx im.dva im.data.length true = .inr l →
        ∃ e, exec .loadimg s = .next e ∧ Replies .loadimg s e r 0 0 s.sseq [] ∧ e.images = s.images ++ [im] ∧ e.regCtr = s.regCtr + 1))) ∧
  (∀ (s : State) (r : Req), Asks s 0x11 r → 17 ≤ r.body.length → r.body.length ≤ 1024 → at_ r.body 0 1 < 64 →
    (∀ k, 1 ≤ k → k < 8 → r.body.getD k 0#8 = 0#8) →
    ((s.ctxEnt (at_ r.body 0 1)).v = false → Refuses .writemem s r 0x0D 0 []) ∧
    ((s.ctxEnt (at_ r.body 0 1)).v = true →
      (∀ m a, ecpAccess s (at_ r.body 0 1) (at_ r.body 8 8) (r.body.length - 16) true = .inl (m, a) →
        Refuses .writemem s r 6 m (leBytes 8 a)) ∧
      (∀ pa, ecpAccess s (at_ r.body 0 1) (at_ r.body 8 8) (r.body.length - 16) true = .inr [(pa, r.body.length - 16)] →
        pa % 2 ^ 40 + r.body.length ≤ 2 ^ 40 → ∃ e, exec .writemem s = .next e ∧ Replies .writemem s e r 0 0 s.sseq [] ∧ e.sseq = s.sseq + 1 ∧
        e.cores = s.cores ∧ ∀ k < r.body.length - 16, memByte e (pa + k) = r.body.getD (16 + k) 0#8))) ∧
  (∀ (s : State) (r : Req), Asks s 0x12 r → r.body.length = 16 → at_ r.body 0 1 < 64 → at_ r.body 1 1 = 0 → 1 ≤ at_ r.body 2 2 →
    at_ r.body 2 2 ≤ 1024 → at_ r.body 4 4 = 0 →
    ((s.ctxEnt (at_ r.body 0 1)).v = false → Refuses .readmem s r 0x0D 0 []) ∧
    ((s.ctxEnt (at_ r.body 0 1)).v = true →
      (∀ m a, ecpAccess s (at_ r.body 0 1) (at_ r.body 8 8) (at_ r.body 2 2) false = .inl (m, a) →
        Refuses .readmem s r 6 m (leBytes 8 a)) ∧
      (∀ pa n, ecpAccess s (at_ r.body 0 1) (at_ r.body 8 8) (at_ r.body 2 2) false = .inr [(pa, n)] →
        ∃ e, exec .readmem s = .next e ∧ Replies .readmem s e r 0 0 0 (memN s pa n) ∧ e.mem = s.mem))) ∧
  (∀ (s : State) (r : Req) (c h : Nat) (d : Desc), Asks s 0x13 r → r.body.length = 80 → c = at_ r.body 0 1 → h = at_ r.body 1 1 → c < 64 →
    h < 32 → (∀ k, 2 ≤ k → k < 16 → r.body.getD k 0#8 = 0#8) → d = descOf (r.body.drop 16) →
    ((s.ctxEnt c).v = false → Refuses .bindtable s r 0x0D 0 []) ∧
    ((s.ctxEnt c).v = true →
      (d.v = true → (handleOf s c h).cur ≠ none ∨ curOf s c h ≠ none ∨ (d.dist ≠ 0 ∧ tidUsed s d.tid = true) →
        Refuses .bindtable s r 0x0C 2 []) ∧
      (d.v = true → (handleOf s c h).cur = none → curOf s c h = none → d.dist = 0 ∨ tidUsed s d.tid = false → 512 ≤ heldCount s →
        Refuses .bindtable s r 0x0C 8 []) ∧
      (d.v = true → (handleOf s c h).cur = none → curOf s c h = none → d.dist = 0 ∨ tidUsed s d.tid = false → heldCount s < 512 →
        (descBad s.record.slot (r.body.drop 16) = true → Refuses .bindtable s r 0x0C 3 []) ∧
        (descBad s.record.slot (r.body.drop 16) = false → ∃ e, exec .bindtable s = .next e ∧ Replies .bindtable s e r 0 0 s.sseq [] ∧
          handleOf e c h = { cur := some { d with uid := s.gathCtr } } ∧ e.mem = s.mem)) ∧
      (d.v = false → (handleOf s c h).cur = none → Refuses .bindtable s r 0x0C 1 []) ∧
      (d.v = false → (handleOf s c h).cur ≠ none →
        (toAccept s c h = false → ∃ e, exec .bindtable s = .next e ∧ Replies .bindtable s e r 0 0 s.sseq [] ∧ (handleOf e c h).cur = none ∧ e.mem = s.mem) ∧
        (toAccept s c h = true → ∃ e, exec .bindtable s = .next e ∧ e.out = s.out ∧ (e.ses r.sess).busy = true ∧
          (∃ w ∈ e.ecpq, w.sess = r.sess ∧ w.seq = r.seq ∧ w.sseq = s.sseq) ∧ handleOf e c h = handleOf s c h)))) ∧
  (∀ (s : State) (r : Req), Asks s 0x20 r → r.body.length = 16 → at_ r.body 4 1 ≤ 16 → at_ r.body 5 1 ≤ 2 → at_ r.body 6 1 = 0 →
    at_ r.body 7 1 = 0 →
    (imageNow s (at_ r.body 0 2) = none → Refuses .launch s r 0x0A 0 []) ∧
    (∀ im, imageNow s (at_ r.body 0 2) = some im →
      (im.nests.length ≤ at_ r.body 2 2 → Refuses .launch s r 0x0A 0 []) ∧
      (at_ r.body 2 2 < im.nests.length → (s.ctxEnt im.ctx).v = false → Refuses .launch s r 0x0D 0 []) ∧
      (at_ r.body 2 2 < im.nests.length → (s.ctxEnt im.ctx).v = true → tableFull s = true → Refuses .launch s r 7 0 []) ∧
      (at_ r.body 2 2 < im.nests.length → (s.ctxEnt im.ctx).v = true → tableFull s = false → instOf s (nextNix s).1 = none →
        ∃ e, exec .launch s = .next e ∧ Replies .launch s e r 0 0 s.sseq (leBytes 4 (nextNix s).1) ∧ e.mem = s.mem ∧ ∃ n ∈ e.insts, n.nix = (nextNix s).1 ∧
          n.nest = at_ r.body 2 2 ∧ n.img = im.img ∧ n.die = at_ r.body 5 1 ∧ n.arg = BitVec.ofNat 64 (at_ r.body 8 8) ∧
          n.scored = s.sseq ∧ (at_ r.body 4 1 < 16 → n.prio = at_ r.body 4 1)))) ∧
  (∀ (s : State) (r : Req) (c : BitVec 512), Asks s 0x21 r → r.body.length = 72 → at_ r.body 0 1 < 64 →
    (∀ k, 1 ≤ k → k < 8 → r.body.getD k 0#8 = 0#8) → c = BitVec.ofNat 512 (at_ r.body 8 64) →
    (clkBad s c = true → Refuses .clock s r 0x0B 0 []) ∧
    (clkBad s c = false → ∃ e sq, exec .clock s = .next e ∧ Replies .clock s e r 0 0 sq [] ∧ (e.clk (at_ r.body 0 1)).rec_ = clkSet c 48 12 0 ∧ e.clkErr = false ∧
      (∀ n, n ≠ at_ r.body 0 1 → e.clk n = s.clk n) ∧ e.mem = s.mem)) ∧
  (∀ (s : State) (r : Req) (c : Nat), Asks s 0x22 r → r.body.length = 8 → c = at_ r.body 0 1 → c < 64 →
    (∀ k, 1 ≤ k → k < 8 → r.body.getD k 0#8 = 0#8) →
    ((s.ctxEnt c).v = false → Refuses .kill s r 0x0D 0 []) ∧
    ((s.ctxEnt c).v = true → ∃ e, exec .kill s = .next e ∧ (e.ctxEnt c).gen = (s.ctxEnt c).gen + 1#16 ∧
      (e.ses r.sess).busy = true ∧ (∃ w ∈ e.ecpq, w.sess = r.sess ∧ w.op = 0x22 ∧ w.ctx = c) ∧ e.mem = s.mem ∧
      ∀ k < 384, ∀ j, (e.core k).job = some j → j.ctx ≠ c)) ∧
  (∀ (s : State) (i : Instr) (k : Nat) (w : EcpWait), s.arg = {} → i = .kill ∧ toFinishKill s = some (k, w)
      ∨ i = .bindtable ∧ toUnbind s = some (k, w) →
    ∃ e, exec i s = .next e ∧ e.ecpq = s.ecpq.take k ++ s.ecpq.drop (k + 1) ∧ e.mem = s.mem ∧
      (w.sess = 0 → e.out = s.out) ∧ (w.sess ≠ 0 → e.out = (sendAll s (replyFrames s
        { port := w.port, src := w.src, op := w.op, sess := w.sess, seq := w.seq, head := [], body := [] } w.sess 0 0 w.sseq [])).out) ∧
      (w.sess ≠ 0 → s.sess.any (fun p => decide (p.1 = w.sess)) = true → (e.ses w.sess).busy = false) ∧
      (i = .bindtable → (handleOf e (w.ctx / 32) (w.ctx % 32)).cur = none)) ∧
  (∀ (s : State) (r : Req) (b : Nat), Asks s 0x30 r → r.body.length = 16 → b = at_ r.body 8 1 → 1 ≤ b → b ≤ 15 →
    (∀ k, 9 ≤ k → k < 16 → r.body.getD k 0#8 = 0#8) →
    ∃ e l, exec .readscore s = .next e ∧ Replies .readscore s e r 0 0 0 l ∧ l.length = 64 * b ∧ e = { s with sess := e.sess, out := e.out, macsec := e.macsec } ∧
      ∀ x, b = 1 → scoreOf s (at_ r.body 0 8) = some x → l = scoreBytes x) ∧
  (∀ (s : State) (r : Req), Asks s 0x31 r → r.body.length = 16 → at_ r.body 0 1 < 2 →
    (∀ k, 1 ≤ k → k < 8 → r.body.getD k 0#8 = 0#8) →
    ∃ e, exec .readmon s = .next e ∧ Replies .readmon s e r 0 0 0 (monRecords s (at_ r.body 0 1) (BitVec.ofNat 64 (at_ r.body 8 8))) ∧
      e = { s with sess := e.sess, out := e.out, macsec := e.macsec }) ∧
  (∀ (s : State) (r : Req), Asks s 0x32 r →
    (r.body ≠ [] → Refuses .readhealth s r 5 0 []) ∧
    (r.body = [] → ∃ e l, exec .readhealth s = .next e ∧ Replies .readhealth s e r 0 0 0 l ∧ e = { s with sess := e.sess, out := e.out, macsec := e.macsec } ∧
      (l.drop 8).take 8 = leBytes 8 s.health.boots ∧ (l.drop 16).take 8 = leBytes 8 s.health.wresets)) ∧
  (∀ (s : State) (r : Req), Asks s 0x40 r →
    (r.body ≠ [] → Refuses .ecpAdjourn s r 5 0 []) ∧
    (r.body = [] → ∃ e sq, exec .ecpAdjourn s = .next e ∧ Replies .ecpAdjourn s e r 0 0 sq [] ∧ e.phase = .adjourning ∧ e.byCmd = true ∧ e.mem = s.mem)) ∧
  (∀ (s : State) (r : Req), Asks s 0x41 r →
    (r.body ≠ [] → Refuses .resume s r 5 0 []) ∧
    (r.body = [] →
      (s.phase = .adjourned → s.byCmd = true → ∃ e sq, exec .resume s = .next e ∧ Replies .resume s e r 0 0 sq [] ∧
        e.phase = (if s.full = true then .run else .boot) ∧ e.hdls = [] ∧ e.mem = s.mem) ∧
      (s.phase = .run → ∃ e, exec .resume s = .next e ∧ Replies .resume s e r 0 0 s.sseq [] ∧ e.phase = .run ∧ e.mem = s.mem) ∧
      (s.phase ≠ .run → ¬(s.phase = .adjourned ∧ s.byCmd = true) → Refuses .resume s r 0x0E 0 []))) ∧
  (∀ (s : State) (r : Req), Asks s 0x50 r → r.body.length = 40 → at_ r.body 32 1 < 2 →
    (∀ k, 33 ≤ k → k < 40 → r.body.getD k 0#8 = 0#8) →
    ∃ e l, exec .attest s = .next e ∧ Replies .attest s e r 0 0 0 l ∧ l.take 32 = r.body.take 32 ∧
      (∀ p, s.fwPkg = some p → (l.drop 48).take 48 = sha384 p.body) ∧ (l.drop 96).take 48 = sha384 s.record.pkg.body ∧ e = { s with sess := e.sess, out := e.out, macsec := e.macsec })
end

