-- ==== Sys2Proof/Laws/Decode.lean ====
section
/-! SUPPORT. Reading a field back from a word that is an OR of fields, and the codes of the field types. -/

namespace Sys2Proof

open Machine

/-- A field reads back from its own place. -/
@[simp] theorem fld_same {n : Nat} (x : BitVec n) (lo : Nat) (h : lo + n ≤ 32) : (fld x lo).extractLsb' lo n = x := by
  apply BitVec.eq_of_getLsbD_eq
  intro i hi
  have h1 : lo + i < 32 := by omega
  have h2 : i < 32 := by omega
  simp [fld, BitVec.getLsbD_extractLsb', hi, h1, h2, -BitVec.getLsbD_eq_getElem]

/-- A field reads zero from a place beside its own. -/
@[simp] theorem fld_apart {n : Nat} (x : BitVec n) (lo k l : Nat) (h : k + l ≤ lo ∨ lo + n ≤ k) :
    (fld x lo).extractLsb' k l = 0#l := by
  apply BitVec.eq_of_getLsbD_eq
  intro i hi
  simp only [fld, BitVec.getLsbD_extractLsb', hi, decide_true, Bool.true_and, BitVec.getLsbD_shiftLeft,
    BitVec.getLsbD_setWidth, BitVec.getLsbD_zero]
  rcases h with h | h
  · have : k + i < lo := by omega
    simp [this]
  · have : n ≤ k + i - lo := by omega
    simp [BitVec.getLsbD_of_ge _ _ this]

@[simp] theorem fld_bit {n : Nat} (x : BitVec n) (lo k : Nat) (h : k < 32) :
    (fld x lo)[k] = (decide (lo ≤ k) && x.getLsbD (k - lo)) := by
  rw [← BitVec.getLsbD_eq_getElem]
  simp only [fld, BitVec.getLsbD_shiftLeft, BitVec.getLsbD_setWidth, h, decide_true, Bool.true_and]
  by_cases e : lo ≤ k
  · have : k - lo < 32 := by omega
    simp [e, this, Nat.not_lt.mpr e]
  · simp [e, Nat.lt_of_not_le e]

@[simp] theorem ElemT.ofBits_toBits (t : ElemT) : ElemT.ofBits t.toBits = some t := by cases t <;> rfl
@[simp] theorem Cond.ofBits_toBits (t : Cond) : Cond.ofBits t.toBits = some t := by cases t <;> rfl
@[simp] theorem Ord.ofBits_toBits (t : Ord) : Ord.ofBits t.toBits = some t := by cases t <;> rfl
@[simp] theorem Scope.ofBits_toBits (t : Scope) : Scope.ofBits t.toBits = some t := by cases t <;> rfl
@[simp] theorem Size.ofBits_toBits (t : Size) : Size.ofBits t.toBits = some t := by cases t <;> rfl
@[simp] theorem Rm.ofBits_toBits (t : Rm) : Rm.ofBits t.toBits = some t := by cases t <;> rfl
@[simp] theorem Src.ofBits_toBits (t : Src) : Src.ofBits t.toBits = some t := by cases t <;> rfl
@[simp] theorem Dst.ofBits_toBits (t : Dst) : Dst.ofBits t.toBits = some t := by cases t <;> rfl
@[simp] theorem XSel.ofBits_toBits (t : XSel) : XSel.ofBits t.toBits = some t := by cases t <;> rfl
@[simp] theorem MxKind.ofBits_toBits (t : MxKind) : MxKind.ofBits t.toBits = some t := by cases t <;> rfl

@[simp] theorem maskOf_maskBits (m : Mask) : maskOf (maskBits m) = some m := by
  rcases m with _ | ⟨k, kz⟩
  · rfl
  · revert k kz; decide

@[simp] theorem rmOvOf_rmOvBits (m : RmOv) : rmOvOf (rmOvBits m) = some m := by
  rcases m with _ | ⟨rm, sm⟩
  · rfl
  · revert rm sm; intro rm sm; cases rm <;> cases sm <;> rfl

@[simp] theorem semFOf_semFBits (m : SemF) : semFOf (semFBits m) = some m := by
  rcases m with _ | v
  · rfl
  · revert v; decide

theorem MxAnc.ofBits_deflt (af bf : BitVec 6) : MxAnc.ofBits (MxAnc.deflt af bf).toBits = some (.deflt af bf) := by
  have h1 : (MxAnc.deflt af bf).toBits.extractLsb' 9 11 ≠ 0#11 := by
    intro h
    have := congrArg (fun b => b.getLsbD 10) h
    simp only [MxAnc.toBits, BitVec.getLsbD_extractLsb', BitVec.getLsbD_append] at this
    simp at this
  have h2 : (MxAnc.deflt af bf).toBits.extractLsb' 18 2 = 2#2 ∧ (MxAnc.deflt af bf).toBits.extractLsb' 0 6 = 0#6 := by
    constructor
    · apply BitVec.eq_of_getLsbD_eq; intro i hi
      simp only [MxAnc.toBits, BitVec.getLsbD_extractLsb', BitVec.getLsbD_append]
      rcases i with _ | _ | i <;> first | rfl | omega
    · apply BitVec.eq_of_getLsbD_eq; intro i hi
      simp only [MxAnc.toBits, BitVec.getLsbD_extractLsb', BitVec.getLsbD_append]
      simp [hi]
  have h3 : (MxAnc.deflt af bf).toBits.extractLsb' 12 6 = af := by
    apply BitVec.eq_of_getLsbD_eq; intro i hi
    have e1 : ¬12 + i < 6 := by omega
    have e2 : ¬12 + i - 6 < 6 := by omega
    have e4 : 12 + i - 6 - 6 = i := by omega
    simp only [MxAnc.toBits, BitVec.getLsbD_extractLsb', BitVec.getLsbD_append, hi, e1, e2, e4, decide_true, Bool.true_and, if_true, if_false]
  have h4 : (MxAnc.deflt af bf).toBits.extractLsb' 6 6 = bf := by
    apply BitVec.eq_of_getLsbD_eq; intro i hi
    have e1 : ¬6 + i < 6 := by omega
    have e4 : 6 + i - 6 = i := by omega
    simp only [MxAnc.toBits, BitVec.getLsbD_extractLsb', BitVec.getLsbD_append, hi, e1, e4, decide_true, Bool.true_and, if_true, if_false]
  unfold MxAnc.ofBits
  rw [if_neg h1, if_pos h2, h3, h4]

@[simp] theorem MxAnc.ofBits_toBits (a : MxAnc) : MxAnc.ofBits a.toBits = some a := by
  rcases a with n | ⟨af, bf⟩
  · revert n; decide +kernel
  · exact MxAnc.ofBits_deflt af bf

@[simp] theorem getLsbD_beyond {n : Nat} (x : BitVec n) (k : Nat) (h : n ≤ k) : x.getLsbD k = false :=
  BitVec.getLsbD_of_ge x k h

/-- A word is what its bytes give. -/
theorem wordOf_bytes (w : Word) :
    wordOf (w.extractLsb' 0 8) (w.extractLsb' 8 8) (w.extractLsb' 16 8) (w.extractLsb' 24 8) = w := by
  unfold wordOf
  apply BitVec.eq_of_getLsbD_eq
  intro i hi
  simp only [BitVec.getLsbD_append, BitVec.getLsbD_extractLsb']
  by_cases h1 : i < 8
  · simp [h1]
  · by_cases h2 : i - 8 < 8
    · simp only [h1, h2, if_true, if_false]; simp; congr 1; omega
    · by_cases h3 : i - 8 - 8 < 8
      · simp only [h1, h2, h3, if_true, if_false]; simp; congr 1; omega
      · have h4 : i - 8 - 8 - 8 < 8 := by omega
        simp only [h1, h2, h3, h4, if_false]; simp; congr 1; omega

end Sys2Proof
end

