-- ==== Sys2Proof/Laws/Map.lean ====
section
/-! SUPPORT. Reading after writing a sparse table, and the canonical form that every write keeps. -/

namespace Sys2Proof.Machine

variable {α : Type}

theorem mget_mset (d v : α) (m : Map α) (k j : Nat) : mget d (mset m k v) j = if j = k then v else mget d m j := by
  induction m with
  | nil => simp [mset, mget, eq_comm]
  | cons p t ih =>
    obtain ⟨k', v'⟩ := p
    simp only [mset]
    split
    · subst_vars; simp only [mget]; grind
    · split <;> simp only [mget, ih] <;> grind

@[simp] theorem mget_mset_self (d v : α) (m : Map α) (k : Nat) : mget d (mset m k v) k = v := by simp [mget_mset]

theorem mget_mset_ne (d v : α) (m : Map α) {k j : Nat} (h : j ≠ k) : mget d (mset m k v) j = mget d m j := by
  simp [mget_mset, h]

theorem mget_mdel (d : α) (m : Map α) (k j : Nat) : mget d (mdel m k) j = if j = k then d else mget d m j := by
  induction m with
  | nil => simp [mdel, mget]
  | cons p t ih =>
    obtain ⟨k', v'⟩ := p
    simp only [mdel]
    split <;> simp only [mget, ih] <;> grind

theorem mget_mput [DecidableEq α] (d v : α) (m : Map α) (k j : Nat) :
    mget d (mput d m k v) j = if j = k then v else mget d m j := by
  unfold mput
  split
  · simp [mget_mdel, *]
  · simp [mget_mset]

@[simp] theorem mget_mput_self [DecidableEq α] (d v : α) (m : Map α) (k : Nat) : mget d (mput d m k v) k = v := by
  simp [mget_mput]

theorem mwfFrom_le [DecidableEq α] (d : α) {a b : Nat} (h : a ≤ b) (m : Map α) (hm : mwfFrom d b m = true) :
    mwfFrom d a m = true := by
  cases m with
  | nil => rfl
  | cons p t => simp only [mwfFrom, Bool.and_eq_true, decide_eq_true_eq] at hm ⊢; exact ⟨⟨by omega, hm.1.2⟩, hm.2⟩

theorem mwfFrom_mset [DecidableEq α] (d v : α) (hv : v ≠ d) (m : Map α) (a k : Nat) (hk : a ≤ k)
    (hm : mwfFrom d a m = true) : mwfFrom d a (mset m k v) = true := by
  induction m generalizing a with
  | nil => simp [mset, mwfFrom, hk, hv]
  | cons p t ih =>
    obtain ⟨k', v'⟩ := p
    simp only [mwfFrom, Bool.and_eq_true, decide_eq_true_eq] at hm
    simp only [mset]
    split
    · subst_vars; simp [mwfFrom, hk, hv, hm.2]
    · split
      · simp only [mwfFrom, Bool.and_eq_true, decide_eq_true_eq]
        exact ⟨⟨hk, hv⟩, ⟨by omega, hm.1.2⟩, hm.2⟩
      · simp only [mwfFrom, Bool.and_eq_true, decide_eq_true_eq]
        exact ⟨hm.1, ih _ (by omega) hm.2⟩

theorem mwfFrom_mdel [DecidableEq α] (d : α) (m : Map α) (a k : Nat) (hm : mwfFrom d a m = true) :
    mwfFrom d a (mdel m k) = true := by
  induction m generalizing a with
  | nil => rfl
  | cons p t ih =>
    obtain ⟨k', v'⟩ := p
    simp only [mwfFrom, Bool.and_eq_true, decide_eq_true_eq] at hm
    simp only [mdel]
    split
    · exact mwfFrom_le d (by omega) _ (ih _ hm.2)
    · simp only [mwfFrom, Bool.and_eq_true, decide_eq_true_eq]; exact ⟨hm.1, ih _ hm.2⟩

theorem mwf_mput [DecidableEq α] (d v : α) (m : Map α) (k : Nat) (hm : mwf d m = true) : mwf d (mput d m k v) = true := by
  unfold mput
  split
  · exact mwfFrom_mdel d m 0 k hm
  · exact mwfFrom_mset d v ‹_› m 0 k (Nat.zero_le k) hm

theorem mwf_mputN [DecidableEq α] (d : α) (bs : List α) (m : Map α) (k : Nat) (hm : mwf d m = true) :
    mwf d (mputN d m k bs) = true := by
  induction bs generalizing m k with
  | nil => exact hm
  | cons b t ih => exact ih _ _ (mwf_mput d b m k hm)

theorem mgetN_length (d : α) (m : Map α) (k n : Nat) : (mgetN d m k n).length = n := by
  induction n generalizing k with
  | zero => rfl
  | succ n ih => simp [mgetN, ih]

theorem mget_mputN_before [DecidableEq α] (d : α) (bs : List α) (m : Map α) (k j : Nat) (h : j < k) :
    mget d (mputN d m k bs) j = mget d m j := by
  induction bs generalizing m k with
  | nil => rfl
  | cons b t ih => rw [mputN, ih _ _ (by omega), mget_mput]; simp; omega

theorem mget_mputN_after [DecidableEq α] (d : α) (bs : List α) (m : Map α) (k j : Nat) (h : k + bs.length ≤ j) :
    mget d (mputN d m k bs) j = mget d m j := by
  induction bs generalizing m k with
  | nil => rfl
  | cons b t ih =>
    simp only [List.length_cons] at h
    rw [mputN, ih _ _ (by omega), mget_mput]; simp; omega

theorem mgetN_mputN [DecidableEq α] (d : α) (bs : List α) (m : Map α) (k : Nat) :
    mgetN d (mputN d m k bs) k bs.length = bs := by
  induction bs generalizing m k with
  | nil => rfl
  | cons b t ih =>
    simp only [mputN, List.length_cons, mgetN, List.cons.injEq]
    exact ⟨by rw [mget_mputN_before _ _ _ _ _ (by omega), mget_mput_self], ih _ _⟩

end Sys2Proof.Machine
end

