-- ==== Sys2Proof/Laws/State.lean ====
section
/-! SUPPORT. What each update of the state leaves and what it writes: one lemma for each field of each update, so that no proof
unfolds a record. -/

namespace Sys2Proof.Machine

@[simp] theorem State.setCtx_cycle (s : State) (n : Nat) (x : Ctx) : (s.setCtx n x).cycle = s.cycle := rfl
@[simp] theorem State.setCtx_cycBase (s : State) (n : Nat) (x : Ctx) : (s.setCtx n x).cycBase = s.cycBase := rfl
@[simp] theorem State.setCtx_cur (s : State) (n : Nat) (x : Ctx) : (s.setCtx n x).cur = s.cur := rfl
@[simp] theorem State.setCtx_issued (s : State) (n : Nat) (x : Ctx) : (s.setCtx n x).issued = s.issued := rfl
@[simp] theorem State.setCtx_shadow (s : State) (n : Nat) (x : Ctx) : (s.setCtx n x).shadow = s.shadow := rfl
@[simp] theorem State.setCtx_cores (s : State) (n : Nat) (x : Ctx) : (s.setCtx n x).cores = s.cores := rfl
@[simp] theorem State.setCtx_clusters (s : State) (n : Nat) (x : Ctx) : (s.setCtx n x).clusters = s.clusters := rfl
@[simp] theorem State.setCtx_dies (s : State) (n : Nat) (x : Ctx) : (s.setCtx n x).dies = s.dies := rfl
@[simp] theorem State.setCtx_mem (s : State) (n : Nat) (x : Ctx) : (s.setCtx n x).mem = s.mem := rfl
@[simp] theorem State.setCtx_poison (s : State) (n : Nat) (x : Ctx) : (s.setCtx n x).poison = s.poison := rfl
@[simp] theorem State.setCtx_ctxTab (s : State) (n : Nat) (x : Ctx) : (s.setCtx n x).ctxTab = s.ctxTab := rfl
@[simp] theorem State.setCtx_insts (s : State) (n : Nat) (x : Ctx) : (s.setCtx n x).insts = s.insts := rfl
@[simp] theorem State.setCtx_nixCtr (s : State) (n : Nat) (x : Ctx) : (s.setCtx n x).nixCtr = s.nixCtr := rfl
@[simp] theorem State.setCtx_nixWrap (s : State) (n : Nat) (x : Ctx) : (s.setCtx n x).nixWrap = s.nixWrap := rfl
@[simp] theorem State.setCtx_images (s : State) (n : Nat) (x : Ctx) : (s.setCtx n x).images = s.images := rfl
@[simp] theorem State.setCtx_regCtr (s : State) (n : Nat) (x : Ctx) : (s.setCtx n x).regCtr = s.regCtr := rfl
@[simp] theorem State.setCtx_stages (s : State) (n : Nat) (x : Ctx) : (s.setCtx n x).stages = s.stages := rfl
@[simp] theorem State.setCtx_clkErr (s : State) (n : Nat) (x : Ctx) : (s.setCtx n x).clkErr = s.clkErr := rfl
@[simp] theorem State.setCtx_clkIdx (s : State) (n : Nat) (x : Ctx) : (s.setCtx n x).clkIdx = s.clkIdx := rfl
@[simp] theorem State.setCtx_clkRec (s : State) (n : Nat) (x : Ctx) : (s.setCtx n x).clkRec = s.clkRec := rfl
@[simp] theorem State.setCtx_clocks (s : State) (n : Nat) (x : Ctx) : (s.setCtx n x).clocks = s.clocks := rfl
@[simp] theorem State.setCtx_oupd (s : State) (n : Nat) (x : Ctx) : (s.setCtx n x).oupd = s.oupd := rfl
@[simp] theorem State.setCtx_oclose (s : State) (n : Nat) (x : Ctx) : (s.setCtx n x).oclose = s.oclose := rfl
@[simp] theorem State.setCtx_ghosts (s : State) (n : Nat) (x : Ctx) : (s.setCtx n x).ghosts = s.ghosts := rfl
@[simp] theorem State.setCtx_gathIn (s : State) (n : Nat) (x : Ctx) : (s.setCtx n x).gathIn = s.gathIn := rfl
@[simp] theorem State.setCtx_gathRet (s : State) (n : Nat) (x : Ctx) : (s.setCtx n x).gathRet = s.gathRet := rfl
@[simp] theorem State.setCtx_gathCtr (s : State) (n : Nat) (x : Ctx) : (s.setCtx n x).gathCtr = s.gathCtr := rfl
@[simp] theorem State.setCtx_walks (s : State) (n : Nat) (x : Ctx) : (s.setCtx n x).walks = s.walks := rfl
@[simp] theorem State.setCtx_timeOfs (s : State) (n : Nat) (x : Ctx) : (s.setCtx n x).timeOfs = s.timeOfs := rfl
@[simp] theorem State.setCtx_ptp (s : State) (n : Nat) (x : Ctx) : (s.setCtx n x).ptp = s.ptp := rfl
@[simp] theorem State.setCtx_sess (s : State) (n : Nat) (x : Ctx) : (s.setCtx n x).sess = s.sess := rfl
@[simp] theorem State.setCtx_ecpq (s : State) (n : Nat) (x : Ctx) : (s.setCtx n x).ecpq = s.ecpq := rfl
@[simp] theorem State.setCtx_sseq (s : State) (n : Nat) (x : Ctx) : (s.setCtx n x).sseq = s.sseq := rfl
@[simp] theorem State.setCtx_score (s : State) (n : Nat) (x : Ctx) : (s.setCtx n x).score = s.score := rfl
@[simp] theorem State.setCtx_health (s : State) (n : Nat) (x : Ctx) : (s.setCtx n x).health = s.health := rfl
@[simp] theorem State.setCtx_phase (s : State) (n : Nat) (x : Ctx) : (s.setCtx n x).phase = s.phase := rfl
@[simp] theorem State.setCtx_byCmd (s : State) (n : Nat) (x : Ctx) : (s.setCtx n x).byCmd = s.byCmd := rfl
@[simp] theorem State.setCtx_back (s : State) (n : Nat) (x : Ctx) : (s.setCtx n x).back = s.back := rfl
@[simp] theorem State.setCtx_full (s : State) (n : Nat) (x : Ctx) : (s.setCtx n x).full = s.full := rfl
@[simp] theorem State.setCtx_bootFail (s : State) (n : Nat) (x : Ctx) : (s.setCtx n x).bootFail = s.bootFail := rfl
@[simp] theorem State.setCtx_sealed (s : State) (n : Nat) (x : Ctx) : (s.setCtx n x).sealed = s.sealed := rfl
@[simp] theorem State.setCtx_journal (s : State) (n : Nat) (x : Ctx) : (s.setCtx n x).journal = s.journal := rfl
@[simp] theorem State.setCtx_sealCtr (s : State) (n : Nat) (x : Ctx) : (s.setCtx n x).sealCtr = s.sealCtr := rfl
@[simp] theorem State.setCtx_record (s : State) (n : Nat) (x : Ctx) : (s.setCtx n x).record = s.record := rfl
@[simp] theorem State.setCtx_recPrev (s : State) (n : Nat) (x : Ctx) : (s.setCtx n x).recPrev = s.recPrev := rfl
@[simp] theorem State.setCtx_slotA (s : State) (n : Nat) (x : Ctx) : (s.setCtx n x).slotA = s.slotA := rfl
@[simp] theorem State.setCtx_slotB (s : State) (n : Nat) (x : Ctx) : (s.setCtx n x).slotB = s.slotB := rfl
@[simp] theorem State.setCtx_fwFloor (s : State) (n : Nat) (x : Ctx) : (s.setCtx n x).fwFloor = s.fwFloor := rfl
@[simp] theorem State.setCtx_recFloor (s : State) (n : Nat) (x : Ctx) : (s.setCtx n x).recFloor = s.recFloor := rfl
@[simp] theorem State.setCtx_romEd (s : State) (n : Nat) (x : Ctx) : (s.setCtx n x).romEd = s.romEd := rfl
@[simp] theorem State.setCtx_romMl (s : State) (n : Nat) (x : Ctx) : (s.setCtx n x).romMl = s.romMl := rfl
@[simp] theorem State.setCtx_fwPkg (s : State) (n : Nat) (x : Ctx) : (s.setCtx n x).fwPkg = s.fwPkg := rfl
@[simp] theorem State.setCtx_fwVer (s : State) (n : Nat) (x : Ctx) : (s.setCtx n x).fwVer = s.fwVer := rfl
@[simp] theorem State.setCtx_fwText (s : State) (n : Nat) (x : Ctx) : (s.setCtx n x).fwText = s.fwText := rfl
@[simp] theorem State.setCtx_fwData (s : State) (n : Nat) (x : Ctx) : (s.setCtx n x).fwData = s.fwData := rfl
@[simp] theorem State.setCtx_hdls (s : State) (n : Nat) (x : Ctx) : (s.setCtx n x).hdls = s.hdls := rfl
@[simp] theorem State.setCtx_macsec (s : State) (n : Nat) (x : Ctx) : (s.setCtx n x).macsec = s.macsec := rfl
@[simp] theorem State.setCtx_bridge (s : State) (n : Nat) (x : Ctx) : (s.setCtx n x).bridge = s.bridge := rfl
@[simp] theorem State.setCtx_brHit (s : State) (n : Nat) (x : Ctx) : (s.setCtx n x).brHit = s.brHit := rfl
@[simp] theorem State.setCtx_brThr (s : State) (n : Nat) (x : Ctx) : (s.setCtx n x).brThr = s.brThr := rfl
@[simp] theorem State.setCtx_peers (s : State) (n : Nat) (x : Ctx) : (s.setCtx n x).peers = s.peers := rfl
@[simp] theorem State.setCtx_routes (s : State) (n : Nat) (x : Ctx) : (s.setCtx n x).routes = s.routes := rfl
@[simp] theorem State.setCtx_preqs (s : State) (n : Nat) (x : Ctx) : (s.setCtx n x).preqs = s.preqs := rfl
@[simp] theorem State.setCtx_preqCtr (s : State) (n : Nat) (x : Ctx) : (s.setCtx n x).preqCtr = s.preqCtr := rfl
@[simp] theorem State.setCtx_flitDrop (s : State) (n : Nat) (x : Ctx) : (s.setCtx n x).flitDrop = s.flitDrop := rfl
@[simp] theorem State.setCtx_parts (s : State) (n : Nat) (x : Ctx) : (s.setCtx n x).parts = s.parts := rfl
@[simp] theorem State.setCtx_wres (s : State) (n : Nat) (x : Ctx) : (s.setCtx n x).wres = s.wres := rfl
@[simp] theorem State.setCtx_csrq (s : State) (n : Nat) (x : Ctx) : (s.setCtx n x).csrq = s.csrq := rfl
@[simp] theorem State.setCtx_arg (s : State) (n : Nat) (x : Ctx) : (s.setCtx n x).arg = s.arg := rfl
@[simp] theorem State.setCtx_inputs (s : State) (n : Nat) (x : Ctx) : (s.setCtx n x).inputs = s.inputs := rfl
@[simp] theorem State.setCtx_out (s : State) (n : Nat) (x : Ctx) : (s.setCtx n x).out = s.out := rfl
@[simp] theorem State.setCtx_free (s : State) (n : Nat) (x : Ctx) : (s.setCtx n x).free = s.free := rfl

@[simp] theorem State.setCore_cycle (s : State) (n : Nat) (x : Core) : (s.setCore n x).cycle = s.cycle := rfl
@[simp] theorem State.setCore_cycBase (s : State) (n : Nat) (x : Core) : (s.setCore n x).cycBase = s.cycBase := rfl
@[simp] theorem State.setCore_cur (s : State) (n : Nat) (x : Core) : (s.setCore n x).cur = s.cur := rfl
@[simp] theorem State.setCore_issued (s : State) (n : Nat) (x : Core) : (s.setCore n x).issued = s.issued := rfl
@[simp] theorem State.setCore_ctxs (s : State) (n : Nat) (x : Core) : (s.setCore n x).ctxs = s.ctxs := rfl
@[simp] theorem State.setCore_shadow (s : State) (n : Nat) (x : Core) : (s.setCore n x).shadow = s.shadow := rfl
@[simp] theorem State.setCore_clusters (s : State) (n : Nat) (x : Core) : (s.setCore n x).clusters = s.clusters := rfl
@[simp] theorem State.setCore_dies (s : State) (n : Nat) (x : Core) : (s.setCore n x).dies = s.dies := rfl
@[simp] theorem State.setCore_mem (s : State) (n : Nat) (x : Core) : (s.setCore n x).mem = s.mem := rfl
@[simp] theorem State.setCore_poison (s : State) (n : Nat) (x : Core) : (s.setCore n x).poison = s.poison := rfl
@[simp] theorem State.setCore_ctxTab (s : State) (n : Nat) (x : Core) : (s.setCore n x).ctxTab = s.ctxTab := rfl
@[simp] theorem State.setCore_insts (s : State) (n : Nat) (x : Core) : (s.setCore n x).insts = s.insts := rfl
@[simp] theorem State.setCore_nixCtr (s : State) (n : Nat) (x : Core) : (s.setCore n x).nixCtr = s.nixCtr := rfl
@[simp] theorem State.setCore_nixWrap (s : State) (n : Nat) (x : Core) : (s.setCore n x).nixWrap = s.nixWrap := rfl
@[simp] theorem State.setCore_images (s : State) (n : Nat) (x : Core) : (s.setCore n x).images = s.images := rfl
@[simp] theorem State.setCore_regCtr (s : State) (n : Nat) (x : Core) : (s.setCore n x).regCtr = s.regCtr := rfl
@[simp] theorem State.setCore_stages (s : State) (n : Nat) (x : Core) : (s.setCore n x).stages = s.stages := rfl
@[simp] theorem State.setCore_clkErr (s : State) (n : Nat) (x : Core) : (s.setCore n x).clkErr = s.clkErr := rfl
@[simp] theorem State.setCore_clkIdx (s : State) (n : Nat) (x : Core) : (s.setCore n x).clkIdx = s.clkIdx := rfl
@[simp] theorem State.setCore_clkRec (s : State) (n : Nat) (x : Core) : (s.setCore n x).clkRec = s.clkRec := rfl
@[simp] theorem State.setCore_clocks (s : State) (n : Nat) (x : Core) : (s.setCore n x).clocks = s.clocks := rfl
@[simp] theorem State.setCore_oupd (s : State) (n : Nat) (x : Core) : (s.setCore n x).oupd = s.oupd := rfl
@[simp] theorem State.setCore_oclose (s : State) (n : Nat) (x : Core) : (s.setCore n x).oclose = s.oclose := rfl
@[simp] theorem State.setCore_ghosts (s : State) (n : Nat) (x : Core) : (s.setCore n x).ghosts = s.ghosts := rfl
@[simp] theorem State.setCore_gathIn (s : State) (n : Nat) (x : Core) : (s.setCore n x).gathIn = s.gathIn := rfl
@[simp] theorem State.setCore_gathRet (s : State) (n : Nat) (x : Core) : (s.setCore n x).gathRet = s.gathRet := rfl
@[simp] theorem State.setCore_gathCtr (s : State) (n : Nat) (x : Core) : (s.setCore n x).gathCtr = s.gathCtr := rfl
@[simp] theorem State.setCore_walks (s : State) (n : Nat) (x : Core) : (s.setCore n x).walks = s.walks := rfl
@[simp] theorem State.setCore_timeOfs (s : State) (n : Nat) (x : Core) : (s.setCore n x).timeOfs = s.timeOfs := rfl
@[simp] theorem State.setCore_ptp (s : State) (n : Nat) (x : Core) : (s.setCore n x).ptp = s.ptp := rfl
@[simp] theorem State.setCore_sess (s : State) (n : Nat) (x : Core) : (s.setCore n x).sess = s.sess := rfl
@[simp] theorem State.setCore_ecpq (s : State) (n : Nat) (x : Core) : (s.setCore n x).ecpq = s.ecpq := rfl
@[simp] theorem State.setCore_sseq (s : State) (n : Nat) (x : Core) : (s.setCore n x).sseq = s.sseq := rfl
@[simp] theorem State.setCore_score (s : State) (n : Nat) (x : Core) : (s.setCore n x).score = s.score := rfl
@[simp] theorem State.setCore_health (s : State) (n : Nat) (x : Core) : (s.setCore n x).health = s.health := rfl
@[simp] theorem State.setCore_phase (s : State) (n : Nat) (x : Core) : (s.setCore n x).phase = s.phase := rfl
@[simp] theorem State.setCore_byCmd (s : State) (n : Nat) (x : Core) : (s.setCore n x).byCmd = s.byCmd := rfl
@[simp] theorem State.setCore_back (s : State) (n : Nat) (x : Core) : (s.setCore n x).back = s.back := rfl
@[simp] theorem State.setCore_full (s : State) (n : Nat) (x : Core) : (s.setCore n x).full = s.full := rfl
@[simp] theorem State.setCore_bootFail (s : State) (n : Nat) (x : Core) : (s.setCore n x).bootFail = s.bootFail := rfl
@[simp] theorem State.setCore_sealed (s : State) (n : Nat) (x : Core) : (s.setCore n x).sealed = s.sealed := rfl
@[simp] theorem State.setCore_journal (s : State) (n : Nat) (x : Core) : (s.setCore n x).journal = s.journal := rfl
@[simp] theorem State.setCore_sealCtr (s : State) (n : Nat) (x : Core) : (s.setCore n x).sealCtr = s.sealCtr := rfl
@[simp] theorem State.setCore_record (s : State) (n : Nat) (x : Core) : (s.setCore n x).record = s.record := rfl
@[simp] theorem State.setCore_recPrev (s : State) (n : Nat) (x : Core) : (s.setCore n x).recPrev = s.recPrev := rfl
@[simp] theorem State.setCore_slotA (s : State) (n : Nat) (x : Core) : (s.setCore n x).slotA = s.slotA := rfl
@[simp] theorem State.setCore_slotB (s : State) (n : Nat) (x : Core) : (s.setCore n x).slotB = s.slotB := rfl
@[simp] theorem State.setCore_fwFloor (s : State) (n : Nat) (x : Core) : (s.setCore n x).fwFloor = s.fwFloor := rfl
@[simp] theorem State.setCore_recFloor (s : State) (n : Nat) (x : Core) : (s.setCore n x).recFloor = s.recFloor := rfl
@[simp] theorem State.setCore_romEd (s : State) (n : Nat) (x : Core) : (s.setCore n x).romEd = s.romEd := rfl
@[simp] theorem State.setCore_romMl (s : State) (n : Nat) (x : Core) : (s.setCore n x).romMl = s.romMl := rfl
@[simp] theorem State.setCore_fwPkg (s : State) (n : Nat) (x : Core) : (s.setCore n x).fwPkg = s.fwPkg := rfl
@[simp] theorem State.setCore_fwVer (s : State) (n : Nat) (x : Core) : (s.setCore n x).fwVer = s.fwVer := rfl
@[simp] theorem State.setCore_fwText (s : State) (n : Nat) (x : Core) : (s.setCore n x).fwText = s.fwText := rfl
@[simp] theorem State.setCore_fwData (s : State) (n : Nat) (x : Core) : (s.setCore n x).fwData = s.fwData := rfl
@[simp] theorem State.setCore_hdls (s : State) (n : Nat) (x : Core) : (s.setCore n x).hdls = s.hdls := rfl
@[simp] theorem State.setCore_macsec (s : State) (n : Nat) (x : Core) : (s.setCore n x).macsec = s.macsec := rfl
@[simp] theorem State.setCore_bridge (s : State) (n : Nat) (x : Core) : (s.setCore n x).bridge = s.bridge := rfl
@[simp] theorem State.setCore_brHit (s : State) (n : Nat) (x : Core) : (s.setCore n x).brHit = s.brHit := rfl
@[simp] theorem State.setCore_brThr (s : State) (n : Nat) (x : Core) : (s.setCore n x).brThr = s.brThr := rfl
@[simp] theorem State.setCore_peers (s : State) (n : Nat) (x : Core) : (s.setCore n x).peers = s.peers := rfl
@[simp] theorem State.setCore_routes (s : State) (n : Nat) (x : Core) : (s.setCore n x).routes = s.routes := rfl
@[simp] theorem State.setCore_preqs (s : State) (n : Nat) (x : Core) : (s.setCore n x).preqs = s.preqs := rfl
@[simp] theorem State.setCore_preqCtr (s : State) (n : Nat) (x : Core) : (s.setCore n x).preqCtr = s.preqCtr := rfl
@[simp] theorem State.setCore_flitDrop (s : State) (n : Nat) (x : Core) : (s.setCore n x).flitDrop = s.flitDrop := rfl
@[simp] theorem State.setCore_parts (s : State) (n : Nat) (x : Core) : (s.setCore n x).parts = s.parts := rfl
@[simp] theorem State.setCore_wres (s : State) (n : Nat) (x : Core) : (s.setCore n x).wres = s.wres := rfl
@[simp] theorem State.setCore_csrq (s : State) (n : Nat) (x : Core) : (s.setCore n x).csrq = s.csrq := rfl
@[simp] theorem State.setCore_arg (s : State) (n : Nat) (x : Core) : (s.setCore n x).arg = s.arg := rfl
@[simp] theorem State.setCore_inputs (s : State) (n : Nat) (x : Core) : (s.setCore n x).inputs = s.inputs := rfl
@[simp] theorem State.setCore_out (s : State) (n : Nat) (x : Core) : (s.setCore n x).out = s.out := rfl
@[simp] theorem State.setCore_free (s : State) (n : Nat) (x : Core) : (s.setCore n x).free = s.free := rfl

@[simp] theorem State.setClus_cycle (s : State) (n : Nat) (x : Cluster) : (s.setClus n x).cycle = s.cycle := rfl
@[simp] theorem State.setClus_cycBase (s : State) (n : Nat) (x : Cluster) : (s.setClus n x).cycBase = s.cycBase := rfl
@[simp] theorem State.setClus_cur (s : State) (n : Nat) (x : Cluster) : (s.setClus n x).cur = s.cur := rfl
@[simp] theorem State.setClus_issued (s : State) (n : Nat) (x : Cluster) : (s.setClus n x).issued = s.issued := rfl
@[simp] theorem State.setClus_ctxs (s : State) (n : Nat) (x : Cluster) : (s.setClus n x).ctxs = s.ctxs := rfl
@[simp] theorem State.setClus_shadow (s : State) (n : Nat) (x : Cluster) : (s.setClus n x).shadow = s.shadow := rfl
@[simp] theorem State.setClus_cores (s : State) (n : Nat) (x : Cluster) : (s.setClus n x).cores = s.cores := rfl
@[simp] theorem State.setClus_dies (s : State) (n : Nat) (x : Cluster) : (s.setClus n x).dies = s.dies := rfl
@[simp] theorem State.setClus_mem (s : State) (n : Nat) (x : Cluster) : (s.setClus n x).mem = s.mem := rfl
@[simp] theorem State.setClus_poison (s : State) (n : Nat) (x : Cluster) : (s.setClus n x).poison = s.poison := rfl
@[simp] theorem State.setClus_ctxTab (s : State) (n : Nat) (x : Cluster) : (s.setClus n x).ctxTab = s.ctxTab := rfl
@[simp] theorem State.setClus_insts (s : State) (n : Nat) (x : Cluster) : (s.setClus n x).insts = s.insts := rfl
@[simp] theorem State.setClus_nixCtr (s : State) (n : Nat) (x : Cluster) : (s.setClus n x).nixCtr = s.nixCtr := rfl
@[simp] theorem State.setClus_nixWrap (s : State) (n : Nat) (x : Cluster) : (s.setClus n x).nixWrap = s.nixWrap := rfl
@[simp] theorem State.setClus_images (s : State) (n : Nat) (x : Cluster) : (s.setClus n x).images = s.images := rfl
@[simp] theorem State.setClus_regCtr (s : State) (n : Nat) (x : Cluster) : (s.setClus n x).regCtr = s.regCtr := rfl
@[simp] theorem State.setClus_stages (s : State) (n : Nat) (x : Cluster) : (s.setClus n x).stages = s.stages := rfl
@[simp] theorem State.setClus_clkErr (s : State) (n : Nat) (x : Cluster) : (s.setClus n x).clkErr = s.clkErr := rfl
@[simp] theorem State.setClus_clkIdx (s : State) (n : Nat) (x : Cluster) : (s.setClus n x).clkIdx = s.clkIdx := rfl
@[simp] theorem State.setClus_clkRec (s : State) (n : Nat) (x : Cluster) : (s.setClus n x).clkRec = s.clkRec := rfl
@[simp] theorem State.setClus_clocks (s : State) (n : Nat) (x : Cluster) : (s.setClus n x).clocks = s.clocks := rfl
@[simp] theorem State.setClus_oupd (s : State) (n : Nat) (x : Cluster) : (s.setClus n x).oupd = s.oupd := rfl
@[simp] theorem State.setClus_oclose (s : State) (n : Nat) (x : Cluster) : (s.setClus n x).oclose = s.oclose := rfl
@[simp] theorem State.setClus_ghosts (s : State) (n : Nat) (x : Cluster) : (s.setClus n x).ghosts = s.ghosts := rfl
@[simp] theorem State.setClus_gathIn (s : State) (n : Nat) (x : Cluster) : (s.setClus n x).gathIn = s.gathIn := rfl
@[simp] theorem State.setClus_gathRet (s : State) (n : Nat) (x : Cluster) : (s.setClus n x).gathRet = s.gathRet := rfl
@[simp] theorem State.setClus_gathCtr (s : State) (n : Nat) (x : Cluster) : (s.setClus n x).gathCtr = s.gathCtr := rfl
@[simp] theorem State.setClus_walks (s : State) (n : Nat) (x : Cluster) : (s.setClus n x).walks = s.walks := rfl
@[simp] theorem State.setClus_timeOfs (s : State) (n : Nat) (x : Cluster) : (s.setClus n x).timeOfs = s.timeOfs := rfl
@[simp] theorem State.setClus_ptp (s : State) (n : Nat) (x : Cluster) : (s.setClus n x).ptp = s.ptp := rfl
@[simp] theorem State.setClus_sess (s : State) (n : Nat) (x : Cluster) : (s.setClus n x).sess = s.sess := rfl
@[simp] theorem State.setClus_ecpq (s : State) (n : Nat) (x : Cluster) : (s.setClus n x).ecpq = s.ecpq := rfl
@[simp] theorem State.setClus_sseq (s : State) (n : Nat) (x : Cluster) : (s.setClus n x).sseq = s.sseq := rfl
@[simp] theorem State.setClus_score (s : State) (n : Nat) (x : Cluster) : (s.setClus n x).score = s.score := rfl
@[simp] theorem State.setClus_health (s : State) (n : Nat) (x : Cluster) : (s.setClus n x).health = s.health := rfl
@[simp] theorem State.setClus_phase (s : State) (n : Nat) (x : Cluster) : (s.setClus n x).phase = s.phase := rfl
@[simp] theorem State.setClus_byCmd (s : State) (n : Nat) (x : Cluster) : (s.setClus n x).byCmd = s.byCmd := rfl
@[simp] theorem State.setClus_back (s : State) (n : Nat) (x : Cluster) : (s.setClus n x).back = s.back := rfl
@[simp] theorem State.setClus_full (s : State) (n : Nat) (x : Cluster) : (s.setClus n x).full = s.full := rfl
@[simp] theorem State.setClus_bootFail (s : State) (n : Nat) (x : Cluster) : (s.setClus n x).bootFail = s.bootFail := rfl
@[simp] theorem State.setClus_sealed (s : State) (n : Nat) (x : Cluster) : (s.setClus n x).sealed = s.sealed := rfl
@[simp] theorem State.setClus_journal (s : State) (n : Nat) (x : Cluster) : (s.setClus n x).journal = s.journal := rfl
@[simp] theorem State.setClus_sealCtr (s : State) (n : Nat) (x : Cluster) : (s.setClus n x).sealCtr = s.sealCtr := rfl
@[simp] theorem State.setClus_record (s : State) (n : Nat) (x : Cluster) : (s.setClus n x).record = s.record := rfl
@[simp] theorem State.setClus_recPrev (s : State) (n : Nat) (x : Cluster) : (s.setClus n x).recPrev = s.recPrev := rfl
@[simp] theorem State.setClus_slotA (s : State) (n : Nat) (x : Cluster) : (s.setClus n x).slotA = s.slotA := rfl
@[simp] theorem State.setClus_slotB (s : State) (n : Nat) (x : Cluster) : (s.setClus n x).slotB = s.slotB := rfl
@[simp] theorem State.setClus_fwFloor (s : State) (n : Nat) (x : Cluster) : (s.setClus n x).fwFloor = s.fwFloor := rfl
@[simp] theorem State.setClus_recFloor (s : State) (n : Nat) (x : Cluster) : (s.setClus n x).recFloor = s.recFloor := rfl
@[simp] theorem State.setClus_romEd (s : State) (n : Nat) (x : Cluster) : (s.setClus n x).romEd = s.romEd := rfl
@[simp] theorem State.setClus_romMl (s : State) (n : Nat) (x : Cluster) : (s.setClus n x).romMl = s.romMl := rfl
@[simp] theorem State.setClus_fwPkg (s : State) (n : Nat) (x : Cluster) : (s.setClus n x).fwPkg = s.fwPkg := rfl
@[simp] theorem State.setClus_fwVer (s : State) (n : Nat) (x : Cluster) : (s.setClus n x).fwVer = s.fwVer := rfl
@[simp] theorem State.setClus_fwText (s : State) (n : Nat) (x : Cluster) : (s.setClus n x).fwText = s.fwText := rfl
@[simp] theorem State.setClus_fwData (s : State) (n : Nat) (x : Cluster) : (s.setClus n x).fwData = s.fwData := rfl
@[simp] theorem State.setClus_hdls (s : State) (n : Nat) (x : Cluster) : (s.setClus n x).hdls = s.hdls := rfl
@[simp] theorem State.setClus_macsec (s : State) (n : Nat) (x : Cluster) : (s.setClus n x).macsec = s.macsec := rfl
@[simp] theorem State.setClus_bridge (s : State) (n : Nat) (x : Cluster) : (s.setClus n x).bridge = s.bridge := rfl
@[simp] theorem State.setClus_brHit (s : State) (n : Nat) (x : Cluster) : (s.setClus n x).brHit = s.brHit := rfl
@[simp] theorem State.setClus_brThr (s : State) (n : Nat) (x : Cluster) : (s.setClus n x).brThr = s.brThr := rfl
@[simp] theorem State.setClus_peers (s : State) (n : Nat) (x : Cluster) : (s.setClus n x).peers = s.peers := rfl
@[simp] theorem State.setClus_routes (s : State) (n : Nat) (x : Cluster) : (s.setClus n x).routes = s.routes := rfl
@[simp] theorem State.setClus_preqs (s : State) (n : Nat) (x : Cluster) : (s.setClus n x).preqs = s.preqs := rfl
@[simp] theorem State.setClus_preqCtr (s : State) (n : Nat) (x : Cluster) : (s.setClus n x).preqCtr = s.preqCtr := rfl
@[simp] theorem State.setClus_flitDrop (s : State) (n : Nat) (x : Cluster) : (s.setClus n x).flitDrop = s.flitDrop := rfl
@[simp] theorem State.setClus_parts (s : State) (n : Nat) (x : Cluster) : (s.setClus n x).parts = s.parts := rfl
@[simp] theorem State.setClus_wres (s : State) (n : Nat) (x : Cluster) : (s.setClus n x).wres = s.wres := rfl
@[simp] theorem State.setClus_csrq (s : State) (n : Nat) (x : Cluster) : (s.setClus n x).csrq = s.csrq := rfl
@[simp] theorem State.setClus_arg (s : State) (n : Nat) (x : Cluster) : (s.setClus n x).arg = s.arg := rfl
@[simp] theorem State.setClus_inputs (s : State) (n : Nat) (x : Cluster) : (s.setClus n x).inputs = s.inputs := rfl
@[simp] theorem State.setClus_out (s : State) (n : Nat) (x : Cluster) : (s.setClus n x).out = s.out := rfl
@[simp] theorem State.setClus_free (s : State) (n : Nat) (x : Cluster) : (s.setClus n x).free = s.free := rfl

@[simp] theorem State.setDie_cycle (s : State) (n : Nat) (x : Die) : (s.setDie n x).cycle = s.cycle := rfl
@[simp] theorem State.setDie_cycBase (s : State) (n : Nat) (x : Die) : (s.setDie n x).cycBase = s.cycBase := rfl
@[simp] theorem State.setDie_cur (s : State) (n : Nat) (x : Die) : (s.setDie n x).cur = s.cur := rfl
@[simp] theorem State.setDie_issued (s : State) (n : Nat) (x : Die) : (s.setDie n x).issued = s.issued := rfl
@[simp] theorem State.setDie_ctxs (s : State) (n : Nat) (x : Die) : (s.setDie n x).ctxs = s.ctxs := rfl
@[simp] theorem State.setDie_shadow (s : State) (n : Nat) (x : Die) : (s.setDie n x).shadow = s.shadow := rfl
@[simp] theorem State.setDie_cores (s : State) (n : Nat) (x : Die) : (s.setDie n x).cores = s.cores := rfl
@[simp] theorem State.setDie_clusters (s : State) (n : Nat) (x : Die) : (s.setDie n x).clusters = s.clusters := rfl
@[simp] theorem State.setDie_mem (s : State) (n : Nat) (x : Die) : (s.setDie n x).mem = s.mem := rfl
@[simp] theorem State.setDie_poison (s : State) (n : Nat) (x : Die) : (s.setDie n x).poison = s.poison := rfl
@[simp] theorem State.setDie_ctxTab (s : State) (n : Nat) (x : Die) : (s.setDie n x).ctxTab = s.ctxTab := rfl
@[simp] theorem State.setDie_insts (s : State) (n : Nat) (x : Die) : (s.setDie n x).insts = s.insts := rfl
@[simp] theorem State.setDie_nixCtr (s : State) (n : Nat) (x : Die) : (s.setDie n x).nixCtr = s.nixCtr := rfl
@[simp] theorem State.setDie_nixWrap (s : State) (n : Nat) (x : Die) : (s.setDie n x).nixWrap = s.nixWrap := rfl
@[simp] theorem State.setDie_images (s : State) (n : Nat) (x : Die) : (s.setDie n x).images = s.images := rfl
@[simp] theorem State.setDie_regCtr (s : State) (n : Nat) (x : Die) : (s.setDie n x).regCtr = s.regCtr := rfl
@[simp] theorem State.setDie_stages (s : State) (n : Nat) (x : Die) : (s.setDie n x).stages = s.stages := rfl
@[simp] theorem State.setDie_clkErr (s : State) (n : Nat) (x : Die) : (s.setDie n x).clkErr = s.clkErr := rfl
@[simp] theorem State.setDie_clkIdx (s : State) (n : Nat) (x : Die) : (s.setDie n x).clkIdx = s.clkIdx := rfl
@[simp] theorem State.setDie_clkRec (s : State) (n : Nat) (x : Die) : (s.setDie n x).clkRec = s.clkRec := rfl
@[simp] theorem State.setDie_clocks (s : State) (n : Nat) (x : Die) : (s.setDie n x).clocks = s.clocks := rfl
@[simp] theorem State.setDie_oupd (s : State) (n : Nat) (x : Die) : (s.setDie n x).oupd = s.oupd := rfl
@[simp] theorem State.setDie_oclose (s : State) (n : Nat) (x : Die) : (s.setDie n x).oclose = s.oclose := rfl
@[simp] theorem State.setDie_ghosts (s : State) (n : Nat) (x : Die) : (s.setDie n x).ghosts = s.ghosts := rfl
@[simp] theorem State.setDie_gathIn (s : State) (n : Nat) (x : Die) : (s.setDie n x).gathIn = s.gathIn := rfl
@[simp] theorem State.setDie_gathRet (s : State) (n : Nat) (x : Die) : (s.setDie n x).gathRet = s.gathRet := rfl
@[simp] theorem State.setDie_gathCtr (s : State) (n : Nat) (x : Die) : (s.setDie n x).gathCtr = s.gathCtr := rfl
@[simp] theorem State.setDie_walks (s : State) (n : Nat) (x : Die) : (s.setDie n x).walks = s.walks := rfl
@[simp] theorem State.setDie_timeOfs (s : State) (n : Nat) (x : Die) : (s.setDie n x).timeOfs = s.timeOfs := rfl
@[simp] theorem State.setDie_ptp (s : State) (n : Nat) (x : Die) : (s.setDie n x).ptp = s.ptp := rfl
@[simp] theorem State.setDie_sess (s : State) (n : Nat) (x : Die) : (s.setDie n x).sess = s.sess := rfl
@[simp] theorem State.setDie_ecpq (s : State) (n : Nat) (x : Die) : (s.setDie n x).ecpq = s.ecpq := rfl
@[simp] theorem State.setDie_sseq (s : State) (n : Nat) (x : Die) : (s.setDie n x).sseq = s.sseq := rfl
@[simp] theorem State.setDie_score (s : State) (n : Nat) (x : Die) : (s.setDie n x).score = s.score := rfl
@[simp] theorem State.setDie_health (s : State) (n : Nat) (x : Die) : (s.setDie n x).health = s.health := rfl
@[simp] theorem State.setDie_phase (s : State) (n : Nat) (x : Die) : (s.setDie n x).phase = s.phase := rfl
@[simp] theorem State.setDie_byCmd (s : State) (n : Nat) (x : Die) : (s.setDie n x).byCmd = s.byCmd := rfl
@[simp] theorem State.setDie_back (s : State) (n : Nat) (x : Die) : (s.setDie n x).back = s.back := rfl
@[simp] theorem State.setDie_full (s : State) (n : Nat) (x : Die) : (s.setDie n x).full = s.full := rfl
@[simp] theorem State.setDie_bootFail (s : State) (n : Nat) (x : Die) : (s.setDie n x).bootFail = s.bootFail := rfl
@[simp] theorem State.setDie_sealed (s : State) (n : Nat) (x : Die) : (s.setDie n x).sealed = s.sealed := rfl
@[simp] theorem State.setDie_journal (s : State) (n : Nat) (x : Die) : (s.setDie n x).journal = s.journal := rfl
@[simp] theorem State.setDie_sealCtr (s : State) (n : Nat) (x : Die) : (s.setDie n x).sealCtr = s.sealCtr := rfl
@[simp] theorem State.setDie_record (s : State) (n : Nat) (x : Die) : (s.setDie n x).record = s.record := rfl
@[simp] theorem State.setDie_recPrev (s : State) (n : Nat) (x : Die) : (s.setDie n x).recPrev = s.recPrev := rfl
@[simp] theorem State.setDie_slotA (s : State) (n : Nat) (x : Die) : (s.setDie n x).slotA = s.slotA := rfl
@[simp] theorem State.setDie_slotB (s : State) (n : Nat) (x : Die) : (s.setDie n x).slotB = s.slotB := rfl
@[simp] theorem State.setDie_fwFloor (s : State) (n : Nat) (x : Die) : (s.setDie n x).fwFloor = s.fwFloor := rfl
@[simp] theorem State.setDie_recFloor (s : State) (n : Nat) (x : Die) : (s.setDie n x).recFloor = s.recFloor := rfl
@[simp] theorem State.setDie_romEd (s : State) (n : Nat) (x : Die) : (s.setDie n x).romEd = s.romEd := rfl
@[simp] theorem State.setDie_romMl (s : State) (n : Nat) (x : Die) : (s.setDie n x).romMl = s.romMl := rfl
@[simp] theorem State.setDie_fwPkg (s : State) (n : Nat) (x : Die) : (s.setDie n x).fwPkg = s.fwPkg := rfl
@[simp] theorem State.setDie_fwVer (s : State) (n : Nat) (x : Die) : (s.setDie n x).fwVer = s.fwVer := rfl
@[simp] theorem State.setDie_fwText (s : State) (n : Nat) (x : Die) : (s.setDie n x).fwText = s.fwText := rfl
@[simp] theorem State.setDie_fwData (s : State) (n : Nat) (x : Die) : (s.setDie n x).fwData = s.fwData := rfl
@[simp] theorem State.setDie_hdls (s : State) (n : Nat) (x : Die) : (s.setDie n x).hdls = s.hdls := rfl
@[simp] theorem State.setDie_macsec (s : State) (n : Nat) (x : Die) : (s.setDie n x).macsec = s.macsec := rfl
@[simp] theorem State.setDie_bridge (s : State) (n : Nat) (x : Die) : (s.setDie n x).bridge = s.bridge := rfl
@[simp] theorem State.setDie_brHit (s : State) (n : Nat) (x : Die) : (s.setDie n x).brHit = s.brHit := rfl
@[simp] theorem State.setDie_brThr (s : State) (n : Nat) (x : Die) : (s.setDie n x).brThr = s.brThr := rfl
@[simp] theorem State.setDie_peers (s : State) (n : Nat) (x : Die) : (s.setDie n x).peers = s.peers := rfl
@[simp] theorem State.setDie_routes (s : State) (n : Nat) (x : Die) : (s.setDie n x).routes = s.routes := rfl
@[simp] theorem State.setDie_preqs (s : State) (n : Nat) (x : Die) : (s.setDie n x).preqs = s.preqs := rfl
@[simp] theorem State.setDie_preqCtr (s : State) (n : Nat) (x : Die) : (s.setDie n x).preqCtr = s.preqCtr := rfl
@[simp] theorem State.setDie_flitDrop (s : State) (n : Nat) (x : Die) : (s.setDie n x).flitDrop = s.flitDrop := rfl
@[simp] theorem State.setDie_parts (s : State) (n : Nat) (x : Die) : (s.setDie n x).parts = s.parts := rfl
@[simp] theorem State.setDie_wres (s : State) (n : Nat) (x : Die) : (s.setDie n x).wres = s.wres := rfl
@[simp] theorem State.setDie_csrq (s : State) (n : Nat) (x : Die) : (s.setDie n x).csrq = s.csrq := rfl
@[simp] theorem State.setDie_arg (s : State) (n : Nat) (x : Die) : (s.setDie n x).arg = s.arg := rfl
@[simp] theorem State.setDie_inputs (s : State) (n : Nat) (x : Die) : (s.setDie n x).inputs = s.inputs := rfl
@[simp] theorem State.setDie_out (s : State) (n : Nat) (x : Die) : (s.setDie n x).out = s.out := rfl
@[simp] theorem State.setDie_free (s : State) (n : Nat) (x : Die) : (s.setDie n x).free = s.free := rfl

@[simp] theorem State.setCtxEnt_cycle (s : State) (n : Nat) (x : CtxEnt) : (s.setCtxEnt n x).cycle = s.cycle := rfl
@[simp] theorem State.setCtxEnt_cycBase (s : State) (n : Nat) (x : CtxEnt) : (s.setCtxEnt n x).cycBase = s.cycBase := rfl
@[simp] theorem State.setCtxEnt_cur (s : State) (n : Nat) (x : CtxEnt) : (s.setCtxEnt n x).cur = s.cur := rfl
@[simp] theorem State.setCtxEnt_issued (s : State) (n : Nat) (x : CtxEnt) : (s.setCtxEnt n x).issued = s.issued := rfl
@[simp] theorem State.setCtxEnt_ctxs (s : State) (n : Nat) (x : CtxEnt) : (s.setCtxEnt n x).ctxs = s.ctxs := rfl
@[simp] theorem State.setCtxEnt_shadow (s : State) (n : Nat) (x : CtxEnt) : (s.setCtxEnt n x).shadow = s.shadow := rfl
@[simp] theorem State.setCtxEnt_cores (s : State) (n : Nat) (x : CtxEnt) : (s.setCtxEnt n x).cores = s.cores := rfl
@[simp] theorem State.setCtxEnt_clusters (s : State) (n : Nat) (x : CtxEnt) : (s.setCtxEnt n x).clusters = s.clusters := rfl
@[simp] theorem State.setCtxEnt_dies (s : State) (n : Nat) (x : CtxEnt) : (s.setCtxEnt n x).dies = s.dies := rfl
@[simp] theorem State.setCtxEnt_mem (s : State) (n : Nat) (x : CtxEnt) : (s.setCtxEnt n x).mem = s.mem := rfl
@[simp] theorem State.setCtxEnt_poison (s : State) (n : Nat) (x : CtxEnt) : (s.setCtxEnt n x).poison = s.poison := rfl
@[simp] theorem State.setCtxEnt_insts (s : State) (n : Nat) (x : CtxEnt) : (s.setCtxEnt n x).insts = s.insts := rfl
@[simp] theorem State.setCtxEnt_nixCtr (s : State) (n : Nat) (x : CtxEnt) : (s.setCtxEnt n x).nixCtr = s.nixCtr := rfl
@[simp] theorem State.setCtxEnt_nixWrap (s : State) (n : Nat) (x : CtxEnt) : (s.setCtxEnt n x).nixWrap = s.nixWrap := rfl
@[simp] theorem State.setCtxEnt_images (s : State) (n : Nat) (x : CtxEnt) : (s.setCtxEnt n x).images = s.images := rfl
@[simp] theorem State.setCtxEnt_regCtr (s : State) (n : Nat) (x : CtxEnt) : (s.setCtxEnt n x).regCtr = s.regCtr := rfl
@[simp] theorem State.setCtxEnt_stages (s : State) (n : Nat) (x : CtxEnt) : (s.setCtxEnt n x).stages = s.stages := rfl
@[simp] theorem State.setCtxEnt_clkErr (s : State) (n : Nat) (x : CtxEnt) : (s.setCtxEnt n x).clkErr = s.clkErr := rfl
@[simp] theorem State.setCtxEnt_clkIdx (s : State) (n : Nat) (x : CtxEnt) : (s.setCtxEnt n x).clkIdx = s.clkIdx := rfl
@[simp] theorem State.setCtxEnt_clkRec (s : State) (n : Nat) (x : CtxEnt) : (s.setCtxEnt n x).clkRec = s.clkRec := rfl
@[simp] theorem State.setCtxEnt_clocks (s : State) (n : Nat) (x : CtxEnt) : (s.setCtxEnt n x).clocks = s.clocks := rfl
@[simp] theorem State.setCtxEnt_oupd (s : State) (n : Nat) (x : CtxEnt) : (s.setCtxEnt n x).oupd = s.oupd := rfl
@[simp] theorem State.setCtxEnt_oclose (s : State) (n : Nat) (x : CtxEnt) : (s.setCtxEnt n x).oclose = s.oclose := rfl
@[simp] theorem State.setCtxEnt_ghosts (s : State) (n : Nat) (x : CtxEnt) : (s.setCtxEnt n x).ghosts = s.ghosts := rfl
@[simp] theorem State.setCtxEnt_gathIn (s : State) (n : Nat) (x : CtxEnt) : (s.setCtxEnt n x).gathIn = s.gathIn := rfl
@[simp] theorem State.setCtxEnt_gathRet (s : State) (n : Nat) (x : CtxEnt) : (s.setCtxEnt n x).gathRet = s.gathRet := rfl
@[simp] theorem State.setCtxEnt_gathCtr (s : State) (n : Nat) (x : CtxEnt) : (s.setCtxEnt n x).gathCtr = s.gathCtr := rfl
@[simp] theorem State.setCtxEnt_walks (s : State) (n : Nat) (x : CtxEnt) : (s.setCtxEnt n x).walks = s.walks := rfl
@[simp] theorem State.setCtxEnt_timeOfs (s : State) (n : Nat) (x : CtxEnt) : (s.setCtxEnt n x).timeOfs = s.timeOfs := rfl
@[simp] theorem State.setCtxEnt_ptp (s : State) (n : Nat) (x : CtxEnt) : (s.setCtxEnt n x).ptp = s.ptp := rfl
@[simp] theorem State.setCtxEnt_sess (s : State) (n : Nat) (x : CtxEnt) : (s.setCtxEnt n x).sess = s.sess := rfl
@[simp] theorem State.setCtxEnt_ecpq (s : State) (n : Nat) (x : CtxEnt) : (s.setCtxEnt n x).ecpq = s.ecpq := rfl
@[simp] theorem State.setCtxEnt_sseq (s : State) (n : Nat) (x : CtxEnt) : (s.setCtxEnt n x).sseq = s.sseq := rfl
@[simp] theorem State.setCtxEnt_score (s : State) (n : Nat) (x : CtxEnt) : (s.setCtxEnt n x).score = s.score := rfl
@[simp] theorem State.setCtxEnt_health (s : State) (n : Nat) (x : CtxEnt) : (s.setCtxEnt n x).health = s.health := rfl
@[simp] theorem State.setCtxEnt_phase (s : State) (n : Nat) (x : CtxEnt) : (s.setCtxEnt n x).phase = s.phase := rfl
@[simp] theorem State.setCtxEnt_byCmd (s : State) (n : Nat) (x : CtxEnt) : (s.setCtxEnt n x).byCmd = s.byCmd := rfl
@[simp] theorem State.setCtxEnt_back (s : State) (n : Nat) (x : CtxEnt) : (s.setCtxEnt n x).back = s.back := rfl
@[simp] theorem State.setCtxEnt_full (s : State) (n : Nat) (x : CtxEnt) : (s.setCtxEnt n x).full = s.full := rfl
@[simp] theorem State.setCtxEnt_bootFail (s : State) (n : Nat) (x : CtxEnt) : (s.setCtxEnt n x).bootFail = s.bootFail := rfl
@[simp] theorem State.setCtxEnt_sealed (s : State) (n : Nat) (x : CtxEnt) : (s.setCtxEnt n x).sealed = s.sealed := rfl
@[simp] theorem State.setCtxEnt_journal (s : State) (n : Nat) (x : CtxEnt) : (s.setCtxEnt n x).journal = s.journal := rfl
@[simp] theorem State.setCtxEnt_sealCtr (s : State) (n : Nat) (x : CtxEnt) : (s.setCtxEnt n x).sealCtr = s.sealCtr := rfl
@[simp] theorem State.setCtxEnt_record (s : State) (n : Nat) (x : CtxEnt) : (s.setCtxEnt n x).record = s.record := rfl
@[simp] theorem State.setCtxEnt_recPrev (s : State) (n : Nat) (x : CtxEnt) : (s.setCtxEnt n x).recPrev = s.recPrev := rfl
@[simp] theorem State.setCtxEnt_slotA (s : State) (n : Nat) (x : CtxEnt) : (s.setCtxEnt n x).slotA = s.slotA := rfl
@[simp] theorem State.setCtxEnt_slotB (s : State) (n : Nat) (x : CtxEnt) : (s.setCtxEnt n x).slotB = s.slotB := rfl
@[simp] theorem State.setCtxEnt_fwFloor (s : State) (n : Nat) (x : CtxEnt) : (s.setCtxEnt n x).fwFloor = s.fwFloor := rfl
@[simp] theorem State.setCtxEnt_recFloor (s : State) (n : Nat) (x : CtxEnt) : (s.setCtxEnt n x).recFloor = s.recFloor := rfl
@[simp] theorem State.setCtxEnt_romEd (s : State) (n : Nat) (x : CtxEnt) : (s.setCtxEnt n x).romEd = s.romEd := rfl
@[simp] theorem State.setCtxEnt_romMl (s : State) (n : Nat) (x : CtxEnt) : (s.setCtxEnt n x).romMl = s.romMl := rfl
@[simp] theorem State.setCtxEnt_fwPkg (s : State) (n : Nat) (x : CtxEnt) : (s.setCtxEnt n x).fwPkg = s.fwPkg := rfl
@[simp] theorem State.setCtxEnt_fwVer (s : State) (n : Nat) (x : CtxEnt) : (s.setCtxEnt n x).fwVer = s.fwVer := rfl
@[simp] theorem State.setCtxEnt_fwText (s : State) (n : Nat) (x : CtxEnt) : (s.setCtxEnt n x).fwText = s.fwText := rfl
@[simp] theorem State.setCtxEnt_fwData (s : State) (n : Nat) (x : CtxEnt) : (s.setCtxEnt n x).fwData = s.fwData := rfl
@[simp] theorem State.setCtxEnt_hdls (s : State) (n : Nat) (x : CtxEnt) : (s.setCtxEnt n x).hdls = s.hdls := rfl
@[simp] theorem State.setCtxEnt_macsec (s : State) (n : Nat) (x : CtxEnt) : (s.setCtxEnt n x).macsec = s.macsec := rfl
@[simp] theorem State.setCtxEnt_bridge (s : State) (n : Nat) (x : CtxEnt) : (s.setCtxEnt n x).bridge = s.bridge := rfl
@[simp] theorem State.setCtxEnt_brHit (s : State) (n : Nat) (x : CtxEnt) : (s.setCtxEnt n x).brHit = s.brHit := rfl
@[simp] theorem State.setCtxEnt_brThr (s : State) (n : Nat) (x : CtxEnt) : (s.setCtxEnt n x).brThr = s.brThr := rfl
@[simp] theorem State.setCtxEnt_peers (s : State) (n : Nat) (x : CtxEnt) : (s.setCtxEnt n x).peers = s.peers := rfl
@[simp] theorem State.setCtxEnt_routes (s : State) (n : Nat) (x : CtxEnt) : (s.setCtxEnt n x).routes = s.routes := rfl
@[simp] theorem State.setCtxEnt_preqs (s : State) (n : Nat) (x : CtxEnt) : (s.setCtxEnt n x).preqs = s.preqs := rfl
@[simp] theorem State.setCtxEnt_preqCtr (s : State) (n : Nat) (x : CtxEnt) : (s.setCtxEnt n x).preqCtr = s.preqCtr := rfl
@[simp] theorem State.setCtxEnt_flitDrop (s : State) (n : Nat) (x : CtxEnt) : (s.setCtxEnt n x).flitDrop = s.flitDrop := rfl
@[simp] theorem State.setCtxEnt_parts (s : State) (n : Nat) (x : CtxEnt) : (s.setCtxEnt n x).parts = s.parts := rfl
@[simp] theorem State.setCtxEnt_wres (s : State) (n : Nat) (x : CtxEnt) : (s.setCtxEnt n x).wres = s.wres := rfl
@[simp] theorem State.setCtxEnt_csrq (s : State) (n : Nat) (x : CtxEnt) : (s.setCtxEnt n x).csrq = s.csrq := rfl
@[simp] theorem State.setCtxEnt_arg (s : State) (n : Nat) (x : CtxEnt) : (s.setCtxEnt n x).arg = s.arg := rfl
@[simp] theorem State.setCtxEnt_inputs (s : State) (n : Nat) (x : CtxEnt) : (s.setCtxEnt n x).inputs = s.inputs := rfl
@[simp] theorem State.setCtxEnt_out (s : State) (n : Nat) (x : CtxEnt) : (s.setCtxEnt n x).out = s.out := rfl
@[simp] theorem State.setCtxEnt_free (s : State) (n : Nat) (x : CtxEnt) : (s.setCtxEnt n x).free = s.free := rfl

theorem State.ctx_setCtx (s : State) (n m : Nat) (x : Ctx) : (s.setCtx n x).ctx m = if m = n then x else s.ctx m :=
  mget_mset _ _ _ _ _
@[simp] theorem State.ctx_setCtx_self (s : State) (n : Nat) (x : Ctx) : (s.setCtx n x).ctx n = x := mget_mset_self _ _ _ _
@[simp] theorem State.core_setCtx (s : State) (n m : Nat) (x : Ctx) : (s.setCtx n x).core m = s.core m := rfl
@[simp] theorem State.clus_setCtx (s : State) (n m : Nat) (x : Ctx) : (s.setCtx n x).clus m = s.clus m := rfl
@[simp] theorem State.die_setCtx (s : State) (n m : Nat) (x : Ctx) : (s.setCtx n x).die m = s.die m := rfl
@[simp] theorem State.ctxEnt_setCtx (s : State) (n m : Nat) (x : Ctx) : (s.setCtx n x).ctxEnt m = s.ctxEnt m := rfl

@[simp] theorem State.ctx_setCore (s : State) (n m : Nat) (x : Core) : (s.setCore n x).ctx m = s.ctx m := rfl
theorem State.core_setCore (s : State) (n m : Nat) (x : Core) : (s.setCore n x).core m = if m = n then x else s.core m :=
  mget_mset _ _ _ _ _
@[simp] theorem State.core_setCore_self (s : State) (n : Nat) (x : Core) : (s.setCore n x).core n = x := mget_mset_self _ _ _ _
@[simp] theorem State.clus_setCore (s : State) (n m : Nat) (x : Core) : (s.setCore n x).clus m = s.clus m := rfl
@[simp] theorem State.die_setCore (s : State) (n m : Nat) (x : Core) : (s.setCore n x).die m = s.die m := rfl
@[simp] theorem State.ctxEnt_setCore (s : State) (n m : Nat) (x : Core) : (s.setCore n x).ctxEnt m = s.ctxEnt m := rfl

@[simp] theorem State.ctx_setClus (s : State) (n m : Nat) (x : Cluster) : (s.setClus n x).ctx m = s.ctx m := rfl
@[simp] theorem State.core_setClus (s : State) (n m : Nat) (x : Cluster) : (s.setClus n x).core m = s.core m := rfl
theorem State.clus_setClus (s : State) (n m : Nat) (x : Cluster) : (s.setClus n x).clus m = if m = n then x else s.clus m :=
  mget_mset _ _ _ _ _
@[simp] theorem State.clus_setClus_self (s : State) (n : Nat) (x : Cluster) : (s.setClus n x).clus n = x := mget_mset_self _ _ _ _
@[simp] theorem State.die_setClus (s : State) (n m : Nat) (x : Cluster) : (s.setClus n x).die m = s.die m := rfl
@[simp] theorem State.ctxEnt_setClus (s : State) (n m : Nat) (x : Cluster) : (s.setClus n x).ctxEnt m = s.ctxEnt m := rfl

@[simp] theorem State.ctx_setDie (s : State) (n m : Nat) (x : Die) : (s.setDie n x).ctx m = s.ctx m := rfl
@[simp] theorem State.core_setDie (s : State) (n m : Nat) (x : Die) : (s.setDie n x).core m = s.core m := rfl
@[simp] theorem State.clus_setDie (s : State) (n m : Nat) (x : Die) : (s.setDie n x).clus m = s.clus m := rfl
theorem State.die_setDie (s : State) (n m : Nat) (x : Die) : (s.setDie n x).die m = if m = n then x else s.die m :=
  mget_mset _ _ _ _ _
@[simp] theorem State.die_setDie_self (s : State) (n : Nat) (x : Die) : (s.setDie n x).die n = x := mget_mset_self _ _ _ _
@[simp] theorem State.ctxEnt_setDie (s : State) (n m : Nat) (x : Die) : (s.setDie n x).ctxEnt m = s.ctxEnt m := rfl

@[simp] theorem State.ctx_setCtxEnt (s : State) (n m : Nat) (x : CtxEnt) : (s.setCtxEnt n x).ctx m = s.ctx m := rfl
@[simp] theorem State.core_setCtxEnt (s : State) (n m : Nat) (x : CtxEnt) : (s.setCtxEnt n x).core m = s.core m := rfl
@[simp] theorem State.clus_setCtxEnt (s : State) (n m : Nat) (x : CtxEnt) : (s.setCtxEnt n x).clus m = s.clus m := rfl
@[simp] theorem State.die_setCtxEnt (s : State) (n m : Nat) (x : CtxEnt) : (s.setCtxEnt n x).die m = s.die m := rfl
theorem State.ctxEnt_setCtxEnt (s : State) (n m : Nat) (x : CtxEnt) : (s.setCtxEnt n x).ctxEnt m = if m = n then x else s.ctxEnt m :=
  mget_mset _ _ _ _ _
@[simp] theorem State.ctxEnt_setCtxEnt_self (s : State) (n : Nat) (x : CtxEnt) : (s.setCtxEnt n x).ctxEnt n = x := mget_mset_self _ _ _ _

@[simp] theorem State.setMe_me (s : State) (c : Ctx) : (s.setMe c).me = c := State.ctx_setCtx_self _ _ _
@[simp] theorem State.setMe_myCore (s : State) (c : Ctx) : (s.setMe c).myCore = s.myCore := rfl
@[simp] theorem State.setMyCore_me (s : State) (c : Core) : (s.setMyCore c).me = s.me := rfl
@[simp] theorem State.setMyCore_myCore (s : State) (c : Core) : (s.setMyCore c).myCore = c := State.core_setCore_self _ _ _
@[simp] theorem State.setDie_me (s : State) (n : Nat) (d : Die) : (s.setDie n d).me = s.me := rfl
@[simp] theorem State.setDie_myCore (s : State) (n : Nat) (d : Die) : (s.setDie n d).myCore = s.myCore := rfl
@[simp] theorem State.setClus_me (s : State) (n : Nat) (d : Cluster) : (s.setClus n d).me = s.me := rfl
@[simp] theorem State.setClus_myCore (s : State) (n : Nat) (d : Cluster) : (s.setClus n d).myCore = s.myCore := rfl
@[simp] theorem State.setMe_cycle (s : State) (c : Ctx) : (s.setMe c).cycle = s.cycle := rfl
@[simp] theorem State.setMe_cycBase (s : State) (c : Ctx) : (s.setMe c).cycBase = s.cycBase := rfl
@[simp] theorem State.setMe_cur (s : State) (c : Ctx) : (s.setMe c).cur = s.cur := rfl
@[simp] theorem State.setMe_issued (s : State) (c : Ctx) : (s.setMe c).issued = s.issued := rfl
@[simp] theorem State.setMe_shadow (s : State) (c : Ctx) : (s.setMe c).shadow = s.shadow := rfl
@[simp] theorem State.setMe_cores (s : State) (c : Ctx) : (s.setMe c).cores = s.cores := rfl
@[simp] theorem State.setMe_clusters (s : State) (c : Ctx) : (s.setMe c).clusters = s.clusters := rfl
@[simp] theorem State.setMe_dies (s : State) (c : Ctx) : (s.setMe c).dies = s.dies := rfl
@[simp] theorem State.setMe_mem (s : State) (c : Ctx) : (s.setMe c).mem = s.mem := rfl
@[simp] theorem State.setMe_poison (s : State) (c : Ctx) : (s.setMe c).poison = s.poison := rfl
@[simp] theorem State.setMe_ctxTab (s : State) (c : Ctx) : (s.setMe c).ctxTab = s.ctxTab := rfl
@[simp] theorem State.setMe_insts (s : State) (c : Ctx) : (s.setMe c).insts = s.insts := rfl
@[simp] theorem State.setMe_nixCtr (s : State) (c : Ctx) : (s.setMe c).nixCtr = s.nixCtr := rfl
@[simp] theorem State.setMe_nixWrap (s : State) (c : Ctx) : (s.setMe c).nixWrap = s.nixWrap := rfl
@[simp] theorem State.setMe_images (s : State) (c : Ctx) : (s.setMe c).images = s.images := rfl
@[simp] theorem State.setMe_regCtr (s : State) (c : Ctx) : (s.setMe c).regCtr = s.regCtr := rfl
@[simp] theorem State.setMe_stages (s : State) (c : Ctx) : (s.setMe c).stages = s.stages := rfl
@[simp] theorem State.setMe_clkErr (s : State) (c : Ctx) : (s.setMe c).clkErr = s.clkErr := rfl
@[simp] theorem State.setMe_clkIdx (s : State) (c : Ctx) : (s.setMe c).clkIdx = s.clkIdx := rfl
@[simp] theorem State.setMe_clkRec (s : State) (c : Ctx) : (s.setMe c).clkRec = s.clkRec := rfl
@[simp] theorem State.setMe_clocks (s : State) (c : Ctx) : (s.setMe c).clocks = s.clocks := rfl
@[simp] theorem State.setMe_oupd (s : State) (c : Ctx) : (s.setMe c).oupd = s.oupd := rfl
@[simp] theorem State.setMe_oclose (s : State) (c : Ctx) : (s.setMe c).oclose = s.oclose := rfl
@[simp] theorem State.setMe_ghosts (s : State) (c : Ctx) : (s.setMe c).ghosts = s.ghosts := rfl
@[simp] theorem State.setMe_gathIn (s : State) (c : Ctx) : (s.setMe c).gathIn = s.gathIn := rfl
@[simp] theorem State.setMe_gathRet (s : State) (c : Ctx) : (s.setMe c).gathRet = s.gathRet := rfl
@[simp] theorem State.setMe_gathCtr (s : State) (c : Ctx) : (s.setMe c).gathCtr = s.gathCtr := rfl
@[simp] theorem State.setMe_walks (s : State) (c : Ctx) : (s.setMe c).walks = s.walks := rfl
@[simp] theorem State.setMe_timeOfs (s : State) (c : Ctx) : (s.setMe c).timeOfs = s.timeOfs := rfl
@[simp] theorem State.setMe_ptp (s : State) (c : Ctx) : (s.setMe c).ptp = s.ptp := rfl
@[simp] theorem State.setMe_sess (s : State) (c : Ctx) : (s.setMe c).sess = s.sess := rfl
@[simp] theorem State.setMe_ecpq (s : State) (c : Ctx) : (s.setMe c).ecpq = s.ecpq := rfl
@[simp] theorem State.setMe_sseq (s : State) (c : Ctx) : (s.setMe c).sseq = s.sseq := rfl
@[simp] theorem State.setMe_score (s : State) (c : Ctx) : (s.setMe c).score = s.score := rfl
@[simp] theorem State.setMe_health (s : State) (c : Ctx) : (s.setMe c).health = s.health := rfl
@[simp] theorem State.setMe_phase (s : State) (c : Ctx) : (s.setMe c).phase = s.phase := rfl
@[simp] theorem State.setMe_byCmd (s : State) (c : Ctx) : (s.setMe c).byCmd = s.byCmd := rfl
@[simp] theorem State.setMe_back (s : State) (c : Ctx) : (s.setMe c).back = s.back := rfl
@[simp] theorem State.setMe_full (s : State) (c : Ctx) : (s.setMe c).full = s.full := rfl
@[simp] theorem State.setMe_bootFail (s : State) (c : Ctx) : (s.setMe c).bootFail = s.bootFail := rfl
@[simp] theorem State.setMe_sealed (s : State) (c : Ctx) : (s.setMe c).sealed = s.sealed := rfl
@[simp] theorem State.setMe_journal (s : State) (c : Ctx) : (s.setMe c).journal = s.journal := rfl
@[simp] theorem State.setMe_sealCtr (s : State) (c : Ctx) : (s.setMe c).sealCtr = s.sealCtr := rfl
@[simp] theorem State.setMe_record (s : State) (c : Ctx) : (s.setMe c).record = s.record := rfl
@[simp] theorem State.setMe_recPrev (s : State) (c : Ctx) : (s.setMe c).recPrev = s.recPrev := rfl
@[simp] theorem State.setMe_slotA (s : State) (c : Ctx) : (s.setMe c).slotA = s.slotA := rfl
@[simp] theorem State.setMe_slotB (s : State) (c : Ctx) : (s.setMe c).slotB = s.slotB := rfl
@[simp] theorem State.setMe_fwFloor (s : State) (c : Ctx) : (s.setMe c).fwFloor = s.fwFloor := rfl
@[simp] theorem State.setMe_recFloor (s : State) (c : Ctx) : (s.setMe c).recFloor = s.recFloor := rfl
@[simp] theorem State.setMe_romEd (s : State) (c : Ctx) : (s.setMe c).romEd = s.romEd := rfl
@[simp] theorem State.setMe_romMl (s : State) (c : Ctx) : (s.setMe c).romMl = s.romMl := rfl
@[simp] theorem State.setMe_fwPkg (s : State) (c : Ctx) : (s.setMe c).fwPkg = s.fwPkg := rfl
@[simp] theorem State.setMe_fwVer (s : State) (c : Ctx) : (s.setMe c).fwVer = s.fwVer := rfl
@[simp] theorem State.setMe_fwText (s : State) (c : Ctx) : (s.setMe c).fwText = s.fwText := rfl
@[simp] theorem State.setMe_fwData (s : State) (c : Ctx) : (s.setMe c).fwData = s.fwData := rfl
@[simp] theorem State.setMe_hdls (s : State) (c : Ctx) : (s.setMe c).hdls = s.hdls := rfl
@[simp] theorem State.setMe_macsec (s : State) (c : Ctx) : (s.setMe c).macsec = s.macsec := rfl
@[simp] theorem State.setMe_bridge (s : State) (c : Ctx) : (s.setMe c).bridge = s.bridge := rfl
@[simp] theorem State.setMe_brHit (s : State) (c : Ctx) : (s.setMe c).brHit = s.brHit := rfl
@[simp] theorem State.setMe_brThr (s : State) (c : Ctx) : (s.setMe c).brThr = s.brThr := rfl
@[simp] theorem State.setMe_peers (s : State) (c : Ctx) : (s.setMe c).peers = s.peers := rfl
@[simp] theorem State.setMe_routes (s : State) (c : Ctx) : (s.setMe c).routes = s.routes := rfl
@[simp] theorem State.setMe_preqs (s : State) (c : Ctx) : (s.setMe c).preqs = s.preqs := rfl
@[simp] theorem State.setMe_preqCtr (s : State) (c : Ctx) : (s.setMe c).preqCtr = s.preqCtr := rfl
@[simp] theorem State.setMe_flitDrop (s : State) (c : Ctx) : (s.setMe c).flitDrop = s.flitDrop := rfl
@[simp] theorem State.setMe_parts (s : State) (c : Ctx) : (s.setMe c).parts = s.parts := rfl
@[simp] theorem State.setMe_wres (s : State) (c : Ctx) : (s.setMe c).wres = s.wres := rfl
@[simp] theorem State.setMe_csrq (s : State) (c : Ctx) : (s.setMe c).csrq = s.csrq := rfl
@[simp] theorem State.setMe_arg (s : State) (c : Ctx) : (s.setMe c).arg = s.arg := rfl
@[simp] theorem State.setMe_inputs (s : State) (c : Ctx) : (s.setMe c).inputs = s.inputs := rfl
@[simp] theorem State.setMe_out (s : State) (c : Ctx) : (s.setMe c).out = s.out := rfl
@[simp] theorem State.setMe_free (s : State) (c : Ctx) : (s.setMe c).free = s.free := rfl
@[simp] theorem State.setMyCore_cycle (s : State) (c : Core) : (s.setMyCore c).cycle = s.cycle := rfl
@[simp] theorem State.setMyCore_cycBase (s : State) (c : Core) : (s.setMyCore c).cycBase = s.cycBase := rfl
@[simp] theorem State.setMyCore_cur (s : State) (c : Core) : (s.setMyCore c).cur = s.cur := rfl
@[simp] theorem State.setMyCore_issued (s : State) (c : Core) : (s.setMyCore c).issued = s.issued := rfl
@[simp] theorem State.setMyCore_ctxs (s : State) (c : Core) : (s.setMyCore c).ctxs = s.ctxs := rfl
@[simp] theorem State.setMyCore_shadow (s : State) (c : Core) : (s.setMyCore c).shadow = s.shadow := rfl
@[simp] theorem State.setMyCore_clusters (s : State) (c : Core) : (s.setMyCore c).clusters = s.clusters := rfl
@[simp] theorem State.setMyCore_dies (s : State) (c : Core) : (s.setMyCore c).dies = s.dies := rfl
@[simp] theorem State.setMyCore_mem (s : State) (c : Core) : (s.setMyCore c).mem = s.mem := rfl
@[simp] theorem State.setMyCore_poison (s : State) (c : Core) : (s.setMyCore c).poison = s.poison := rfl
@[simp] theorem State.setMyCore_ctxTab (s : State) (c : Core) : (s.setMyCore c).ctxTab = s.ctxTab := rfl
@[simp] theorem State.setMyCore_insts (s : State) (c : Core) : (s.setMyCore c).insts = s.insts := rfl
@[simp] theorem State.setMyCore_nixCtr (s : State) (c : Core) : (s.setMyCore c).nixCtr = s.nixCtr := rfl
@[simp] theorem State.setMyCore_nixWrap (s : State) (c : Core) : (s.setMyCore c).nixWrap = s.nixWrap := rfl
@[simp] theorem State.setMyCore_images (s : State) (c : Core) : (s.setMyCore c).images = s.images := rfl
@[simp] theorem State.setMyCore_regCtr (s : State) (c : Core) : (s.setMyCore c).regCtr = s.regCtr := rfl
@[simp] theorem State.setMyCore_stages (s : State) (c : Core) : (s.setMyCore c).stages = s.stages := rfl
@[simp] theorem State.setMyCore_clkErr (s : State) (c : Core) : (s.setMyCore c).clkErr = s.clkErr := rfl
@[simp] theorem State.setMyCore_clkIdx (s : State) (c : Core) : (s.setMyCore c).clkIdx = s.clkIdx := rfl
@[simp] theorem State.setMyCore_clkRec (s : State) (c : Core) : (s.setMyCore c).clkRec = s.clkRec := rfl
@[simp] theorem State.setMyCore_clocks (s : State) (c : Core) : (s.setMyCore c).clocks = s.clocks := rfl
@[simp] theorem State.setMyCore_oupd (s : State) (c : Core) : (s.setMyCore c).oupd = s.oupd := rfl
@[simp] theorem State.setMyCore_oclose (s : State) (c : Core) : (s.setMyCore c).oclose = s.oclose := rfl
@[simp] theorem State.setMyCore_ghosts (s : State) (c : Core) : (s.setMyCore c).ghosts = s.ghosts := rfl
@[simp] theorem State.setMyCore_gathIn (s : State) (c : Core) : (s.setMyCore c).gathIn = s.gathIn := rfl
@[simp] theorem State.setMyCore_gathRet (s : State) (c : Core) : (s.setMyCore c).gathRet = s.gathRet := rfl
@[simp] theorem State.setMyCore_gathCtr (s : State) (c : Core) : (s.setMyCore c).gathCtr = s.gathCtr := rfl
@[simp] theorem State.setMyCore_walks (s : State) (c : Core) : (s.setMyCore c).walks = s.walks := rfl
@[simp] theorem State.setMyCore_timeOfs (s : State) (c : Core) : (s.setMyCore c).timeOfs = s.timeOfs := rfl
@[simp] theorem State.setMyCore_ptp (s : State) (c : Core) : (s.setMyCore c).ptp = s.ptp := rfl
@[simp] theorem State.setMyCore_sess (s : State) (c : Core) : (s.setMyCore c).sess = s.sess := rfl
@[simp] theorem State.setMyCore_ecpq (s : State) (c : Core) : (s.setMyCore c).ecpq = s.ecpq := rfl
@[simp] theorem State.setMyCore_sseq (s : State) (c : Core) : (s.setMyCore c).sseq = s.sseq := rfl
@[simp] theorem State.setMyCore_score (s : State) (c : Core) : (s.setMyCore c).score = s.score := rfl
@[simp] theorem State.setMyCore_health (s : State) (c : Core) : (s.setMyCore c).health = s.health := rfl
@[simp] theorem State.setMyCore_phase (s : State) (c : Core) : (s.setMyCore c).phase = s.phase := rfl
@[simp] theorem State.setMyCore_byCmd (s : State) (c : Core) : (s.setMyCore c).byCmd = s.byCmd := rfl
@[simp] theorem State.setMyCore_back (s : State) (c : Core) : (s.setMyCore c).back = s.back := rfl
@[simp] theorem State.setMyCore_full (s : State) (c : Core) : (s.setMyCore c).full = s.full := rfl
@[simp] theorem State.setMyCore_bootFail (s : State) (c : Core) : (s.setMyCore c).bootFail = s.bootFail := rfl
@[simp] theorem State.setMyCore_sealed (s : State) (c : Core) : (s.setMyCore c).sealed = s.sealed := rfl
@[simp] theorem State.setMyCore_journal (s : State) (c : Core) : (s.setMyCore c).journal = s.journal := rfl
@[simp] theorem State.setMyCore_sealCtr (s : State) (c : Core) : (s.setMyCore c).sealCtr = s.sealCtr := rfl
@[simp] theorem State.setMyCore_record (s : State) (c : Core) : (s.setMyCore c).record = s.record := rfl
@[simp] theorem State.setMyCore_recPrev (s : State) (c : Core) : (s.setMyCore c).recPrev = s.recPrev := rfl
@[simp] theorem State.setMyCore_slotA (s : State) (c : Core) : (s.setMyCore c).slotA = s.slotA := rfl
@[simp] theorem State.setMyCore_slotB (s : State) (c : Core) : (s.setMyCore c).slotB = s.slotB := rfl
@[simp] theorem State.setMyCore_fwFloor (s : State) (c : Core) : (s.setMyCore c).fwFloor = s.fwFloor := rfl
@[simp] theorem State.setMyCore_recFloor (s : State) (c : Core) : (s.setMyCore c).recFloor = s.recFloor := rfl
@[simp] theorem State.setMyCore_romEd (s : State) (c : Core) : (s.setMyCore c).romEd = s.romEd := rfl
@[simp] theorem State.setMyCore_romMl (s : State) (c : Core) : (s.setMyCore c).romMl = s.romMl := rfl
@[simp] theorem State.setMyCore_fwPkg (s : State) (c : Core) : (s.setMyCore c).fwPkg = s.fwPkg := rfl
@[simp] theorem State.setMyCore_fwVer (s : State) (c : Core) : (s.setMyCore c).fwVer = s.fwVer := rfl
@[simp] theorem State.setMyCore_fwText (s : State) (c : Core) : (s.setMyCore c).fwText = s.fwText := rfl
@[simp] theorem State.setMyCore_fwData (s : State) (c : Core) : (s.setMyCore c).fwData = s.fwData := rfl
@[simp] theorem State.setMyCore_hdls (s : State) (c : Core) : (s.setMyCore c).hdls = s.hdls := rfl
@[simp] theorem State.setMyCore_macsec (s : State) (c : Core) : (s.setMyCore c).macsec = s.macsec := rfl
@[simp] theorem State.setMyCore_bridge (s : State) (c : Core) : (s.setMyCore c).bridge = s.bridge := rfl
@[simp] theorem State.setMyCore_brHit (s : State) (c : Core) : (s.setMyCore c).brHit = s.brHit := rfl
@[simp] theorem State.setMyCore_brThr (s : State) (c : Core) : (s.setMyCore c).brThr = s.brThr := rfl
@[simp] theorem State.setMyCore_peers (s : State) (c : Core) : (s.setMyCore c).peers = s.peers := rfl
@[simp] theorem State.setMyCore_routes (s : State) (c : Core) : (s.setMyCore c).routes = s.routes := rfl
@[simp] theorem State.setMyCore_preqs (s : State) (c : Core) : (s.setMyCore c).preqs = s.preqs := rfl
@[simp] theorem State.setMyCore_preqCtr (s : State) (c : Core) : (s.setMyCore c).preqCtr = s.preqCtr := rfl
@[simp] theorem State.setMyCore_flitDrop (s : State) (c : Core) : (s.setMyCore c).flitDrop = s.flitDrop := rfl
@[simp] theorem State.setMyCore_parts (s : State) (c : Core) : (s.setMyCore c).parts = s.parts := rfl
@[simp] theorem State.setMyCore_wres (s : State) (c : Core) : (s.setMyCore c).wres = s.wres := rfl
@[simp] theorem State.setMyCore_csrq (s : State) (c : Core) : (s.setMyCore c).csrq = s.csrq := rfl
@[simp] theorem State.setMyCore_arg (s : State) (c : Core) : (s.setMyCore c).arg = s.arg := rfl
@[simp] theorem State.setMyCore_inputs (s : State) (c : Core) : (s.setMyCore c).inputs = s.inputs := rfl
@[simp] theorem State.setMyCore_out (s : State) (c : Core) : (s.setMyCore c).out = s.out := rfl
@[simp] theorem State.setMyCore_free (s : State) (c : Core) : (s.setMyCore c).free = s.free := rfl
@[simp] theorem State.core_setMe (s : State) (c : Ctx) (n : Nat) : (s.setMe c).core n = s.core n := rfl
@[simp] theorem State.clus_setMe (s : State) (c : Ctx) (n : Nat) : (s.setMe c).clus n = s.clus n := rfl
@[simp] theorem State.die_setMe (s : State) (c : Ctx) (n : Nat) : (s.setMe c).die n = s.die n := rfl
@[simp] theorem State.ctxEnt_setMe (s : State) (c : Ctx) (n : Nat) : (s.setMe c).ctxEnt n = s.ctxEnt n := rfl
@[simp] theorem State.ctx_setMyCore (s : State) (c : Core) (n : Nat) : (s.setMyCore c).ctx n = s.ctx n := rfl
@[simp] theorem State.clus_setMyCore (s : State) (c : Core) (n : Nat) : (s.setMyCore c).clus n = s.clus n := rfl
@[simp] theorem State.die_setMyCore (s : State) (c : Core) (n : Nat) : (s.setMyCore c).die n = s.die n := rfl
@[simp] theorem State.ctxEnt_setMyCore (s : State) (c : Core) (n : Nat) : (s.setMyCore c).ctxEnt n = s.ctxEnt n := rfl

theorem State.ctx_setMe_ne (s : State) (c : Ctx) {n : Nat} (h : n ≠ s.cur) : (s.setMe c).ctx n = s.ctx n :=
  mget_mset_ne _ _ _ h

theorem State.core_setMyCore_ne (s : State) (c : Core) {n : Nat} (h : n ≠ agCore s.cur) : (s.setMyCore c).core n = s.core n :=
  mget_mset_ne _ _ _ h

end Sys2Proof.Machine
end

