-- ==== Sys2Proof/Laws/Issue.lean ====
section
/-! SUPPORT. What `issue` does: for an instruction that is ready it settles the instruction's effect; and `retire` changes nothing
but what `IssueFrame` names. -/

namespace Sys2Proof

open Machine

theorem IssueFrame.refl (r : Ring) (s : State) : IssueFrame r s s where
  rest := rfl
  ctxs _ _ := rfl
  me := rfl
  stores := .inl ⟨rfl, rfl⟩
  cores _ _ := rfl
  core := rfl
  ports := rfl
  job := rfl
  dies _ := rfl
  own _ := rfl
  view _ := .inl rfl
  mem := ⟨fun _ h => h, fun _ => ⟨rfl, rfl⟩⟩

theorem IssueFrame.cur_eq {r : Ring} {s t : State} (h : IssueFrame r s t) : t.cur = s.cur := by rw [h.rest]

theorem IssueFrame.trans {r : Ring} {s t u : State} (h : IssueFrame r s t) (k : IssueFrame r t u) : IssueFrame r s u where
  rest := by rw [k.rest, h.rest]
  ctxs ag ha := by rw [k.ctxs ag (by rw [h.cur_eq]; exact ha), h.ctxs ag ha]
  me := by have := k.me; rw [h.me] at this; exact this
  stores := by
    rcases k.stores with ⟨e1, e2⟩ | e
    · rw [e1, e2]; exact h.stores
    · exact .inr e
  cores n hn := by rw [k.cores n (by rw [h.cur_eq]; exact hn), h.cores n hn]
  core := by have := k.core; rw [h.core] at this; exact this
  ports := by rw [k.ports, h.ports]
  job := by rw [k.job, h.job]
  dies d := by have := k.dies d; rw [h.dies d] at this; exact this
  own pa := by have := k.own pa; rw [h.cur_eq] at this; rw [this, h.own]
  view pa := by
    have h1 := k.view pa
    rw [h.cur_eq] at h1
    rcases h1 with e | ⟨e1, e2⟩
    · rw [e]; exact h.view pa
    · exact .inr ⟨e1, e2.trans (h.own pa)⟩
  mem := by
    refine ⟨fun x hx => h.mem.1 x (k.mem.1 x hx), fun hr => ?_⟩
    have k2 := k.mem.2 (by rw [h.cur_eq]; exact hr)
    exact ⟨k2.1.trans (h.mem.2 hr).1, k2.2.trans (h.mem.2 hr).2⟩

/-- A context that differs in its place only. -/
def Ctx.placeSame (a c : Ctx) : Prop :=
  c = { a with
    run := c.run, pc := c.pc, lc := c.lc, levels := c.levels, gRem := c.gRem, sigs := c.sigs,
    wait := c.wait, ans := c.ans, safeAt := c.safeAt, stopAt := c.stopAt, stopAfter := c.stopAfter,
    atKernel := c.atKernel, stores := c.stores, veil := c.veil }

/-- Replacing the issuing context by one that differs in its place only. -/
theorem frame_setMe (r : Ring) (s : State) (c : Ctx) (h : Ctx.placeSame s.me c)
    (hs : c.stores = s.me.stores ∧ c.veil = s.me.veil) : IssueFrame r s (s.setMe c) where
  rest := rfl
  ctxs ag ha := State.ctx_setMe_ne s c ha
  me := by unfold Ctx.placeSame at h; rw [State.setMe_me]; exact h
  stores := by rw [State.setMe_me]; exact .inl hs
  cores _ _ := rfl
  core := rfl
  ports := rfl
  job := rfl
  dies _ := rfl
  own pa := by
    have h1 : (s.setMe c).ctx s.cur = c := State.setMe_me s c
    unfold ownByte
    rw [h1, hs.1]; rfl
  view pa := by
    have h1 : (s.setMe c).ctx s.cur = c := State.setMe_me s c
    unfold viewByte veiled
    rw [h1, hs.1, hs.2]; exact .inl rfl
  mem := ⟨fun _ h => h, fun _ => ⟨rfl, rfl⟩⟩

theorem IssueFrame.thenMe {r : Ring} {s t : State} {c : Ctx} (h : IssueFrame r s t) (hc : Ctx.placeSame t.me c)
    (hs : c.stores = t.me.stores ∧ c.veil = t.me.veil) : IssueFrame r s (t.setMe c) := .trans h (frame_setMe r t c hc hs)

/-- Replacing the core of the issuing context by one that differs in tokens, records, marks and the stop of its job. -/
theorem frame_setMyCore (r : Ring) (s : State) (c : Core)
    (h : c = { s.myCore with tok := c.tok, rb := c.rb, ckpts := c.ckpts, ports := c.ports, job := c.job })
    (hp : c.ports.map (fun x => (x.1, { x.2 with marks := [] })) = s.myCore.ports.map (fun x => (x.1, { x.2 with marks := [] })))
    (hj : c.job.map (fun j => { j with stopped := false, told := false })
      = s.myCore.job.map (fun j => { j with stopped := false, told := false })) :
    IssueFrame r s (s.setMyCore c) where
  rest := rfl
  ctxs _ _ := rfl
  me := rfl
  stores := .inl ⟨rfl, rfl⟩
  cores n hn := State.core_setMyCore_ne s c hn
  core := by rw [State.setMyCore_myCore]; exact h
  ports := by rw [State.setMyCore_myCore]; exact hp
  job := by rw [State.setMyCore_myCore]; exact hj
  dies _ := rfl
  own _ := rfl
  view _ := .inl rfl
  mem := ⟨fun _ h => h, fun _ => ⟨rfl, rfl⟩⟩

/-- Adding events or samples to a die. -/
theorem frame_setDie (r : Ring) (s : State) (n : Nat) (d : Die)
    (h : d = { s.die n with waiting := d.waiting, samples := d.samples }) : IssueFrame r s (s.setDie n d) where
  rest := rfl
  ctxs _ _ := rfl
  me := rfl
  stores := .inl ⟨rfl, rfl⟩
  cores _ _ := rfl
  core := rfl
  ports := rfl
  job := rfl
  dies m := by
    by_cases e : m = n
    · subst e; rw [State.die_setDie_self]; exact h
    · rw [State.die_setDie, if_neg e]
  own _ := rfl
  view _ := .inl rfl
  mem := ⟨fun _ h => h, fun _ => ⟨rfl, rfl⟩⟩

/-! ### Held stores -/

theorem memByte_putByte (s : State) (a b : Nat) (v : Byte) :
    memByte (putByte s a v) b = if b % 2 ^ 40 = a % 2 ^ 40 then v else memByte s b := mget_mput _ _ _ _ _

theorem putBytes_append (s : State) (a b : List (Nat × Byte)) : putBytes s (a ++ b) = putBytes (putBytes s a) b := by
  induction a generalizing s with
  | nil => rfl
  | cons p t ih => exact ih _

theorem memByte_putBytes (l : List (Nat × Byte)) (s : State) (pa : Nat) :
    memByte (putBytes s l) pa
      = ((l.reverse.find? fun p => decide (p.1 % 2 ^ 40 = pa % 2 ^ 40)).map fun p => p.2).getD (memByte s pa) := by
  induction l generalizing s with
  | nil => rfl
  | cons p t ih =>
    obtain ⟨a, b⟩ := p
    simp only [putBytes, ih, List.reverse_cons, List.find?_append]
    cases hf : t.reverse.find? (fun p => decide (p.1 % 2 ^ 40 = pa % 2 ^ 40)) with
    | some x => simp
    | none =>
      simp only [Option.map_none, Option.getD_none, Option.none_or, List.find?_singleton, memByte_putByte]
      by_cases e : a % 2 ^ 40 = pa % 2 ^ 40
      · rw [if_pos e.symm, decide_eq_true e]; rfl
      · rw [if_neg (Ne.symm e), decide_eq_false e]; rfl

/-- Writing memory poisons nothing (R465). -/
theorem mem_poison_putBytes (l : List (Nat × Byte)) (s : State) {x : Nat} (h : x ∈ (putBytes s l).poison) : x ∈ s.poison := by
  induction l generalizing s with
  | nil => exact h
  | cons p t ih => exact (List.mem_filter.1 (ih _ h)).1

theorem putBytes_rest (l : List (Nat × Byte)) (s : State) :
    putBytes s l = { s with mem := (putBytes s l).mem, poison := (putBytes s l).poison } := by
  induction l generalizing s with
  | nil => rfl
  | cons p t ih => obtain ⟨a, b⟩ := p; rw [putBytes, ih]; rfl

/-- Performing held stores gives memory the bytes that the agent's own loads saw (R81, R83). -/
theorem memByte_perform (l : List Store) (s : State) (pa : Nat) :
    memByte (putBytes s (l.flatMap fun st => st.bytes)) pa = (heldByte pa l).getD (memByte s pa) := by
  induction l generalizing s with
  | nil => rfl
  | cons st t ih =>
    rw [List.flatMap_cons, putBytes_append, ih, heldByte]
    cases heldByte pa t with
    | some b => rfl
    | none => simp only [Option.getD_none, memByte_putBytes]

theorem ownByte_performStores (s : State) (ag pa : Nat) : ownByte (performStores s ag) ag pa = ownByte s ag pa := by
  simp only [ownByte, performStores, State.ctx_setCtx_self, heldByte, Option.getD_none]
  exact memByte_perform _ s pa

theorem viewByte_performStores (s : State) (ag pa : Nat) : viewByte (performStores s ag) ag pa = ownByte s ag pa := by
  simp only [viewByte, ownByte, performStores, State.ctx_setCtx_self, heldByte, Option.getD_none, veiled, List.find?_nil]
  exact memByte_perform _ s pa

theorem frame_publish (r : Ring) (s : State) (hr : ringSigs (agEng s.cur) r ≠ []) : IssueFrame r s (publish s) := by
  unfold publish
  split
  · exact .refl r s
  · refine ⟨?_, ?_, ?_, ?_, ?_, ?_, ?_, ?_, ?_, ?_, ?_, ?_⟩
    · simp only [performStores]; rw [putBytes_rest]; rfl
    · intro ag ha
      simp only [performStores]; rw [putBytes_rest, State.ctx_setCtx, if_neg ha]; rfl
    · simp only [State.me, performStores]; rw [putBytes_rest]; simp [State.ctx_setCtx]
    · right; simp only [State.me, performStores]; rw [putBytes_rest]; simp [State.ctx_setCtx]
    · intro n _; simp only [performStores]; rw [putBytes_rest]; rfl
    · simp only [performStores]; rw [putBytes_rest]; rfl
    · simp only [performStores]; rw [putBytes_rest]; rfl
    · simp only [performStores]; rw [putBytes_rest]; rfl
    · intro d; simp only [performStores]; rw [putBytes_rest]; rfl
    · intro pa; exact ownByte_performStores s s.cur pa
    · intro pa; exact .inr ⟨hr, viewByte_performStores s s.cur pa⟩
    · refine ⟨?_, fun h => absurd h hr⟩
      intro x hx
      exact mem_poison_putBytes _ _ hx

/-! ### Stages of `retire` -/

/-- A core that differs in tokens, recovery records and checkpoints only. -/
def Core.recSame (a b : Core) : Prop := b = { a with tok := b.tok, rb := b.rb, ckpts := b.ckpts }

theorem Core.recSame.trans {a b c : Core} (h : Core.recSame a b) (k : Core.recSame b c) : Core.recSame a c := by
  unfold Core.recSame at *; rw [h] at k; exact k

theorem trimLog_same (c : Core) : Core.recSame c (trimLog c) := by unfold trimLog Core.recSame; split <;> rfl
theorem pruneRecs_same (c : Core) : Core.recSame c (pruneRecs c) := rfl

theorem logEv_same (c : Core) (e k i : Nat) (d : List Nat) : Core.recSame c (logEv c e k i d) := by
  unfold logEv
  split
  · rfl
  · exact Core.recSame.trans (b := { c with rb := _ }) rfl (trimLog_same _)

theorem popTok_same (c : Core) (e q n : Nat) : Core.recSame c (popTok c e q n) :=
  Core.recSame.trans (b := { c with tok := _ }) rfl (logEv_same _ _ _ _ _)

theorem pushTok_same (c : Core) (e q n : Nat) : Core.recSame c (pushTok c e q n) :=
  Core.recSame.trans (b := { c with tok := _ }) rfl (logEv_same _ _ _ _ _)

theorem flushSigs_same (l : List Nat) (c : Core) (e : Nat) : Core.recSame c (flushSigs c e l).1 := by
  induction l generalizing c with
  | nil => rfl
  | cons q t ih =>
    unfold flushSigs
    split
    · exact Core.recSame.trans (pushTok_same _ _ _ _) (ih _)
    · exact ih _

theorem foldl_popTok_same (l : List Nat) (c : Core) (e : Nat) : Core.recSame c (l.foldl (fun c q => popTok c e q 1) c) := by
  induction l generalizing c with
  | nil => rfl
  | cons q t ih => exact Core.recSame.trans (popTok_same _ _ _ _) (ih _)

theorem frame_recSame (r : Ring) (s : State) (c : Core) (h : Core.recSame s.myCore c) : IssueFrame r s (s.setMyCore c) := by
  unfold Core.recSame at h
  have hp : c.ports = s.myCore.ports := by rw [h]
  have hj : c.job = s.myCore.job := by rw [h]
  exact frame_setMyCore r s c (by rw [h]) (by rw [hp]) (by rw [hj])

theorem frame_ringEffects (r : Ring) (s : State) : IssueFrame r s (ringEffects r s) := by
  unfold ringEffects
  simp only
  split
  · exact .refl r s
  · by_cases hsg : ringSigs (agEng s.cur) r = []
    · simp only [hsg, if_true]
      exact .thenMe (frame_recSame r s _ (Core.recSame.trans (foldl_popTok_same _ _ _) (flushSigs_same _ _ _))) rfl ⟨rfl, rfl⟩
    · simp only [hsg, if_false]
      refine .trans (frame_publish r s hsg) ?_
      exact .thenMe (frame_recSame r _ _ (Core.recSame.trans (foldl_popTok_same _ _ _) (flushSigs_same _ _ _))) rfl ⟨rfl, rfl⟩

theorem frame_raiseEvent (r : Ring) (s : State) (d ty c : Nat) (b : List Byte) : IssueFrame r s (raiseEvent s d ty c b) :=
  frame_setDie r s d _ rfl

theorem frame_addSample (r : Ring) (s : State) (d a b c : Nat) (v : Int) : IssueFrame r s (addSample s d a b c v) := by
  unfold addSample
  split
  · exact frame_setDie r s d _ rfl
  · exact .refl r s

theorem frame_checkStopped (r : Ring) (s : State) : IssueFrame r s (checkStopped s (agCore s.cur)) := by
  unfold checkStopped
  simp only
  split
  · exact .refl r s
  · rename_i j hj
    have hj' : s.myCore.job = some j := hj
    have key : ∀ b : Bool, IssueFrame r s (s.setCore (agCore s.cur) { s.core (agCore s.cur) with
        job := some { j with stopped := true, told := b } }) := fun b =>
      frame_setMyCore r s _ rfl rfl (by rw [hj']; rfl)
    split
    · split
      · exact .trans (key _) (frame_raiseEvent r _ _ _ _ _)
      · exact key _
    · exact .refl r s

theorem frame_safePoint (r : Ring) (s : State) : IssueFrame r s (safePoint s) := by
  unfold safePoint
  simp only
  have h1 := frame_addSample r s (coreDie (agCore s.cur)) 9 0 (agCore s.cur) ((s.cycle : Int) - s.me.safeAt)
  generalize addSample s (coreDie (agCore s.cur)) 9 0 (agCore s.cur) ((s.cycle : Int) - s.me.safeAt) = s1 at *
  have key : ∀ (m : Bool) (c : Ctx), Ctx.placeSame s1.me c → c.stores = s1.me.stores ∧ c.veil = s1.me.veil →
      IssueFrame r s (if m then checkStopped (s1.setMe c) (agCore s.cur) else s1.setMe c) := by
    intro m c hc hs
    cases m
    · exact h1.thenMe hc hs
    · have := frame_checkStopped r (s1.setMe c)
      simp only [State.setMe_cur, h1.cur_eq] at this
      exact .trans (h1.thenMe hc hs) this
  exact key _ _ rfl ⟨rfl, rfl⟩

theorem frame_takeCkpt (r : Ring) (s : State) (k : Nat) : IssueFrame r s (takeCkpt s k) :=
  frame_recSame r s _ (Core.recSame.trans (b := { s.myCore with ckpts := _ }) rfl (pruneRecs_same _))

theorem frame_dropCkpts (r : Ring) (s : State) (e : Nat) : IssueFrame r s (s.setMyCore (dropCkpts s.myCore e)) :=
  frame_recSame r s _ (Core.recSame.trans (b := { s.myCore with ckpts := _ }) rfl (pruneRecs_same _))

theorem frame_spChange (r : Ring) (s : State) (c : Ctx) : IssueFrame r s (spChange c s) := by
  unfold spChange
  split
  · exact frame_dropCkpts r s _
  · exact frame_takeCkpt r s 0
  · exact .refl r s

theorem frame_autoMarks (r : Ring) (s : State) : IssueFrame r s (s.setMyCore (autoMarks s.myCore)) :=
  frame_setMyCore r s _ rfl (by simp [autoMarks, Function.comp_def]) rfl

theorem frame_marks (r : Ring) (s : State) :
    IssueFrame r s (if agEng s.cur = .ex then s.setMyCore (autoMarks s.myCore) else s) := by
  split
  · exact frame_autoMarks r s
  · exact .refl r s

theorem frame_ckptIf (r : Ring) (s : State) (b : Bool) (k : Nat) : IssueFrame r s (if b then takeCkpt s k else s) := by
  split
  · exact frame_takeCkpt r s k
  · exact .refl r s

theorem frame_boundary (r : Ring) (s : State) (again : Bool) (rec : Option Nat) : IssueFrame r s (boundary again rec s) := by
  unfold boundary
  simp only
  exact .thenMe (.trans (.trans (frame_marks r s) (frame_ckptIf r _ _ _)) (frame_safePoint r _)) rfl ⟨rfl, rfl⟩

theorem frame_jobStopped (r : Ring) (s : State) : IssueFrame r s (jobStopped s (agCore s.cur)) := by
  unfold jobStopped
  split
  · rename_i j hj
    have hj' : s.myCore.job = some j := hj
    split
    · exact .refl r s
    · exact frame_setMyCore r s { s.myCore with job := some { j with stopped := true } } rfl rfl (by rw [hj']; rfl)
  · exact .refl r s

/-- A context held at its next boundary, and the stop of its job. -/
theorem frame_stop (r : Ring) (s : State) (c : Ctx) (h : Ctx.placeSame s.me c)
    (hs : c.stores = s.me.stores ∧ c.veil = s.me.veil) :
    IssueFrame r s (jobStopped (checkStopped (s.setMe c) (agCore s.cur)) (agCore s.cur)) := by
  have h1 := (frame_setMe r s c h hs).trans (frame_checkStopped r _)
  have h2 := frame_jobStopped r (checkStopped (s.setMe c) (agCore s.cur))
  have e : (checkStopped (s.setMe c) (agCore s.cur)).cur = s.cur := h1.cur_eq
  rw [e] at h2
  exact h1.trans h2

theorem frame_lateStop (r : Ring) (s : State) : IssueFrame r s (lateStop s) := by
  unfold lateStop
  split
  · exact frame_stop r s _ rfl ⟨rfl, rfl⟩
  · exact .refl r s

theorem frame_issued (r : Ring) (s : State) : IssueFrame r s { s with issued := true } where
  rest := rfl
  ctxs _ _ := rfl
  me := rfl
  stores := .inl ⟨rfl, rfl⟩
  cores _ _ := rfl
  core := rfl
  ports := rfl
  job := rfl
  dies _ := rfl
  own _ := rfl
  view _ := .inl rfl
  mem := ⟨fun _ h => h, fun _ => ⟨rfl, rfl⟩⟩

theorem loopNext_same (a len : Nat) (n : Nxt) (c : Ctx) :
    (loopNext a len n c).1 = { c with
      pc := (loopNext a len n c).1.pc, lc := (loopNext a len n c).1.lc, levels := (loopNext a len n c).1.levels } := by
  unfold loopNext
  split <;> rfl

theorem guardNext_same (a b : Bool) (c : Ctx) : guardNext a b c = { c with gRem := (guardNext a b c).gRem } := by
  unfold guardNext
  split <;> rfl

theorem loopNext_place (a len : Nat) (n : Nxt) (b j : Bool) (c d : Ctx) (h : Ctx.placeSame c d) :
    Ctx.placeSame c (loopNext a len n (guardNext b j d)).1 := by
  unfold Ctx.placeSame at *
  rw [loopNext_same, guardNext_same, h]

theorem loopNext_stores (a len : Nat) (n : Nxt) (b j : Bool) (d : Ctx) :
    (loopNext a len n (guardNext b j d)).1.stores = d.stores ∧ (loopNext a len n (guardNext b j d)).1.veil = d.veil := by
  rw [loopNext_same, guardNext_same]; exact ⟨rfl, rfl⟩

/-- WHAT ISSUING CHANGES: `retire` leaves everything but what `IssueFrame` names. -/
theorem frame_retire (i : Instr) (r : Ring) (c0 : Ctx) (n : Nxt) (s : State) : IssueFrame r s (retire i r c0 n s) := by
  unfold retire
  simp only
  have h1 := (frame_issued r s).trans (frame_ringEffects r { s with issued := true })
  generalize ringEffects r { s with issued := true } = s1 at *
  refine .trans ?_ (frame_lateStop r _)
  have h2 := IssueFrame.trans (h1.thenMe (loopNext_place c0.pc (words i) n (decide (0 < c0.gRem))
      (match n with | .jump _ => true | _ => false) s1.me { s1.me with wait := .none, ans := none } rfl)
      (loopNext_stores _ _ _ _ _ _)) (frame_spChange r _ c0)
  split
  · exact .trans h2 (frame_boundary r _ _ _)
  · exact h2

/-! ### The pc -/

theorem me_checkStopped (s : State) (core : Nat) : (checkStopped s core).me = s.me := by
  unfold checkStopped
  simp only
  split
  · rfl
  · split
    · split <;> rfl
    · rfl

theorem me_addSample (s : State) (d a b c : Nat) (v : Int) : (addSample s d a b c v).me = s.me := by
  unfold addSample
  split <;> rfl

theorem me_jobStopped (s : State) (core : Nat) : (jobStopped s core).me = s.me := by
  unfold jobStopped
  split
  · split <;> rfl
  · rfl

theorem pc_safePoint (s : State) : (safePoint s).me.pc = s.me.pc := by
  unfold safePoint
  simp only
  have h1 := me_addSample s (coreDie (agCore s.cur)) 9 0 (agCore s.cur) ((s.cycle : Int) - s.me.safeAt)
  generalize addSample s (coreDie (agCore s.cur)) 9 0 (agCore s.cur) ((s.cycle : Int) - s.me.safeAt) = s1 at *
  have key : ∀ (m : Bool) (c : Ctx), c.pc = s.me.pc →
      (if m then checkStopped (s1.setMe c) (agCore s.cur) else s1.setMe c).me.pc = s.me.pc := by
    intro m c hc
    cases m <;> simp [me_checkStopped, hc]
  exact key _ _ (by rw [h1])

theorem me_spChange (s : State) (c : Ctx) : (spChange c s).me = s.me := by
  unfold spChange
  split <;> rfl

theorem pc_boundary (s : State) (again : Bool) (rec : Option Nat) : (boundary again rec s).me.pc = s.me.pc := by
  unfold boundary
  simp only [State.setMe_me, pc_safePoint]
  split <;> split <;> rfl

theorem pc_lateStop (s : State) : (lateStop s).me.pc = s.me.pc := by
  unfold lateStop
  split
  · simp only [me_jobStopped, me_checkStopped, State.setMe_me]
  · rfl

theorem ringEffects_place (r : Ring) (s : State) :
    (ringEffects r s).me = { s.me with 
      sigs := (ringEffects r s).me.sigs, stores := (ringEffects r s).me.stores, veil := (ringEffects r s).me.veil } := by
  unfold ringEffects
  simp only
  split
  · rfl
  · rw [State.setMe_me, State.setMyCore_me]
    split
    · rfl
    · unfold publish
      split
      · rfl
      · simp only [performStores]; rw [putBytes_rest]; simp [State.me, State.ctx_setCtx]

/-- The pc after an instruction has issued: what the loop unit says of its next address. -/
theorem pc_retire (i : Instr) (r : Ring) (c0 : Ctx) (n : Nxt) (s : State) :
    (retire i r c0 n s).me.pc =
      match n with
      | .goto t | .jump t => t
      | .seq => (backEdge c0.pc s.me.levels s.me.lc).2.2.1.getD (c0.pc + words i) := by
  unfold retire
  simp only [pc_lateStop]
  have hl : (ringEffects r { s with issued := true }).me.levels = s.me.levels := by rw [ringEffects_place]; rfl
  have hc : (ringEffects r { s with issued := true }).me.lc = s.me.lc := by rw [ringEffects_place]; rfl
  generalize ringEffects r { s with issued := true } = s1 at *
  have key : ∀ (o : Option (Option Nat)) (rec : Option Nat) (u : State),
      (match o with | some nx => boundary nx.isSome rec u | none => u).me.pc = u.me.pc := by
    intro o rec u
    cases o with
    | none => rfl
    | some nx => exact pc_boundary _ _ _
  refine (key _ _ _).trans ?_
  rw [me_spChange, State.setMe_me]
  cases n with
  | seq =>
    simp only [loopNext]
    have : ∀ b j, (guardNext b j { s1.me with wait := .none, ans := none }).levels = s.me.levels
        ∧ (guardNext b j { s1.me with wait := .none, ans := none }).lc = s.me.lc := by
      intro b j
      rw [guardNext_same]
      exact ⟨hl, hc⟩
    rw [(this _ _).1, (this _ _).2]
  | goto t => rfl
  | jump t => rfl

/-- With no active level ending at an address there is no back-edge there. -/
theorem backEdge_none (a : Nat) (ls : List Level) (lc : Map (BitVec 32)) (h : ∀ v ∈ ls, v.act = true → v.fin ≠ a) :
    backEdge a ls lc = (ls, lc, none, false) := by
  induction ls with
  | nil => rfl
  | cons v t ih =>
    have hv : (v.act && decide (v.fin = a)) = false := by
      have := h v (by simp)
      cases e : v.act
      · rfl
      · simpa [e] using this e
    rw [backEdge, hv, ih fun w hw => h w (by simp [hw])]
    rfl

/-! ### Ring effects -/

@[simp] theorem tok_trimLog (c : Core) : (trimLog c).tok = c.tok := by unfold trimLog; split <;> rfl

@[simp] theorem tok_logEv (c : Core) (e k i : Nat) (d : List Nat) : (logEv c e k i d).tok = c.tok := by
  unfold logEv
  split
  · rfl
  · exact tok_trimLog _

theorem toks_popTok (c : Core) (e q n m : Nat) :
    (popTok c e q n).toks m = if m = q then c.toks q - n else c.toks m := by
  simp only [popTok, Core.toks, tok_logEv, mget_mput]

theorem toks_pushTok (c : Core) (e q n m : Nat) :
    (pushTok c e q n).toks m = if m = q then c.toks q + n else c.toks m := by
  simp only [pushTok, Core.toks, tok_logEv, mget_mput]

theorem toks_pops (l : List Nat) (hl : l.Nodup) (c : Core) (e m : Nat) :
    (l.foldl (fun c q => popTok c e q 1) c).toks m = if m ∈ l then c.toks m - 1 else c.toks m := by
  induction l generalizing c with
  | nil => simp
  | cons q t ih =>
    rw [List.nodup_cons] at hl
    rw [List.foldl_cons, ih hl.2, toks_popTok]
    by_cases e1 : m = q
    · subst e1; simp [hl.1]
    · simp [e1]

theorem toks_flush (l : List Nat) (hl : l.Nodup) (c : Core) (e m : Nat) :
    (flushSigs c e l).1.toks m = if m ∈ l ∧ c.toks m < 16 then c.toks m + 1 else c.toks m := by
  induction l generalizing c with
  | nil => simp [flushSigs]
  | cons q t ih =>
    rw [List.nodup_cons] at hl
    unfold flushSigs
    by_cases e1 : m = q
    · subst e1
      split
      · rename_i h; rw [ih hl.2, toks_pushTok]; simp [hl.1, h]
      · rename_i h; simp only; rw [ih hl.2]; simp [hl.1, h]
    · split
      · rw [ih hl.2, toks_pushTok]; simp [e1]
      · simp only; rw [ih hl.2]; simp [e1]

theorem left_flush (l : List Nat) (hl : l.Nodup) (c : Core) (e : Nat) :
    (flushSigs c e l).2 = l.filter fun q => decide (16 ≤ c.toks q) := by
  induction l generalizing c with
  | nil => rfl
  | cons q t ih =>
    rw [List.nodup_cons] at hl
    unfold flushSigs
    have key : ∀ c' : Core, (∀ m, m ≠ q → c'.toks m = c.toks m) →
        t.filter (fun m => decide (16 ≤ c'.toks m)) = t.filter fun m => decide (16 ≤ c.toks m) := by
      intro c' h
      apply List.filter_congr
      intro m hm
      rw [h m (fun e1 => hl.1 (e1 ▸ hm))]
    split
    · rename_i h
      rw [ih hl.2, key _ (fun m hm => by rw [toks_pushTok, if_neg hm]), List.filter_cons, if_neg (by simpa using h)]
    · rename_i h
      simp only
      rw [ih hl.2, List.filter_cons, if_pos (by simpa using h)]

theorem ringWaits_nodup (e : Eng) (r : Ring) : (ringWaits e r).Nodup := by
  obtain ⟨a, b, _, _⟩ := r
  cases e <;> cases a <;> cases b <;> simp [ringWaits, ringQ]

theorem ringSigs_nodup (e : Eng) (r : Ring) : (ringSigs e r).Nodup := by
  obtain ⟨_, _, a, b⟩ := r
  cases e <;> cases a <;> cases b <;> simp [ringSigs, ringQ]

theorem ring_apart (e : Eng) (r : Ring) (q : Nat) (h : q ∈ ringWaits e r) : q ∉ ringSigs e r := by
  have h1 : q = (ringQ e).1 ∨ q = (ringQ e).2.1 := by
    unfold ringWaits at h
    split at h <;> split at h <;> simp at h <;> simp [h]
  intro h2
  have h3 : q = (ringQ e).2.2.1 ∨ q = (ringQ e).2.2.2 := by
    unfold ringSigs at h2
    split at h2 <;> split at h2 <;> simp at h2 <;> simp [h2]
  cases e <;> simp [ringQ] at h1 h3 <;> omega

theorem myCore_publish (s : State) : (publish s).myCore = s.myCore := by
  unfold publish
  split
  · rfl
  · simp only [performStores]; rw [putBytes_rest]; rfl

theorem sigs_publish (s : State) : (publish s).me.sigs = s.me.sigs := by
  unfold publish
  split
  · rfl
  · simp only [performStores]; rw [putBytes_rest]; simp [State.me, State.ctx_setCtx]

theorem ringDone_ringEffects (r : Ring) (s : State) : RingDone r s (ringEffects r s) := by
  intro hs0
  unfold ringEffects
  simp only
  split
  · rename_i h
    exact ⟨fun q => by simp [h.1, h.2], by simp [h.2, hs0]⟩
  · have hp : (if ringSigs (agEng s.cur) r = [] then s else publish s).myCore = s.myCore := by
      split
      · rfl
      · exact myCore_publish s
    have hs : (if ringSigs (agEng s.cur) r = [] then s else publish s).me.sigs = [] := by
      split
      · exact hs0
      · rw [sigs_publish]; exact hs0
    generalize (if ringSigs (agEng s.cur) r = [] then s else publish s) = s1 at *
    have hq := ring_apart (agEng s.cur) r
    rw [hp, hs]
    constructor
    · intro q
      simp only [State.setMe_myCore, State.setMyCore_myCore, List.nil_append]
      rw [toks_flush _ (ringSigs_nodup _ _), toks_pops _ (ringWaits_nodup _ _)]
      by_cases h1 : q ∈ ringWaits (agEng s.cur) r
      · simp [h1, hq q h1]
      · simp [h1]
    · simp only [State.setMe_me, List.nil_append]
      rw [left_flush _ (ringSigs_nodup _ _)]
      apply List.filter_congr
      intro q h2
      rw [toks_pops _ (ringWaits_nodup _ _), if_neg (fun h1 => hq q h1 h2)]

/-- What keeps the tokens and the signals that are left. -/
structure KeepsRing (s t : State) : Prop where
  tok : t.myCore.tok = s.myCore.tok
  sigs : t.me.sigs = s.me.sigs

theorem KeepsRing.refl (s : State) : KeepsRing s s := ⟨rfl, rfl⟩

theorem KeepsRing.trans {s t u : State} (h : KeepsRing s t) (k : KeepsRing t u) : KeepsRing s u :=
  ⟨k.tok.trans h.tok, k.sigs.trans h.sigs⟩

theorem KeepsRing.setMe {s t : State} {c : Ctx} (h : KeepsRing s t) (hc : c.sigs = t.me.sigs) : KeepsRing s (t.setMe c) :=
  ⟨h.tok, by rw [State.setMe_me, hc, h.sigs]⟩

theorem KeepsRing.setMyCore {s t : State} {c : Core} (h : KeepsRing s t) (hc : c.tok = t.myCore.tok) :
    KeepsRing s (t.setMyCore c) := ⟨by rw [State.setMyCore_myCore, hc, h.tok], h.sigs⟩

theorem keeps_checkStopped (s : State) : KeepsRing s (checkStopped s (agCore s.cur)) := by
  refine ⟨?_, by rw [me_checkStopped]⟩
  unfold checkStopped
  simp only
  split
  · rfl
  · split
    · split
      · simp only [raiseEvent, State.setDie_myCore]
        show ((s.setCore (agCore s.cur) _).core (agCore s.cur)).tok = _
        rw [State.core_setCore_self]; rfl
      · show ((s.setCore (agCore s.cur) _).core (agCore s.cur)).tok = _
        rw [State.core_setCore_self]; rfl
    · rfl

theorem keeps_jobStopped (s : State) : KeepsRing s (jobStopped s (agCore s.cur)) := by
  refine ⟨?_, by rw [me_jobStopped]⟩
  unfold jobStopped
  split
  · split
    · rfl
    · show ((s.setCore (agCore s.cur) _).core (agCore s.cur)).tok = _
      rw [State.core_setCore_self]; rfl
  · rfl

theorem keeps_addSample (s : State) (d a b c : Nat) (v : Int) : KeepsRing s (addSample s d a b c v) := by
  unfold addSample
  split
  · exact ⟨rfl, rfl⟩
  · exact .refl s

theorem keeps_safePoint (s : State) : KeepsRing s (safePoint s) := by
  unfold safePoint
  simp only
  have h1 := keeps_addSample s (coreDie (agCore s.cur)) 9 0 (agCore s.cur) ((s.cycle : Int) - s.me.safeAt)
  have hc := (frame_addSample noRing s (coreDie (agCore s.cur)) 9 0 (agCore s.cur) ((s.cycle : Int) - s.me.safeAt)).cur_eq
  generalize addSample s (coreDie (agCore s.cur)) 9 0 (agCore s.cur) ((s.cycle : Int) - s.me.safeAt) = s1 at *
  have key : ∀ (m : Bool) (c : Ctx), c.sigs = s1.me.sigs →
      KeepsRing s (if m then checkStopped (s1.setMe c) (agCore s.cur) else s1.setMe c) := by
    intro m c hs
    cases m
    · exact h1.setMe hs
    · have := keeps_checkStopped (s1.setMe c)
      simp only [State.setMe_cur, hc] at this
      exact .trans (h1.setMe hs) this
  exact key _ _ rfl

theorem keeps_spChange (s : State) (c : Ctx) : KeepsRing s (spChange c s) := by
  unfold spChange
  split
  · exact KeepsRing.setMyCore (.refl s) rfl
  · exact KeepsRing.setMyCore (.refl s) rfl
  · exact .refl s

theorem keeps_marks (s : State) : KeepsRing s (if agEng s.cur = .ex then s.setMyCore (autoMarks s.myCore) else s) := by
  split
  · exact KeepsRing.setMyCore (.refl s) rfl
  · exact .refl s

theorem keeps_ckptIf (s : State) (b : Bool) (k : Nat) : KeepsRing s (if b then takeCkpt s k else s) := by
  split
  · exact KeepsRing.setMyCore (.refl s) rfl
  · exact .refl s

theorem keeps_boundary (s : State) (again : Bool) (rec : Option Nat) : KeepsRing s (boundary again rec s) := by
  unfold boundary
  simp only
  exact KeepsRing.setMe (.trans (.trans (keeps_marks s) (keeps_ckptIf _ _ _)) (keeps_safePoint _)) rfl

theorem keeps_stop (s : State) (c : Ctx) (h : c.sigs = s.me.sigs) :
    KeepsRing s (jobStopped (checkStopped (s.setMe c) (agCore s.cur)) (agCore s.cur)) := by
  have h1 := KeepsRing.trans (KeepsRing.setMe (c := c) (.refl s) h) (keeps_checkStopped (s.setMe c))
  have h2 := keeps_jobStopped (checkStopped (s.setMe c) (agCore s.cur))
  have e : (checkStopped (s.setMe c) (agCore s.cur)).cur = s.cur := by
    unfold checkStopped
    simp only
    split
    · rfl
    · split
      · split <;> rfl
      · rfl
  rw [e] at h2
  exact h1.trans h2

theorem keeps_lateStop (s : State) : KeepsRing s (lateStop s) := by
  unfold lateStop
  split
  · exact keeps_stop s _ rfl
  · exact .refl s

theorem keepsRing_done {r : Ring} {s t u : State} (h : RingDone r s t) (k : KeepsRing t u) : RingDone r s u := by
  intro hs
  obtain ⟨h1, h2⟩ := h hs
  refine ⟨fun q => ?_, by rw [k.sigs, h2]⟩
  rw [← h1 q]
  simp only [Core.toks, k.tok]

/-- The ring effects of an instruction that issues. -/
theorem ring_retire (i : Instr) (r : Ring) (c0 : Ctx) (n : Nxt) (s : State) : RingDone r s (retire i r c0 n s) := by
  unfold retire
  simp only
  refine keepsRing_done (ringDone_ringEffects r { s with issued := true }) ?_
  generalize ringEffects r { s with issued := true } = s1
  refine .trans ?_ (keeps_lateStop _)
  have h2 : ∀ a m b j, KeepsRing s1 (spChange c0 (s1.setMe (loopNext a m n (guardNext b j
      { s1.me with wait := .none, ans := none })).1)) := fun a m b j =>
    .trans (KeepsRing.setMe (.refl s1) (by rw [loopNext_same, guardNext_same])) (keeps_spChange _ _)
  split
  · exact .trans (h2 _ _ _ _) (keeps_boundary _ _ _)
  · exact h2 _ _ _ _

theorem advances_retire (i : Instr) (r : Ring) (s e : State) (h : e.me.levels = s.me.levels) :
    Advances i s (retire i r s.me .seq e) := by
  intro hl
  rw [pc_retire]
  simp only
  rw [backEdge_none _ _ _ (by rw [h]; exact hl)]
  rfl

/-! ### `issue` -/

/-- A CSR number that the engine may name is not a privileged one (R99, R185). -/
theorem csrPriv_of_static {e : Eng} {die pc : Nat} {i : Instr} (h : staticCause e die pc i = none) : csrPriv e i = false := by
  unfold csrPriv
  split
  · refine decide_eq_false ?_
    rintro ⟨h1, -, h2⟩
    simp [staticCause, csrCode, h1, h2] at h
  · refine decide_eq_false ?_
    rintro ⟨h1, -, h2⟩
    simp [staticCause, csrCode, h1, h2] at h
  · rfl

theorem allowed_legal {i : Instr} {r : Ring} {c : Cls} {s : State} (h : Allowed i r c s) :
    illegalCode i r c (agEng s.cur) (agDie s.cur) s.me.pc (decide (0 < s.me.gRem)) = none := by
  have h0 : (decide (c = .dir) && decide (agEng s.cur ≠ .dir)) = false := by
    have := h.engine
    by_cases hc : c = .dir
    · subst hc; simpa [Cls.okFor] using this
    · simp [hc]
  have h1 : (decide (agEng s.cur = .hdl ∨ agEng s.cur = .dir) && (r.wp || r.wn || r.sp || r.sn)) = false := by
    by_cases hh : agEng s.cur = .hdl ∨ agEng s.cur = .dir
    · rw [h.ring hh]; simp [noRing]
    · simp [hh]
  have h2 : (decide (0 < s.me.gRem) && guardBanned i) = false := by
    by_cases hw : 0 < s.me.gRem
    · simp [h.window hw]
    · simp [hw]
  unfold illegalCode
  rw [if_neg (by rw [h0]; simp), csrPriv_of_static h.fixed, h.engine, h.wf, h.regs, h1, h2]
  exact h.fixed

theorem issue_ready {i : Instr} {r : Ring} {c : Cls} {s : State} (h : Ready i r c s) (body : State → Res) :
    issue i r c body s = settle i r s.me s (body s) := by
  unfold issue
  simp only [h.run, allowed_legal h.toAllowed, h.sigs, ne_eq, not_true_eq_false, false_and, if_false, if_true]
  have ht : ((ringWaits (agEng s.cur) r).any fun q => decide (s.myCore.toks q = 0)) = false := by
    simpa using h.tokens
  have hg : ¬(0 < s.me.gRem ∧ (!s.me.gOn) = true) := by
    rcases h.guard with e | e <;> simp [e]
  have hd : ¬((s.me.loads.any fun l => l.val.isNone) = true ∧ s.me.wait = .none) := by
    rintro ⟨h1, h2⟩
    obtain ⟨l, hl, hv⟩ := List.any_eq_true.mp h1
    exact h.loads h2 l hl (Option.isNone_iff_eq_none.mp hv)
  rw [ht, if_neg (by simp), if_neg hg, if_neg hd]

theorem issue_off {i : Instr} {r : Ring} {c : Cls} {s : State} (h : GuardedOff i r c s) (body : State → Res) :
    issue i r c body s = .next (retire i r s.me .seq s) := by
  unfold issue
  simp only [h.run, allowed_legal h.toAllowed, h.sigs, ne_eq, not_true_eq_false, false_and, if_false, if_true]
  have ht : ((ringWaits (agEng s.cur) r).any fun q => decide (s.myCore.toks q = 0)) = false := by
    simpa using h.tokens
  rw [ht]
  simp [h.inside, h.off]

theorem issue_illegal {i : Instr} {r : Ring} {c : Cls} {s : State} {code : Nat} (hr : s.me.run = .run)
    (h : illegalCode i r c (agEng s.cur) (agDie s.cur) s.me.pc (decide (0 < s.me.gRem)) = some code) (body : State → Res) :
    issue i r c body s = .next (takeTrap s s.cur false code 0 (word1 i)) := by
  unfold issue
  simp [hr, h]

theorem settle_ok (i : Instr) (r : Ring) (c : Ctx) (s0 e : State) :
    settle i r c s0 (.ok e) = .next (retire i r c .seq e) := rfl

theorem completes_of {i : Instr} {r : Ring} {c : Cls} {s e : State} {body : State → Res} (h : Ready i r c s)
    (hx : exec i s = issue i r c body s) (hb : body s = .ok e) (hl : e.me.levels = s.me.levels) : Completes i r s e :=
  ⟨_, by rw [hx, issue_ready h, hb, settle_ok], ⟨frame_retire _ _ _ _ _, ring_retire _ _ _ _ _⟩, advances_retire _ _ _ _ hl⟩

theorem traps_of {i : Instr} {r : Ring} {c : Cls} {s : State} {body : State → Res} {code m : Nat} {v : DWord}
    (h : Ready i r c s) (hx : exec i s = issue i r c body s) (hb : body s = .trap code v m) : Traps i s code v m := by
  rw [Traps, hx, issue_ready h, hb]; rfl

theorem transfers_of {i : Instr} {r : Ring} {c : Cls} {s e : State} {body : State → Res} {t : Nat} (h : Ready i r c s)
    (hx : exec i s = issue i r c body s) (hb : body s = .jump e t) (ht : t ≤ 16383) : Transfers i r s e t := by
  refine ⟨retire i r s.me (.jump t) e, ?_, ⟨frame_retire _ _ _ _ _, ring_retire _ _ _ _ _⟩, pc_retire _ _ _ _ _⟩
  rw [hx, issue_ready h, hb]
  simp only [settle]
  rw [if_neg (by omega)]
  simp

@[simp] theorem levels_setR (s : State) (n : Nat) (v : DWord) : (setR s n v).me.levels = s.me.levels := by
  simp only [setR, State.setMe_me, Ctx.setReg]
  split <;> rfl

@[simp] theorem levels_setP (s : State) (n : Nat) (b : Bool) : (setP s n b).me.levels = s.me.levels := by
  simp only [setP, State.setMe_me, Ctx.setPred]
  split <;> rfl

theorem cur_retire (i : Instr) (r : Ring) (c0 : Ctx) (n : Nxt) (s : State) : (retire i r c0 n s).cur = s.cur :=
  (frame_retire i r c0 n s).cur_eq

end Sys2Proof
end

