-- ==== Sys2Proof/Laws/Exec.lean ====
section
/-! SUPPORT. Every instruction that a context can issue goes through `issue`, with its RING nibble and its class, around some
effect. -/

namespace Sys2Proof

open Machine

/-- The meaning of an instruction is `issue` around an effect. -/
def Issues (i : Instr) (r : Ring) (c : Cls) : Prop := ∀ s, ∃ body, exec i s = issue i r c body s

theorem issues_add r rd rs1 rs2 : Issues (.add r rd rs1 rs2) r .any := by
  intro s; show ∃ body, execAdd r rd rs1 rs2 s = _; unfold execAdd alu2; exact ⟨_, rfl⟩
theorem issues_sub r rd rs1 rs2 : Issues (.sub r rd rs1 rs2) r .any := by
  intro s; show ∃ body, execSub r rd rs1 rs2 s = _; unfold execSub alu2; exact ⟨_, rfl⟩
theorem issues_mul r rd rs1 rs2 : Issues (.mul r rd rs1 rs2) r .any := by
  intro s; show ∃ body, execMul r rd rs1 rs2 s = _; unfold execMul alu2; exact ⟨_, rfl⟩
theorem issues_mulh r rd rs1 rs2 : Issues (.mulh r rd rs1 rs2) r .any := by
  intro s; show ∃ body, execMulh r rd rs1 rs2 s = _; unfold execMulh alu2; exact ⟨_, rfl⟩
theorem issues_mulhu r rd rs1 rs2 : Issues (.mulhu r rd rs1 rs2) r .any := by
  intro s; show ∃ body, execMulhu r rd rs1 rs2 s = _; unfold execMulhu alu2; exact ⟨_, rfl⟩
theorem issues_div r rd rs1 rs2 : Issues (.div r rd rs1 rs2) r .any := by
  intro s; show ∃ body, execDiv r rd rs1 rs2 s = _; unfold execDiv alu2; exact ⟨_, rfl⟩
theorem issues_divu r rd rs1 rs2 : Issues (.divu r rd rs1 rs2) r .any := by
  intro s; show ∃ body, execDivu r rd rs1 rs2 s = _; unfold execDivu alu2; exact ⟨_, rfl⟩
theorem issues_rem r rd rs1 rs2 : Issues (.rem r rd rs1 rs2) r .any := by
  intro s; show ∃ body, execRem r rd rs1 rs2 s = _; unfold execRem alu2; exact ⟨_, rfl⟩
theorem issues_remu r rd rs1 rs2 : Issues (.remu r rd rs1 rs2) r .any := by
  intro s; show ∃ body, execRemu r rd rs1 rs2 s = _; unfold execRemu alu2; exact ⟨_, rfl⟩
theorem issues_min r rd rs1 rs2 : Issues (.min r rd rs1 rs2) r .any := by
  intro s; show ∃ body, execMin r rd rs1 rs2 s = _; unfold execMin alu2; exact ⟨_, rfl⟩
theorem issues_minu r rd rs1 rs2 : Issues (.minu r rd rs1 rs2) r .any := by
  intro s; show ∃ body, execMinu r rd rs1 rs2 s = _; unfold execMinu alu2; exact ⟨_, rfl⟩
theorem issues_max r rd rs1 rs2 : Issues (.max r rd rs1 rs2) r .any := by
  intro s; show ∃ body, execMax r rd rs1 rs2 s = _; unfold execMax alu2; exact ⟨_, rfl⟩
theorem issues_maxu r rd rs1 rs2 : Issues (.maxu r rd rs1 rs2) r .any := by
  intro s; show ∃ body, execMaxu r rd rs1 rs2 s = _; unfold execMaxu alu2; exact ⟨_, rfl⟩
theorem issues_shl r rd rs1 rs2 : Issues (.shl r rd rs1 rs2) r .any := by
  intro s; show ∃ body, execShl r rd rs1 rs2 s = _; unfold execShl alu2; exact ⟨_, rfl⟩
theorem issues_shr r rd rs1 rs2 : Issues (.shr r rd rs1 rs2) r .any := by
  intro s; show ∃ body, execShr r rd rs1 rs2 s = _; unfold execShr alu2; exact ⟨_, rfl⟩
theorem issues_sar r rd rs1 rs2 : Issues (.sar r rd rs1 rs2) r .any := by
  intro s; show ∃ body, execSar r rd rs1 rs2 s = _; unfold execSar alu2; exact ⟨_, rfl⟩
theorem issues_and r rd rs1 rs2 : Issues (.and r rd rs1 rs2) r .any := by
  intro s; show ∃ body, execAnd r rd rs1 rs2 s = _; unfold execAnd alu2; exact ⟨_, rfl⟩
theorem issues_or r rd rs1 rs2 : Issues (.or r rd rs1 rs2) r .any := by
  intro s; show ∃ body, execOr r rd rs1 rs2 s = _; unfold execOr alu2; exact ⟨_, rfl⟩
theorem issues_xor r rd rs1 rs2 : Issues (.xor r rd rs1 rs2) r .any := by
  intro s; show ∃ body, execXor r rd rs1 rs2 s = _; unfold execXor alu2; exact ⟨_, rfl⟩
theorem issues_clz r rd rs1 : Issues (.clz r rd rs1) r .any := by
  intro s; show ∃ body, execClz r rd rs1 s = _; unfold execClz alu1; exact ⟨_, rfl⟩
theorem issues_popc r rd rs1 : Issues (.popc r rd rs1) r .any := by
  intro s; show ∃ body, execPopc r rd rs1 s = _; unfold execPopc alu1; exact ⟨_, rfl⟩
theorem issues_addi r rd rs1 imm : Issues (.addi r rd rs1 imm) r .any := by
  intro s; show ∃ body, execAddi r rd rs1 imm s = _; unfold execAddi alu1; exact ⟨_, rfl⟩
theorem issues_andi r rd rs1 imm : Issues (.andi r rd rs1 imm) r .any := by
  intro s; show ∃ body, execAndi r rd rs1 imm s = _; unfold execAndi alu1; exact ⟨_, rfl⟩
theorem issues_ori r rd rs1 imm : Issues (.ori r rd rs1 imm) r .any := by
  intro s; show ∃ body, execOri r rd rs1 imm s = _; unfold execOri alu1; exact ⟨_, rfl⟩
theorem issues_xori r rd rs1 imm : Issues (.xori r rd rs1 imm) r .any := by
  intro s; show ∃ body, execXori r rd rs1 imm s = _; unfold execXori alu1; exact ⟨_, rfl⟩
theorem issues_shli r rd rs1 sh : Issues (.shli r rd rs1 sh) r .any := by
  intro s; show ∃ body, execShli r rd rs1 sh s = _; unfold execShli alu1; exact ⟨_, rfl⟩
theorem issues_shri r rd rs1 sh : Issues (.shri r rd rs1 sh) r .any := by
  intro s; show ∃ body, execShri r rd rs1 sh s = _; unfold execShri alu1; exact ⟨_, rfl⟩
theorem issues_sari r rd rs1 sh : Issues (.sari r rd rs1 sh) r .any := by
  intro s; show ∃ body, execSari r rd rs1 sh s = _; unfold execSari alu1; exact ⟨_, rfl⟩
theorem issues_li r rd imm : Issues (.li r rd imm) r .any := by
  intro s; show ∃ body, execLi r rd imm s = _; unfold execLi; exact ⟨_, rfl⟩
theorem issues_lui r rd imm : Issues (.lui r rd imm) r .any := by
  intro s; show ∃ body, execLui r rd imm s = _; unfold execLui alu1; exact ⟨_, rfl⟩
theorem issues_cmp r qd rs1 rs2 cond : Issues (.cmp r qd rs1 rs2 cond) r .any := by
  intro s; show ∃ body, execCmp r qd rs1 rs2 cond s = _; unfold execCmp; exact ⟨_, rfl⟩
theorem issues_cmpi r qd rs1 cond imm : Issues (.cmpi r qd rs1 cond imm) r .any := by
  intro s; show ∃ body, execCmpi r qd rs1 cond imm s = _; unfold execCmpi; exact ⟨_, rfl⟩
theorem issues_pand r qd qa qb : Issues (.pand r qd qa qb) r .any := by
  intro s; show ∃ body, execPand r qd qa qb s = _; unfold execPand plog; exact ⟨_, rfl⟩
theorem issues_por r qd qa qb : Issues (.por r qd qa qb) r .any := by
  intro s; show ∃ body, execPor r qd qa qb s = _; unfold execPor plog; exact ⟨_, rfl⟩
theorem issues_pxor r qd qa qb : Issues (.pxor r qd qa qb) r .any := by
  intro s; show ∃ body, execPxor r qd qa qb s = _; unfold execPxor plog; exact ⟨_, rfl⟩
theorem issues_pnot r qd qa : Issues (.pnot r qd qa) r .any := by
  intro s; show ∃ body, execPnot r qd qa s = _; unfold execPnot plog; exact ⟨_, rfl⟩
theorem issues_sel r rd rs1 rs2 q : Issues (.sel r rd rs1 rs2 q) r .any := by
  intro s; show ∃ body, execSel r rd rs1 rs2 q s = _; unfold execSel; exact ⟨_, rfl⟩
theorem issues_csrr r rd csr : Issues (.csrr r rd csr) r .any := by
  intro s; show ∃ body, execCsrr r rd csr s = _; unfold execCsrr; exact ⟨_, rfl⟩
theorem issues_csrw r rs csr : Issues (.csrw r rs csr) r .any := by
  intro s; show ∃ body, execCsrw r rs csr s = _; unfold execCsrw; exact ⟨_, rfl⟩
theorem issues_b r q n off : Issues (.b r q n off) r .any := by
  intro s; show ∃ body, execB r q n off s = _; unfold execB branch; exact ⟨_, rfl⟩
theorem issues_j r target : Issues (.j r target) r .any := by
  intro s; show ∃ body, execJ r target s = _; unfold execJ; exact ⟨_, rfl⟩
theorem issues_jal r rd target : Issues (.jal r rd target) r .any := by
  intro s; show ∃ body, execJal r rd target s = _; unfold execJal; exact ⟨_, rfl⟩
theorem issues_jr r rs : Issues (.jr r rs) r .any := by
  intro s; show ∃ body, execJr r rs s = _; unfold execJr; exact ⟨_, rfl⟩
theorem issues_guard r q n cnt : Issues (.guard r q n cnt) r .any := by
  intro s; show ∃ body, execGuard r q n cnt s = _; unfold execGuard; exact ⟨_, rfl⟩
theorem issues_loop r l rs tgt : Issues (.loop r l rs tgt) r .any := by
  intro s; show ∃ body, execLoop r l rs tgt s = _; unfold execLoop; exact ⟨_, rfl⟩
theorem issues_loopsp r rec : Issues (.loopsp r rec) r .ring := by
  intro s; show ∃ body, execLoopsp r rec s = _; unfold execLoopsp; exact ⟨_, rfl⟩
theorem issues_safe r : Issues (.safe r) r .ring := by
  intro s; show ∃ body, execSafe r s = _; unfold execSafe; exact ⟨_, rfl⟩
theorem issues_rdv r : Issues (.rdv r) r .ring := by
  intro s; show ∃ body, execRdv r s = _; unfold execRdv; exact ⟨_, rfl⟩
theorem issues_spawn r rs1 rs2 : Issues (.spawn r rs1 rs2) r .ring := by
  intro s; show ∃ body, execSpawn r rs1 rs2 s = _; unfold execSpawn; exact ⟨_, rfl⟩
theorem issues_trap r rs : Issues (.trap r rs) r .any := by
  intro s; show ∃ body, execTrap r rs s = _; unfold execTrap; exact ⟨_, rfl⟩
theorem issues_hret r : Issues (.hret r) r .hdl := by
  intro s; show ∃ body, execHret r s = _; unfold execHret; exact ⟨_, rfl⟩
theorem issues_ld r rd rb sz pi sx off : Issues (.ld r rd rb sz pi sx off) r .any := by
  intro s; show ∃ body, execLd r rd rb sz pi sx off s = _; unfold execLd; exact ⟨_, rfl⟩
theorem issues_st r rs rb sz pi off : Issues (.st r rs rb sz pi off) r .any := by
  intro s; show ∃ body, execSt r rs rb sz pi off s = _; unfold execSt; exact ⟨_, rfl⟩
theorem issues_ldp r rd rb sz pi off : Issues (.ldp r rd rb sz pi off) r .noDir := by
  intro s; show ∃ body, execLdp r rd rb sz pi off s = _; unfold execLdp; exact ⟨_, rfl⟩
theorem issues_ldpF r rd rb sz off : Issues (.ldpF r rd rb sz off) r .noDir := by
  intro s; show ∃ body, execLdpF r rd rb sz off s = _; unfold execLdpF; exact ⟨_, rfl⟩
theorem issues_stp r rs rb sz pi off : Issues (.stp r rs rb sz pi off) r .noDir := by
  intro s; show ∃ body, execStp r rs rb sz pi off s = _; unfold execStp; exact ⟨_, rfl⟩
theorem issues_stpE r rs rb sz off : Issues (.stpE r rs rb sz off) r .noDir := by
  intro s; show ∃ body, execStpE r rs rb sz off s = _; unfold execStpE; exact ⟨_, rfl⟩
theorem issues_lda r rd rb ord sc d8 : Issues (.lda r rd rb ord sc d8) r .any := by
  intro s; show ∃ body, execLda r rd rb ord sc d8 s = _; unfold execLda; exact ⟨_, rfl⟩
theorem issues_stl r rb rs ord sc d8 : Issues (.stl r rb rs ord sc d8) r .any := by
  intro s; show ∃ body, execStl r rb rs ord sc d8 s = _; unfold execStl; exact ⟨_, rfl⟩
theorem issues_amoAdd r rd rb rs ord sc d8 : Issues (.amoAdd r rd rb rs ord sc d8) r .any := by
  intro s; show ∃ body, execAmoAdd r rd rb rs ord sc d8 s = _; unfold execAmoAdd amo; exact ⟨_, rfl⟩
theorem issues_amoAnd r rd rb rs ord sc d8 : Issues (.amoAnd r rd rb rs ord sc d8) r .any := by
  intro s; show ∃ body, execAmoAnd r rd rb rs ord sc d8 s = _; unfold execAmoAnd amo; exact ⟨_, rfl⟩
theorem issues_amoOr r rd rb rs ord sc d8 : Issues (.amoOr r rd rb rs ord sc d8) r .any := by
  intro s; show ∃ body, execAmoOr r rd rb rs ord sc d8 s = _; unfold execAmoOr amo; exact ⟨_, rfl⟩
theorem issues_amoXor r rd rb rs ord sc d8 : Issues (.amoXor r rd rb rs ord sc d8) r .any := by
  intro s; show ∃ body, execAmoXor r rd rb rs ord sc d8 s = _; unfold execAmoXor amo; exact ⟨_, rfl⟩
theorem issues_amoMin r rd rb rs ord sc d8 : Issues (.amoMin r rd rb rs ord sc d8) r .any := by
  intro s; show ∃ body, execAmoMin r rd rb rs ord sc d8 s = _; unfold execAmoMin amo; exact ⟨_, rfl⟩
theorem issues_amoMax r rd rb rs ord sc d8 : Issues (.amoMax r rd rb rs ord sc d8) r .any := by
  intro s; show ∃ body, execAmoMax r rd rb rs ord sc d8 s = _; unfold execAmoMax amo; exact ⟨_, rfl⟩
theorem issues_amoMinU r rd rb rs ord sc d8 : Issues (.amoMinU r rd rb rs ord sc d8) r .any := by
  intro s; show ∃ body, execAmoMinU r rd rb rs ord sc d8 s = _; unfold execAmoMinU amo; exact ⟨_, rfl⟩
theorem issues_amoMaxU r rd rb rs ord sc d8 : Issues (.amoMaxU r rd rb rs ord sc d8) r .any := by
  intro s; show ∃ body, execAmoMaxU r rd rb rs ord sc d8 s = _; unfold execAmoMaxU amo; exact ⟨_, rfl⟩
theorem issues_amoSwap r rd rb rs ord sc d8 : Issues (.amoSwap r rd rb rs ord sc d8) r .any := by
  intro s; show ∃ body, execAmoSwap r rd rb rs ord sc d8 s = _; unfold execAmoSwap amo; exact ⟨_, rfl⟩
theorem issues_cas r rd rb rs ord sc d8 : Issues (.cas r rd rb rs ord sc d8) r .any := by
  intro s; show ∃ body, execCas r rd rb rs ord sc d8 s = _; unfold execCas; exact ⟨_, rfl⟩
theorem issues_fence r ord sc : Issues (.fence r ord sc) r .any := by
  intro s; show ∃ body, execFence r ord sc s = _; unfold execFence; exact ⟨_, rfl⟩
theorem issues_phase r sc : Issues (.phase r sc) r .any := by
  intro s; show ∃ body, execPhase r sc s = _; unfold execPhase; exact ⟨_, rfl⟩
theorem issues_tkw r succ cnt : Issues (.tkw r succ cnt) r .ring := by
  intro s; show ∃ body, execTkw r succ cnt s = _; unfold execTkw; exact ⟨_, rfl⟩
theorem issues_tks r succ cnt : Issues (.tks r succ cnt) r .ring := by
  intro s; show ∃ body, execTks r succ cnt s = _; unfold execTks; exact ⟨_, rfl⟩
theorem issues_stw r rd : Issues (.stw r rd) r .ring := by
  intro s; show ∃ body, execStw r rd s = _; unfold execStw; exact ⟨_, rfl⟩
theorem issues_poprpl r rd any tag : Issues (.poprpl r rd any tag) r .noDir := by
  intro s; show ∃ body, execPoprpl r rd any tag s = _; unfold execPoprpl; exact ⟨_, rfl⟩
theorem issues_sqpush r rs cnt : Issues (.sqpush r rs cnt) r .noDir := by
  intro s; show ∃ body, execSqpush r rs cnt s = _; unfold execSqpush; exact ⟨_, rfl⟩
theorem issues_sqbind r ub port : Issues (.sqbind r ub port) r .noDir := by
  intro s; show ∃ body, execSqbind r ub port s = _; unfold execSqbind; exact ⟨_, rfl⟩
theorem issues_msend r rt ro lines he queue hpc : Issues (.msend r rt ro lines he queue hpc) r .noDir := by
  intro s; show ∃ body, execMsend r rt ro lines he queue hpc s = _; unfold execMsend; exact ⟨_, rfl⟩
theorem issues_sopen r port rs1 rs2 src dst mfmt rm sm qn : Issues (.sopen r port rs1 rs2 src dst mfmt rm sm qn) r .noDir := by
  intro s; show ∃ body, execSopen r port rs1 rs2 src dst mfmt rm sm qn s = _; unfold execSopen; exact ⟨_, rfl⟩
theorem issues_slev r port rs1 rs2 level imm ext : Issues (.slev r port rs1 rs2 level imm ext) r .noDir := by
  intro s; show ∃ body, execSlev r port rs1 rs2 level imm ext s = _; unfold execSlev; exact ⟨_, rfl⟩
theorem issues_sind r port iport rs2 : Issues (.sind r port iport rs2) r .noDir := by
  intro s; show ∃ body, execSind r port iport rs2 s = _; unfold execSind; exact ⟨_, rfl⟩
theorem issues_ssrc r port rs1 : Issues (.ssrc r port rs1) r .noDir := by
  intro s; show ∃ body, execSsrc r port rs1 s = _; unfold execSsrc; exact ⟨_, rfl⟩
theorem issues_sremote r port rs1 rs2 he queue hpc mc ch : Issues (.sremote r port rs1 rs2 he queue hpc mc ch) r .noDir := by
  intro s; show ∃ body, execSremote r port rs1 rs2 he queue hpc mc ch s = _; unfold execSremote; exact ⟨_, rfl⟩
theorem issues_smerge r ok ka kb oa uni strict ob eoa eob eok tag : Issues (.smerge r ok ka kb oa uni strict ob eoa eob eok tag) r .noDir := by
  intro s; show ∃ body, execSmerge r ok ka kb oa uni strict ob eoa eob eok tag s = _; unfold execSmerge; exact ⟨_, rfl⟩
theorem issues_sbfmt r rs code : Issues (.sbfmt r rs code) r .noDir := by
  intro s; show ∃ body, execSbfmt r rs code s = _; unfold execSbfmt; exact ⟨_, rfl⟩
theorem issues_sgo r port : Issues (.sgo r port) r .noDir := by
  intro s; show ∃ body, execSgo r port s = _; unfold execSgo; exact ⟨_, rfl⟩
theorem issues_sfork r port fork dst : Issues (.sfork r port fork dst) r .noDir := by
  intro s; show ∃ body, execSfork r port fork dst s = _; unfold execSfork; exact ⟨_, rfl⟩
theorem issues_smark r port clr auto m : Issues (.smark r port clr auto m) r .noDir := by
  intro s; show ∃ body, execSmark r port clr auto m s = _; unfold execSmark; exact ⟨_, rfl⟩
theorem issues_srew r port m : Issues (.srew r port m) r .noDir := by
  intro s; show ∃ body, execSrew r port m s = _; unfold execSrew; exact ⟨_, rfl⟩
theorem issues_ssave r port rs keep : Issues (.ssave r port rs keep) r .noDir := by
  intro s; show ∃ body, execSsave r port rs keep s = _; unfold execSsave; exact ⟨_, rfl⟩
theorem issues_srest r port rs : Issues (.srest r port rs) r .noDir := by
  intro s; show ∃ body, execSrest r port rs s = _; unfold execSrest; exact ⟨_, rfl⟩
theorem issues_sclose r port : Issues (.sclose r port) r .noDir := by
  intro s; show ∃ body, execSclose r port s = _; unfold execSclose; exact ⟨_, rfl⟩
theorem issues_sstat r port rd : Issues (.sstat r port rd) r .noDir := by
  intro s; show ∃ body, execSstat r port rd s = _; unfold execSstat; exact ⟨_, rfl⟩
theorem issues_sflush r port : Issues (.sflush r port) r .noDir := by
  intro s; show ∃ body, execSflush r port s = _; unfold execSflush; exact ⟨_, rfl⟩
theorem issues_gtbind r h rs1 : Issues (.gtbind r h rs1) r .noDir := by
  intro s; show ∃ body, execGtbind r h rs1 s = _; unfold execGtbind; exact ⟨_, rfl⟩
theorem issues_gtswap r h rs1 rs2 : Issues (.gtswap r h rs1 rs2) r .noDir := by
  intro s; show ∃ body, execGtswap r h rs1 rs2 s = _; unfold execGtswap; exact ⟨_, rfl⟩
theorem issues_gsync r h rs2 : Issues (.gsync r h rs2) r .noDir := by
  intro s; show ∃ body, execGsync r h rs2 s = _; unfold execGsync; exact ⟨_, rfl⟩
theorem issues_gath r ri rn rf h dk port rp fz tag : Issues (.gath r ri rn rf h dk port rp fz tag) r .noDir := by
  intro s; show ∃ body, execGath r ri rn rf h dk port rp fz tag s = _; unfold execGath; exact ⟨_, rfl⟩
theorem issues_gathp r ri rn rf h mean port rb fz tag : Issues (.gathp r ri rn rf h mean port rb fz tag) r .noDir := by
  intro s; show ∃ body, execGathp r ri rn rf h mean port rb fz tag s = _; unfold execGathp; exact ⟨_, rfl⟩
theorem issues_scat r ri rn rf h rs tag : Issues (.scat r ri rn rf h rs tag) r .noDir := by
  intro s; show ∃ body, execScat r ri rn rf h rs tag s = _; unfold execScat scatter; exact ⟨_, rfl⟩
theorem issues_scata r ri rn rf h rs tag : Issues (.scata r ri rn rf h rs tag) r .noDir := by
  intro s; show ∃ body, execScata r ri rn rf h rs tag s = _; unfold execScata scatter; exact ⟨_, rfl⟩
theorem issues_bara r ra num : Issues (.bara r ra num) r .sync := by
  intro s; show ∃ body, execBara r ra num s = _; unfold execBara; exact ⟨_, rfl⟩
theorem issues_barw r ra num rb : Issues (.barw r ra num rb) r .sync := by
  intro s; show ∃ body, execBarw r ra num rb s = _; unfold execBarw; exact ⟨_, rfl⟩
theorem issues_barwa r ra base rb : Issues (.barwa r ra base rb) r .sync := by
  intro s; show ∃ body, execBarwa r ra base rb s = _; unfold execBarwa; exact ⟨_, rfl⟩
theorem issues_barinit r ra num : Issues (.barinit r ra num) r .sync := by
  intro s; show ∃ body, execBarinit r ra num s = _; unfold execBarinit; exact ⟨_, rfl⟩
theorem issues_barinitFree r num : Issues (.barinitFree r num) r .sync := by
  intro s; show ∃ body, execBarinitFree r num s = _; unfold execBarinitFree; exact ⟨_, rfl⟩
theorem issues_sems r ra v : Issues (.sems r ra v) r .sync := by
  intro s; show ∃ body, execSems r ra v s = _; unfold execSems; exact ⟨_, rfl⟩
theorem issues_semw r ra v : Issues (.semw r ra v) r .sync := by
  intro s; show ∃ body, execSemw r ra v s = _; unfold execSemw; exact ⟨_, rfl⟩
theorem issues_semwt r ra v rb : Issues (.semwt r ra v rb) r .sync := by
  intro s; show ∃ body, execSemwt r ra v rb s = _; unfold execSemwt; exact ⟨_, rfl⟩
theorem issues_asidset rd rs1 rs2 : Issues (.asidset rd rs1 rs2) noRing .dir := by
  intro s; show ∃ body, execAsidset rd rs1 rs2 s = _; unfold execAsidset; exact ⟨_, rfl⟩
theorem issues_ptbase rd rs1 rs2 : Issues (.ptbase rd rs1 rs2) noRing .dir := by
  intro s; show ∃ body, execPtbase rd rs1 rs2 s = _; unfold execPtbase; exact ⟨_, rfl⟩
theorem issues_tlbinv rd rs1 rs2 : Issues (.tlbinv rd rs1 rs2) noRing .dir := by
  intro s; show ∃ body, execTlbinv rd rs1 rs2 s = _; unfold execTlbinv; exact ⟨_, rfl⟩
theorem issues_killctx rd rs1 : Issues (.killctx rd rs1) noRing .dir := by
  intro s; show ∃ body, execKillctx rd rs1 s = _; unfold execKillctx; exact ⟨_, rfl⟩
theorem issues_preempt rd rs1 : Issues (.preempt rd rs1) noRing .dir := by
  intro s; show ∃ body, execPreempt rd rs1 s = _; unfold execPreempt; exact ⟨_, rfl⟩
theorem issues_ctxsave rd rs1 rs2 : Issues (.ctxsave rd rs1 rs2) noRing .dir := by
  intro s; show ∃ body, execCtxsave rd rs1 rs2 s = _; unfold execCtxsave; exact ⟨_, rfl⟩
theorem issues_ctxload rd rs1 rs2 : Issues (.ctxload rd rs1 rs2) noRing .dir := by
  intro s; show ∃ body, execCtxload rd rs1 rs2 s = _; unfold execCtxload; exact ⟨_, rfl⟩
theorem issues_drain rd rs1 rs2 : Issues (.drain rd rs1 rs2) noRing .dir := by
  intro s; show ∃ body, execDrain rd rs1 rs2 s = _; unfold execDrain; exact ⟨_, rfl⟩
theorem issues_semmap rd rs1 rs2 : Issues (.semmap rd rs1 rs2) noRing .dir := by
  intro s; show ∃ body, execSemmap rd rs1 rs2 s = _; unfold execSemmap; exact ⟨_, rfl⟩
theorem issues_lqpush rd rs1 : Issues (.lqpush rd rs1) noRing .dir := by
  intro s; show ∃ body, execLqpush rd rs1 s = _; unfold execLqpush; exact ⟨_, rfl⟩
theorem issues_wake rd rs1 rs2 : Issues (.wake rd rs1 rs2) noRing .dir := by
  intro s; show ∃ body, execWake rd rs1 rs2 s = _; unfold execWake; exact ⟨_, rfl⟩
theorem issues_timerd rd rs1 : Issues (.timerd rd rs1) noRing .dir := by
  intro s; show ∃ body, execTimerd rd rs1 s = _; unfold execTimerd; exact ⟨_, rfl⟩
theorem issues_adjourn rd rs1 : Issues (.adjourn rd rs1) noRing .dir := by
  intro s; show ∃ body, execAdjourn rd rs1 s = _; unfold execAdjourn; exact ⟨_, rfl⟩
theorem issues_score rd rs1 rs2 : Issues (.score rd rs1 rs2) noRing .dir := by
  intro s; show ∃ body, execScore rd rs1 rs2 s = _; unfold execScore; exact ⟨_, rfl⟩
theorem issues_monsnap rd rs1 rs2 : Issues (.monsnap rd rs1 rs2) noRing .dir := by
  intro s; show ∃ body, execMonsnap rd rs1 rs2 s = _; unfold execMonsnap; exact ⟨_, rfl⟩
theorem issues_vadd r d a b t : Issues (.vadd r d a b t) r .ex := by
  intro s; show ∃ body, execVadd r d a b t s = _; unfold execVadd elementwise vexec; exact ⟨_, rfl⟩
theorem issues_vsub r d a b t : Issues (.vsub r d a b t) r .ex := by
  intro s; show ∃ body, execVsub r d a b t s = _; unfold execVsub elementwise vexec; exact ⟨_, rfl⟩
theorem issues_vmul r d a b t : Issues (.vmul r d a b t) r .ex := by
  intro s; show ∃ body, execVmul r d a b t s = _; unfold execVmul elementwise vexec; exact ⟨_, rfl⟩
theorem issues_vmin r d a b t : Issues (.vmin r d a b t) r .ex := by
  intro s; show ∃ body, execVmin r d a b t s = _; unfold execVmin elementwise vexec; exact ⟨_, rfl⟩
theorem issues_vmax r d a b t : Issues (.vmax r d a b t) r .ex := by
  intro s; show ∃ body, execVmax r d a b t s = _; unfold execVmax elementwise vexec; exact ⟨_, rfl⟩
theorem issues_vabd r d a b t : Issues (.vabd r d a b t) r .ex := by
  intro s; show ∃ body, execVabd r d a b t s = _; unfold execVabd elementwise vexec; exact ⟨_, rfl⟩
theorem issues_vadds r d a b t : Issues (.vadds r d a b t) r .ex := by
  intro s; show ∃ body, execVadds r d a b t s = _; unfold execVadds elementwise vexec; exact ⟨_, rfl⟩
theorem issues_vsubs r d a b t : Issues (.vsubs r d a b t) r .ex := by
  intro s; show ∃ body, execVsubs r d a b t s = _; unfold execVsubs elementwise vexec; exact ⟨_, rfl⟩
theorem issues_vmulh r d a b t : Issues (.vmulh r d a b t) r .ex := by
  intro s; show ∃ body, execVmulh r d a b t s = _; unfold execVmulh elementwise vexec; exact ⟨_, rfl⟩
theorem issues_vdiv r d a b t : Issues (.vdiv r d a b t) r .ex := by
  intro s; show ∃ body, execVdiv r d a b t s = _; unfold execVdiv elementwise vexec; exact ⟨_, rfl⟩
theorem issues_vand r d a b t : Issues (.vand r d a b t) r .ex := by
  intro s; show ∃ body, execVand r d a b t s = _; unfold execVand bitwise vexec; exact ⟨_, rfl⟩
theorem issues_vor r d a b t : Issues (.vor r d a b t) r .ex := by
  intro s; show ∃ body, execVor r d a b t s = _; unfold execVor bitwise vexec; exact ⟨_, rfl⟩
theorem issues_vxor r d a b t : Issues (.vxor r d a b t) r .ex := by
  intro s; show ∃ body, execVxor r d a b t s = _; unfold execVxor bitwise vexec; exact ⟨_, rfl⟩
theorem issues_vshl r d a b t : Issues (.vshl r d a b t) r .ex := by
  intro s; show ∃ body, execVshl r d a b t s = _; unfold execVshl bitwise vexec; exact ⟨_, rfl⟩
theorem issues_vshr r d a b t : Issues (.vshr r d a b t) r .ex := by
  intro s; show ∃ body, execVshr r d a b t s = _; unfold execVshr bitwise vexec; exact ⟨_, rfl⟩
theorem issues_vsar r d a b t : Issues (.vsar r d a b t) r .ex := by
  intro s; show ∃ body, execVsar r d a b t s = _; unfold execVsar bitwise vexec; exact ⟨_, rfl⟩
theorem issues_vfma r d a b t c mk rmo : Issues (.vfma r d a b t c mk rmo) r .ex := by
  intro s; show ∃ body, execVfma r d a b t c mk rmo s = _; unfold execVfma elementwise vexec; exact ⟨_, rfl⟩
theorem issues_vfms r d a b t c mk rmo : Issues (.vfms r d a b t c mk rmo) r .ex := by
  intro s; show ∃ body, execVfms r d a b t c mk rmo s = _; unfold execVfms elementwise vexec; exact ⟨_, rfl⟩
theorem issues_vabs r d a t : Issues (.vabs r d a t) r .ex := by
  intro s; show ∃ body, execVabs r d a t s = _; unfold execVabs bitwise vexec; exact ⟨_, rfl⟩
theorem issues_vneg r d a t : Issues (.vneg r d a t) r .ex := by
  intro s; show ∃ body, execVneg r d a t s = _; unfold execVneg bitwise vexec; exact ⟨_, rfl⟩
theorem issues_vnot r d a t : Issues (.vnot r d a t) r .ex := by
  intro s; show ∃ body, execVnot r d a t s = _; unfold execVnot bitwise vexec; exact ⟨_, rfl⟩
theorem issues_vsqrt r d a t : Issues (.vsqrt r d a t) r .ex := by
  intro s; show ∃ body, execVsqrt r d a t s = _; unfold execVsqrt special vexec; exact ⟨_, rfl⟩
theorem issues_vrcp r d a t : Issues (.vrcp r d a t) r .ex := by
  intro s; show ∃ body, execVrcp r d a t s = _; unfold execVrcp special vexec; exact ⟨_, rfl⟩
theorem issues_vrsq r d a t : Issues (.vrsq r d a t) r .ex := by
  intro s; show ∃ body, execVrsq r d a t s = _; unfold execVrsq special vexec; exact ⟨_, rfl⟩
theorem issues_vexp2 r d a t : Issues (.vexp2 r d a t) r .ex := by
  intro s; show ∃ body, execVexp2 r d a t s = _; unfold execVexp2 special vexec; exact ⟨_, rfl⟩
theorem issues_vlog2 r d a t : Issues (.vlog2 r d a t) r .ex := by
  intro s; show ∃ body, execVlog2 r d a t s = _; unfold execVlog2 special vexec; exact ⟨_, rfl⟩
theorem issues_vtanh r d a t : Issues (.vtanh r d a t) r .ex := by
  intro s; show ∃ body, execVtanh r d a t s = _; unfold execVtanh special vexec; exact ⟨_, rfl⟩
theorem issues_vsigm r d a t : Issues (.vsigm r d a t) r .ex := by
  intro s; show ∃ body, execVsigm r d a t s = _; unfold execVsigm special vexec; exact ⟨_, rfl⟩
theorem issues_vmov r d a t : Issues (.vmov r d a t) r .ex := by
  intro s; show ∃ body, execVmov r d a t s = _; unfold execVmov bitwise vexec; exact ⟨_, rfl⟩
theorem issues_vcmp r a b t kd cond : Issues (.vcmp r a b t kd cond) r .ex := by
  intro s; show ∃ body, execVcmp r a b t kd cond s = _; unfold execVcmp vexec; exact ⟨_, rfl⟩
theorem issues_kand r kd ka kb : Issues (.kand r kd ka kb) r .ex := by
  intro s; show ∃ body, execKand r kd ka kb s = _; unfold execKand kop; exact ⟨_, rfl⟩
theorem issues_kor r kd ka kb : Issues (.kor r kd ka kb) r .ex := by
  intro s; show ∃ body, execKor r kd ka kb s = _; unfold execKor kop; exact ⟨_, rfl⟩
theorem issues_kxor r kd ka kb : Issues (.kxor r kd ka kb) r .ex := by
  intro s; show ∃ body, execKxor r kd ka kb s = _; unfold execKxor kop; exact ⟨_, rfl⟩
theorem issues_knot r kd ka : Issues (.knot r kd ka) r .ex := by
  intro s; show ∃ body, execKnot r kd ka s = _; unfold execKnot kop; exact ⟨_, rfl⟩
theorem issues_kpop r xd ka : Issues (.kpop r xd ka) r .ex := by
  intro s; show ∃ body, execKpop r xd ka s = _; unfold execKpop; exact ⟨_, rfl⟩
theorem issues_kfirst r xd ka : Issues (.kfirst r xd ka) r .ex := by
  intro s; show ∃ body, execKfirst r xd ka s = _; unfold execKfirst; exact ⟨_, rfl⟩
theorem issues_vsel r d a b t k : Issues (.vsel r d a b t k) r .ex := by
  intro s; show ∃ body, execVsel r d a b t k s = _; unfold execVsel vexec; exact ⟨_, rfl⟩
theorem issues_vmovm r d a t k kz : Issues (.vmovm r d a t k kz) r .ex := by
  intro s; show ∃ body, execVmovm r d a t k kz s = _; unfold execVmovm vexec; exact ⟨_, rfl⟩
theorem issues_vcvt r d a t mk t2 rmo : Issues (.vcvt r d a t mk t2 rmo) r .ex := by
  intro s; show ∃ body, execVcvt r d a t mk t2 rmo s = _; unfold execVcvt vexec; exact ⟨_, rfl⟩
theorem issues_vquant r d a t c t2 rmo : Issues (.vquant r d a t c t2 rmo) r .ex := by
  intro s; show ∃ body, execVquant r d a t c t2 rmo s = _; unfold execVquant vexec; exact ⟨_, rfl⟩
theorem issues_vdeq r d a t c mk t2 rmo : Issues (.vdeq r d a t c mk t2 rmo) r .ex := by
  intro s; show ∃ body, execVdeq r d a t c mk t2 rmo s = _; unfold execVdeq vexec; exact ⟨_, rfl⟩
theorem issues_vrsumr r d a t : Issues (.vrsumr r d a t) r .ex := by
  intro s; show ∃ body, execVrsumr r d a t s = _; unfold execVrsumr reduce vexec; exact ⟨_, rfl⟩
theorem issues_vrsumc r d a t : Issues (.vrsumc r d a t) r .ex := by
  intro s; show ∃ body, execVrsumc r d a t s = _; unfold execVrsumc reduce vexec; exact ⟨_, rfl⟩
theorem issues_vrmax r d a t : Issues (.vrmax r d a t) r .ex := by
  intro s; show ∃ body, execVrmax r d a t s = _; unfold execVrmax reduce vexec; exact ⟨_, rfl⟩
theorem issues_vrmin r d a t : Issues (.vrmin r d a t) r .ex := by
  intro s; show ∃ body, execVrmin r d a t s = _; unfold execVrmin reduce vexec; exact ⟨_, rfl⟩
theorem issues_vscanSum r d a t : Issues (.vscanSum r d a t) r .ex := by
  intro s; show ∃ body, execVscanSum r d a t s = _; unfold execVscanSum scan vexec; exact ⟨_, rfl⟩
theorem issues_vscanMax r d a t : Issues (.vscanMax r d a t) r .ex := by
  intro s; show ∃ body, execVscanMax r d a t s = _; unfold execVscanMax scan vexec; exact ⟨_, rfl⟩
theorem issues_vscanMin r d a t : Issues (.vscanMin r d a t) r .ex := by
  intro s; show ∃ body, execVscanMin r d a t s = _; unfold execVscanMin scan vexec; exact ⟨_, rfl⟩
theorem issues_vsegsum r d a t k rmo : Issues (.vsegsum r d a t k rmo) r .ex := by
  intro s; show ∃ body, execVsegsum r d a t k rmo s = _; unfold execVsegsum vexec; exact ⟨_, rfl⟩
theorem issues_vtrn r d a t : Issues (.vtrn r d a t) r .ex := by
  intro s; show ∃ body, execVtrn r d a t s = _; unfold execVtrn layout vexec; exact ⟨_, rfl⟩
theorem issues_vbcr r d a xb t : Issues (.vbcr r d a xb t) r .ex := by
  intro s; show ∃ body, execVbcr r d a xb t s = _; unfold execVbcr layout vexec; exact ⟨_, rfl⟩
theorem issues_vbcc r d a xb t : Issues (.vbcc r d a xb t) r .ex := by
  intro s; show ∃ body, execVbcc r d a xb t s = _; unfold execVbcc layout vexec; exact ⟨_, rfl⟩
theorem issues_vrot r d a imm t : Issues (.vrot r d a imm t) r .ex := by
  intro s; show ∃ body, execVrot r d a imm t s = _; unfold execVrot layout vexec; exact ⟨_, rfl⟩
theorem issues_vslide r d a imm t : Issues (.vslide r d a imm t) r .ex := by
  intro s; show ∃ body, execVslide r d a imm t s = _; unfold execVslide layout vexec; exact ⟨_, rfl⟩
theorem issues_viota r d t : Issues (.viota r d t) r .ex := by
  intro s; show ∃ body, execViota r d t s = _; unfold execViota vexec; exact ⟨_, rfl⟩
theorem issues_vsplat r d xa t : Issues (.vsplat r d xa t) r .ex := by
  intro s; show ∃ body, execVsplat r d xa t s = _; unfold execVsplat layout vexec; exact ⟨_, rfl⟩
theorem issues_vext r xd a xb t : Issues (.vext r xd a xb t) r .ex := by
  intro s; show ∃ body, execVext r xd a xb t s = _; unfold execVext vexec; exact ⟨_, rfl⟩
theorem issues_vins r d xa xb t : Issues (.vins r d xa xb t) r .ex := by
  intro s; show ∃ body, execVins r d xa xb t s = _; unfold execVins layout vexec; exact ⟨_, rfl⟩
theorem issues_vshape r rowsM1 colsM1 : Issues (.vshape r rowsM1 colsM1) r .ex := by
  intro s; show ∃ body, execVshape r rowsM1 colsM1 s = _; unfold execVshape; exact ⟨_, rfl⟩
theorem issues_xadd r xd xa xb : Issues (.xadd r xd xa xb) r .ex := by
  intro s; show ∃ body, execXadd r xd xa xb s = _; unfold execXadd xalu2; exact ⟨_, rfl⟩
theorem issues_xsub r xd xa xb : Issues (.xsub r xd xa xb) r .ex := by
  intro s; show ∃ body, execXsub r xd xa xb s = _; unfold execXsub xalu2; exact ⟨_, rfl⟩
theorem issues_xmul r xd xa xb : Issues (.xmul r xd xa xb) r .ex := by
  intro s; show ∃ body, execXmul r xd xa xb s = _; unfold execXmul xalu2; exact ⟨_, rfl⟩
theorem issues_xmulh r xd xa xb : Issues (.xmulh r xd xa xb) r .ex := by
  intro s; show ∃ body, execXmulh r xd xa xb s = _; unfold execXmulh xalu2; exact ⟨_, rfl⟩
theorem issues_xmulhu r xd xa xb : Issues (.xmulhu r xd xa xb) r .ex := by
  intro s; show ∃ body, execXmulhu r xd xa xb s = _; unfold execXmulhu xalu2; exact ⟨_, rfl⟩
theorem issues_xdiv r xd xa xb : Issues (.xdiv r xd xa xb) r .ex := by
  intro s; show ∃ body, execXdiv r xd xa xb s = _; unfold execXdiv xalu2; exact ⟨_, rfl⟩
theorem issues_xdivu r xd xa xb : Issues (.xdivu r xd xa xb) r .ex := by
  intro s; show ∃ body, execXdivu r xd xa xb s = _; unfold execXdivu xalu2; exact ⟨_, rfl⟩
theorem issues_xrem r xd xa xb : Issues (.xrem r xd xa xb) r .ex := by
  intro s; show ∃ body, execXrem r xd xa xb s = _; unfold execXrem xalu2; exact ⟨_, rfl⟩
theorem issues_xremu r xd xa xb : Issues (.xremu r xd xa xb) r .ex := by
  intro s; show ∃ body, execXremu r xd xa xb s = _; unfold execXremu xalu2; exact ⟨_, rfl⟩
theorem issues_xmin r xd xa xb : Issues (.xmin r xd xa xb) r .ex := by
  intro s; show ∃ body, execXmin r xd xa xb s = _; unfold execXmin xalu2; exact ⟨_, rfl⟩
theorem issues_xminu r xd xa xb : Issues (.xminu r xd xa xb) r .ex := by
  intro s; show ∃ body, execXminu r xd xa xb s = _; unfold execXminu xalu2; exact ⟨_, rfl⟩
theorem issues_xmax r xd xa xb : Issues (.xmax r xd xa xb) r .ex := by
  intro s; show ∃ body, execXmax r xd xa xb s = _; unfold execXmax xalu2; exact ⟨_, rfl⟩
theorem issues_xmaxu r xd xa xb : Issues (.xmaxu r xd xa xb) r .ex := by
  intro s; show ∃ body, execXmaxu r xd xa xb s = _; unfold execXmaxu xalu2; exact ⟨_, rfl⟩
theorem issues_xshl r xd xa xb : Issues (.xshl r xd xa xb) r .ex := by
  intro s; show ∃ body, execXshl r xd xa xb s = _; unfold execXshl xalu2; exact ⟨_, rfl⟩
theorem issues_xshr r xd xa xb : Issues (.xshr r xd xa xb) r .ex := by
  intro s; show ∃ body, execXshr r xd xa xb s = _; unfold execXshr xalu2; exact ⟨_, rfl⟩
theorem issues_xsar r xd xa xb : Issues (.xsar r xd xa xb) r .ex := by
  intro s; show ∃ body, execXsar r xd xa xb s = _; unfold execXsar xalu2; exact ⟨_, rfl⟩
theorem issues_xand r xd xa xb : Issues (.xand r xd xa xb) r .ex := by
  intro s; show ∃ body, execXand r xd xa xb s = _; unfold execXand xalu2; exact ⟨_, rfl⟩
theorem issues_xorX r xd xa xb : Issues (.xorX r xd xa xb) r .ex := by
  intro s; show ∃ body, execXorX r xd xa xb s = _; unfold execXorX xalu2; exact ⟨_, rfl⟩
theorem issues_xxor r xd xa xb : Issues (.xxor r xd xa xb) r .ex := by
  intro s; show ∃ body, execXxor r xd xa xb s = _; unfold execXxor xalu2; exact ⟨_, rfl⟩
theorem issues_xclz r xd xa : Issues (.xclz r xd xa) r .ex := by
  intro s; show ∃ body, execXclz r xd xa s = _; unfold execXclz xalu1; exact ⟨_, rfl⟩
theorem issues_xpopc r xd xa : Issues (.xpopc r xd xa) r .ex := by
  intro s; show ∃ body, execXpopc r xd xa s = _; unfold execXpopc xalu1; exact ⟨_, rfl⟩
theorem issues_xaddi r xd xa imm : Issues (.xaddi r xd xa imm) r .ex := by
  intro s; show ∃ body, execXaddi r xd xa imm s = _; unfold execXaddi xalu1; exact ⟨_, rfl⟩
theorem issues_xmovi r xd imm : Issues (.xmovi r xd imm) r .ex := by
  intro s; show ∃ body, execXmovi r xd imm s = _; unfold execXmovi; exact ⟨_, rfl⟩
theorem issues_xcmp r qd xa xb cond : Issues (.xcmp r qd xa xb cond) r .ex := by
  intro s; show ∃ body, execXcmp r qd xa xb cond s = _; unfold execXcmp; exact ⟨_, rfl⟩
theorem issues_xb r q n off : Issues (.xb r q n off) r .ex := by
  intro s; show ∃ body, execXb r q n off s = _; unfold execXb branch; exact ⟨_, rfl⟩
theorem issues_guardX r q n cnt : Issues (.guardX r q n cnt) r .ex := by
  intro s; show ∃ body, execGuardX r q n cnt s = _; unfold execGuardX; exact ⟨_, rfl⟩
theorem issues_loopX r l xs tgt : Issues (.loopX r l xs tgt) r .ex := by
  intro s; show ∃ body, execLoopX r l xs tgt s = _; unfold execLoopX; exact ⟨_, rfl⟩
theorem issues_loopspX r rec : Issues (.loopspX r rec) r .ex := by
  intro s; show ∃ body, execLoopspX r rec s = _; unfold execLoopspX; exact ⟨_, rfl⟩
theorem issues_steer r xa xb stq : Issues (.steer r xa xb stq) r .ex := by
  intro s; show ∃ body, execSteer r xa xb stq s = _; unfold execSteer; exact ⟨_, rfl⟩
theorem issues_xj r xa : Issues (.xj r xa) r .ex := by
  intro s; show ∃ body, execXj r xa s = _; unfold execXj; exact ⟨_, rfl⟩
theorem issues_rdvX r : Issues (.rdvX r) r .ex := by
  intro s; show ∃ body, execRdvX r s = _; unfold execRdvX; exact ⟨_, rfl⟩
theorem issues_safeX r : Issues (.safeX r) r .ex := by
  intro s; show ∃ body, execSafeX r s = _; unfold execSafeX; exact ⟨_, rfl⟩
theorem issues_xget r xd sel : Issues (.xget r xd sel) r .ex := by
  intro s; show ∃ body, execXget r xd sel s = _; unfold execXget; exact ⟨_, rfl⟩
theorem issues_xset r xa sel : Issues (.xset r xa sel) r .ex := by
  intro s; show ∃ body, execXset r xa sel s = _; unfold execXset; exact ⟨_, rfl⟩
theorem issues_mxldb r sw ss sk loc nb n0 bf k scl : Issues (.mxldb r sw ss sk loc nb n0 bf k scl) r .ex := by
  intro s; show ∃ body, execMxldb r sw ss sk loc nb n0 bf k scl s = _; unfold execMxldb mxPush; exact ⟨_, rfl⟩
theorem issues_mxldbs r sw ss sg loc nb dc ove kHi bf kLo : Issues (.mxldbs r sw ss sg loc nb dc ove kHi bf kLo) r .ex := by
  intro s; show ∃ body, execMxldbs r sw ss sg loc nb dc ove kHi bf kLo s = _; unfold execMxldbs mxPush; exact ⟨_, rfl⟩
theorem issues_mxrun r sw ss ps loc af kaHi kaLo acc0 m : Issues (.mxrun r sw ss ps loc af kaHi kaLo acc0 m) r .ex := by
  intro s; show ∃ body, execMxrun r sw ss ps loc af kaHi kaLo acc0 m s = _; unfold execMxrun mxPush; exact ⟨_, rfl⟩
theorem issues_mxrung r sw ss tb iport af kaHi kaLo acc0 m : Issues (.mxrung r sw ss tb iport af kaHi kaLo acc0 m) r .ex := by
  intro s; show ∃ body, execMxrung r sw ss tb iport af kaHi kaLo acc0 m s = _; unfold execMxrung mxPush; exact ⟨_, rfl⟩
theorem issues_mxst r sw ss ps loc acc0 n0 m df rm sm nb : Issues (.mxst r sw ss ps loc acc0 n0 m df rm sm nb) r .ex := by
  intro s; show ∃ body, execMxst r sw ss ps loc acc0 n0 m df rm sm nb s = _; unfold execMxst mxPush; exact ⟨_, rfl⟩
theorem issues_mxz r sw ss acc0 m kind : Issues (.mxz r sw ss acc0 m kind) r .ex := by
  intro s; show ∃ body, execMxz r sw ss acc0 m kind s = _; unfold execMxz mxPush; exact ⟨_, rfl⟩
theorem issues_mxops r sw ss len opsLo opsHi : Issues (.mxops r sw ss len opsLo opsHi) r .ex := by
  intro s; show ∃ body, execMxops r sw ss len opsLo opsHi s = _; unfold execMxops mxPush; exact ⟨_, rfl⟩
theorem issues_mxanc r sw ss anc : Issues (.mxanc r sw ss anc) r .ex := by
  intro s; show ∃ body, execMxanc r sw ss anc s = _; unfold execMxanc mxPush; exact ⟨_, rfl⟩
theorem issues_mxfence r sw ss : Issues (.mxfence r sw ss) r .ex := by
  intro s; show ∃ body, execMxfence r sw ss s = _; unfold execMxfence; exact ⟨_, rfl⟩
theorem issues_mxclrp r sw ss acc0 m re bm : Issues (.mxclrp r sw ss acc0 m re bm) r .ex := by
  intro s; show ∃ body, execMxclrp r sw ss acc0 m re bm s = _; unfold execMxclrp mxPush; exact ⟨_, rfl⟩
theorem issues_mxspill r sw ss ps loc acc0 m : Issues (.mxspill r sw ss ps loc acc0 m) r .ex := by
  intro s; show ∃ body, execMxspill r sw ss ps loc acc0 m s = _; unfold execMxspill mxPush; exact ⟨_, rfl⟩
theorem issues_mxfill r sw ss ps loc acc0 m : Issues (.mxfill r sw ss ps loc acc0 m) r .ex := by
  intro s; show ∃ body, execMxfill r sw ss ps loc acc0 m s = _; unfold execMxfill mxPush; exact ⟨_, rfl⟩
theorem issues_gbld r xa : Issues (.gbld r xa) r .ex := by
  intro s; show ∃ body, execGbld r xa s = _; unfold execGbld; exact ⟨_, rfl⟩
theorem issues_gbth r xh xl xe xt : Issues (.gbth r xh xl xe xt) r .ex := by
  intro s; show ∃ body, execGbth r xh xl xe xt s = _; unfold execGbth; exact ⟨_, rfl⟩
theorem issues_gbpred r inp oa ou xbf tag xn xu : Issues (.gbpred r inp oa ou xbf tag xn xu) r .ex := by
  intro s; show ∃ body, execGbpred r inp oa ou xbf tag xn xu s = _; unfold execGbpred; exact ⟨_, rfl⟩
theorem issues_gbchk r inp orp ht xu tag : Issues (.gbchk r inp orp ht xu tag) r .ex := by
  intro s; show ∃ body, execGbchk r inp orp ht xu tag s = _; unfold execGbchk; exact ⟨_, rfl⟩

theorem exec_issue {i : Instr} {r : Ring} {c : Cls} (h : i.form = some (r, c)) : Issues i r c := by
  cases i <;> cases h
  · exact issues_add _ _ _ _
  · exact issues_sub _ _ _ _
  · exact issues_mul _ _ _ _
  · exact issues_mulh _ _ _ _
  · exact issues_mulhu _ _ _ _
  · exact issues_div _ _ _ _
  · exact issues_divu _ _ _ _
  · exact issues_rem _ _ _ _
  · exact issues_remu _ _ _ _
  · exact issues_min _ _ _ _
  · exact issues_minu _ _ _ _
  · exact issues_max _ _ _ _
  · exact issues_maxu _ _ _ _
  · exact issues_shl _ _ _ _
  · exact issues_shr _ _ _ _
  · exact issues_sar _ _ _ _
  · exact issues_and _ _ _ _
  · exact issues_or _ _ _ _
  · exact issues_xor _ _ _ _
  · exact issues_clz _ _ _
  · exact issues_popc _ _ _
  · exact issues_addi _ _ _ _
  · exact issues_andi _ _ _ _
  · exact issues_ori _ _ _ _
  · exact issues_xori _ _ _ _
  · exact issues_shli _ _ _ _
  · exact issues_shri _ _ _ _
  · exact issues_sari _ _ _ _
  · exact issues_li _ _ _
  · exact issues_lui _ _ _
  · exact issues_cmp _ _ _ _ _
  · exact issues_cmpi _ _ _ _ _
  · exact issues_pand _ _ _ _
  · exact issues_por _ _ _ _
  · exact issues_pxor _ _ _ _
  · exact issues_pnot _ _ _
  · exact issues_sel _ _ _ _ _
  · exact issues_csrr _ _ _
  · exact issues_csrw _ _ _
  · exact issues_b _ _ _ _
  · exact issues_j _ _
  · exact issues_jal _ _ _
  · exact issues_jr _ _
  · exact issues_guard _ _ _ _
  · exact issues_loop _ _ _ _
  · exact issues_loopsp _ _
  · exact issues_safe _
  · exact issues_rdv _
  · exact issues_spawn _ _ _
  · exact issues_trap _ _
  · exact issues_hret _
  · exact issues_ld _ _ _ _ _ _ _
  · exact issues_st _ _ _ _ _ _
  · exact issues_ldp _ _ _ _ _ _
  · exact issues_ldpF _ _ _ _ _
  · exact issues_stp _ _ _ _ _ _
  · exact issues_stpE _ _ _ _ _
  · exact issues_lda _ _ _ _ _ _
  · exact issues_stl _ _ _ _ _ _
  · exact issues_amoAdd _ _ _ _ _ _ _
  · exact issues_amoAnd _ _ _ _ _ _ _
  · exact issues_amoOr _ _ _ _ _ _ _
  · exact issues_amoXor _ _ _ _ _ _ _
  · exact issues_amoMin _ _ _ _ _ _ _
  · exact issues_amoMax _ _ _ _ _ _ _
  · exact issues_amoMinU _ _ _ _ _ _ _
  · exact issues_amoMaxU _ _ _ _ _ _ _
  · exact issues_amoSwap _ _ _ _ _ _ _
  · exact issues_cas _ _ _ _ _ _ _
  · exact issues_fence _ _ _
  · exact issues_phase _ _
  · exact issues_tkw _ _ _
  · exact issues_tks _ _ _
  · exact issues_stw _ _
  · exact issues_poprpl _ _ _ _
  · exact issues_sqpush _ _ _
  · exact issues_sqbind _ _ _
  · exact issues_msend _ _ _ _ _ _ _
  · exact issues_sopen _ _ _ _ _ _ _ _ _ _
  · exact issues_slev _ _ _ _ _ _ _
  · exact issues_sind _ _ _ _
  · exact issues_ssrc _ _ _
  · exact issues_sremote _ _ _ _ _ _ _ _ _
  · exact issues_smerge _ _ _ _ _ _ _ _ _ _ _ _
  · exact issues_sbfmt _ _ _
  · exact issues_sgo _ _
  · exact issues_sfork _ _ _ _
  · exact issues_smark _ _ _ _ _
  · exact issues_srew _ _ _
  · exact issues_ssave _ _ _ _
  · exact issues_srest _ _ _
  · exact issues_sclose _ _
  · exact issues_sstat _ _ _
  · exact issues_sflush _ _
  · exact issues_gtbind _ _ _
  · exact issues_gtswap _ _ _ _
  · exact issues_gsync _ _ _
  · exact issues_gath _ _ _ _ _ _ _ _ _ _
  · exact issues_gathp _ _ _ _ _ _ _ _ _ _
  · exact issues_scat _ _ _ _ _ _ _
  · exact issues_scata _ _ _ _ _ _ _
  · exact issues_bara _ _ _
  · exact issues_barw _ _ _ _
  · exact issues_barwa _ _ _ _
  · exact issues_barinit _ _ _
  · exact issues_barinitFree _ _
  · exact issues_sems _ _ _
  · exact issues_semw _ _ _
  · exact issues_semwt _ _ _ _
  · exact issues_asidset _ _ _
  · exact issues_ptbase _ _ _
  · exact issues_tlbinv _ _ _
  · exact issues_killctx _ _
  · exact issues_preempt _ _
  · exact issues_ctxsave _ _ _
  · exact issues_ctxload _ _ _
  · exact issues_drain _ _ _
  · exact issues_semmap _ _ _
  · exact issues_lqpush _ _
  · exact issues_wake _ _ _
  · exact issues_timerd _ _
  · exact issues_adjourn _ _
  · exact issues_score _ _ _
  · exact issues_monsnap _ _ _
  · exact issues_vadd _ _ _ _ _
  · exact issues_vsub _ _ _ _ _
  · exact issues_vmul _ _ _ _ _
  · exact issues_vmin _ _ _ _ _
  · exact issues_vmax _ _ _ _ _
  · exact issues_vabd _ _ _ _ _
  · exact issues_vadds _ _ _ _ _
  · exact issues_vsubs _ _ _ _ _
  · exact issues_vmulh _ _ _ _ _
  · exact issues_vdiv _ _ _ _ _
  · exact issues_vand _ _ _ _ _
  · exact issues_vor _ _ _ _ _
  · exact issues_vxor _ _ _ _ _
  · exact issues_vshl _ _ _ _ _
  · exact issues_vshr _ _ _ _ _
  · exact issues_vsar _ _ _ _ _
  · exact issues_vfma _ _ _ _ _ _ _ _
  · exact issues_vfms _ _ _ _ _ _ _ _
  · exact issues_vabs _ _ _ _
  · exact issues_vneg _ _ _ _
  · exact issues_vnot _ _ _ _
  · exact issues_vsqrt _ _ _ _
  · exact issues_vrcp _ _ _ _
  · exact issues_vrsq _ _ _ _
  · exact issues_vexp2 _ _ _ _
  · exact issues_vlog2 _ _ _ _
  · exact issues_vtanh _ _ _ _
  · exact issues_vsigm _ _ _ _
  · exact issues_vmov _ _ _ _
  · exact issues_vcmp _ _ _ _ _ _
  · exact issues_kand _ _ _ _
  · exact issues_kor _ _ _ _
  · exact issues_kxor _ _ _ _
  · exact issues_knot _ _ _
  · exact issues_kpop _ _ _
  · exact issues_kfirst _ _ _
  · exact issues_vsel _ _ _ _ _ _
  · exact issues_vmovm _ _ _ _ _ _
  · exact issues_vcvt _ _ _ _ _ _ _
  · exact issues_vquant _ _ _ _ _ _ _
  · exact issues_vdeq _ _ _ _ _ _ _ _
  · exact issues_vrsumr _ _ _ _
  · exact issues_vrsumc _ _ _ _
  · exact issues_vrmax _ _ _ _
  · exact issues_vrmin _ _ _ _
  · exact issues_vscanSum _ _ _ _
  · exact issues_vscanMax _ _ _ _
  · exact issues_vscanMin _ _ _ _
  · exact issues_vsegsum _ _ _ _ _ _
  · exact issues_vtrn _ _ _ _
  · exact issues_vbcr _ _ _ _ _
  · exact issues_vbcc _ _ _ _ _
  · exact issues_vrot _ _ _ _ _
  · exact issues_vslide _ _ _ _ _
  · exact issues_viota _ _ _
  · exact issues_vsplat _ _ _ _
  · exact issues_vext _ _ _ _ _
  · exact issues_vins _ _ _ _ _
  · exact issues_vshape _ _ _
  · exact issues_xadd _ _ _ _
  · exact issues_xsub _ _ _ _
  · exact issues_xmul _ _ _ _
  · exact issues_xmulh _ _ _ _
  · exact issues_xmulhu _ _ _ _
  · exact issues_xdiv _ _ _ _
  · exact issues_xdivu _ _ _ _
  · exact issues_xrem _ _ _ _
  · exact issues_xremu _ _ _ _
  · exact issues_xmin _ _ _ _
  · exact issues_xminu _ _ _ _
  · exact issues_xmax _ _ _ _
  · exact issues_xmaxu _ _ _ _
  · exact issues_xshl _ _ _ _
  · exact issues_xshr _ _ _ _
  · exact issues_xsar _ _ _ _
  · exact issues_xand _ _ _ _
  · exact issues_xorX _ _ _ _
  · exact issues_xxor _ _ _ _
  · exact issues_xclz _ _ _
  · exact issues_xpopc _ _ _
  · exact issues_xaddi _ _ _ _
  · exact issues_xmovi _ _ _
  · exact issues_xcmp _ _ _ _ _
  · exact issues_xb _ _ _ _
  · exact issues_guardX _ _ _ _
  · exact issues_loopX _ _ _ _
  · exact issues_loopspX _ _
  · exact issues_steer _ _ _ _
  · exact issues_xj _ _
  · exact issues_rdvX _
  · exact issues_safeX _
  · exact issues_xget _ _ _
  · exact issues_xset _ _ _
  · exact issues_mxldb _ _ _ _ _ _ _ _ _ _
  · exact issues_mxldbs _ _ _ _ _ _ _ _ _ _ _
  · exact issues_mxrun _ _ _ _ _ _ _ _ _ _
  · exact issues_mxrung _ _ _ _ _ _ _ _ _ _
  · exact issues_mxst _ _ _ _ _ _ _ _ _ _ _ _
  · exact issues_mxz _ _ _ _ _ _
  · exact issues_mxops _ _ _ _ _ _
  · exact issues_mxanc _ _ _ _
  · exact issues_mxfence _ _ _
  · exact issues_mxclrp _ _ _ _ _ _ _
  · exact issues_mxspill _ _ _ _ _ _ _
  · exact issues_mxfill _ _ _ _ _ _ _
  · exact issues_gbld _ _
  · exact issues_gbth _ _ _ _ _
  · exact issues_gbpred _ _ _ _ _ _ _ _
  · exact issues_gbchk _ _ _ _ _ _

end Sys2Proof
end

