-- ==== Sys2Proof/Laws/PerInstr.lean ====
section
/-! SUPPORT. Decoding gives every instruction back from its words: one lemma for each constructor of `Instr`. -/

namespace Sys2Proof.Laws.RoundTrip

/-- In each instruction set that has it, a well-formed instruction is decoded from its words: the first says how many there are, and
after a one-word instruction the next word does not matter. -/
def Statement (i : Instr) : Prop :=
  ∀ x : Isa, i.inIsa x = true → i.wf = true → i.regsOk x = true →
    ∃ w t, encode i = w :: t ∧ t.length = (if isTwo x w then 1 else 0) ∧ ∀ v, decode x w (t.headD v) = some i

theorem two_of {w : Word} {m : BitVec 6} (x : Isa) (h : w.extractLsb' 22 6 = m) : isTwo x w = isTwo x (fld m 22) := by
  unfold isTwo
  rw [h, fld_same m 22 (by decide)]

theorem a1 {i : Instr} {w : Word} {m : BitVec 6} (he : encode i = [w]) (hx : i.inIsa .x = false)
    (ht : isTwo .a (fld m 22) = false) (hm : w.extractLsb' 22 6 = m) (hd : ∀ v, w.extractLsb' 22 6 = m → rawA w v = some i) :
    Statement i := by
  intro x hi hw hr
  cases x
  · exact ⟨w, [], he, by rw [two_of _ hm, ht]; rfl, fun v => by simp [decode, hd v hm, hw, Instr.regsOk]⟩
  · rw [hx] at hi; cases hi

theorem x1 {i : Instr} {w : Word} {m : BitVec 6} (he : encode i = [w]) (hx : i.inIsa .a = false)
    (ht : isTwo .x (fld m 22) = false) (hm : w.extractLsb' 22 6 = m) (hd : ∀ v, w.extractLsb' 22 6 = m → rawX w v = some i) :
    Statement i := by
  intro x hi hw hr
  cases x
  · rw [hx] at hi; cases hi
  · exact ⟨w, [], he, by rw [two_of _ hm, ht]; rfl, fun v => by simp [decode, hd v hm, hw, hr]⟩

theorem ax1 {i : Instr} {w : Word} {m : BitVec 6} (he : encode i = [w]) (ht : isTwo .a (fld m 22) = false)
    (hu : isTwo .x (fld m 22) = false) (hm : w.extractLsb' 22 6 = m) (hd : ∀ v, w.extractLsb' 22 6 = m → rawA w v = some i)
    (hx : ∀ v, w.extractLsb' 22 6 = m → rawX w v = some i) : Statement i := by
  intro x hi hw hr
  cases x
  · exact ⟨w, [], he, by rw [two_of _ hm, ht]; rfl, fun v => by simp [decode, hd v hm, hw, Instr.regsOk]⟩
  · exact ⟨w, [], he, by rw [two_of _ hm, hu]; rfl, fun v => by simp [decode, hx v hm, hw, hr]⟩

theorem a2 {i : Instr} {w u : Word} {m : BitVec 6} (he : encode i = [w, u]) (hx : i.inIsa .x = false)
    (ht : isTwo .a (fld m 22) = true) (hm : w.extractLsb' 22 6 = m) (hd : w.extractLsb' 22 6 = m → rawA w u = some i) :
    Statement i := by
  intro x hi hw hr
  cases x
  · exact ⟨w, [u], he, by rw [two_of _ hm, ht]; rfl, fun v => by simp [decode, hd hm, hw, Instr.regsOk]⟩
  · rw [hx] at hi; cases hi

theorem x2 {i : Instr} {w u : Word} {m : BitVec 6} (he : encode i = [w, u]) (hx : i.inIsa .a = false)
    (ht : isTwo .x (fld m 22) = true) (hm : w.extractLsb' 22 6 = m) (hd : w.extractLsb' 22 6 = m → rawX w u = some i) :
    Statement i := by
  intro x hi hw hr
  cases x
  · rw [hx] at hi; cases hi
  · exact ⟨w, [u], he, by rw [two_of _ hm, ht]; rfl, fun v => by simp [decode, hd hm, hw, hr]⟩

theorem ev {i : Instr} (h : i.form = none) : Statement i := by
  intro x hi
  simp [Instr.inIsa, h] at hi

/-! The groups of R111 and R118, by major. -/

theorem rawA_00 {w v : Word} (h : w.extractLsb' 22 6 = 0x00#6) : rawA w v = decA00 w v := by
  unfold rawA; rw [h]; rfl
theorem rawA_01 {w v : Word} (h : w.extractLsb' 22 6 = 0x01#6) : rawA w v = decA01 w v := by
  unfold rawA; rw [h]; rfl
theorem rawA_02 {w v : Word} (h : w.extractLsb' 22 6 = 0x02#6) : rawA w v = decA02 w v := by
  unfold rawA; rw [h]; rfl
theorem rawA_03 {w v : Word} (h : w.extractLsb' 22 6 = 0x03#6) : rawA w v = decA03 w v := by
  unfold rawA; rw [h]; rfl
theorem rawA_04 {w v : Word} (h : w.extractLsb' 22 6 = 0x04#6) : rawA w v = decA04 w v := by
  unfold rawA; rw [h]; rfl
theorem rawA_05 {w v : Word} (h : w.extractLsb' 22 6 = 0x05#6) : rawA w v = decA05 w v := by
  unfold rawA; rw [h]; rfl
theorem rawA_06 {w v : Word} (h : w.extractLsb' 22 6 = 0x06#6) : rawA w v = decA06 w v := by
  unfold rawA; rw [h]; rfl
theorem rawA_07 {w v : Word} (h : w.extractLsb' 22 6 = 0x07#6) : rawA w v = decA07 w v := by
  unfold rawA; rw [h]; rfl
theorem rawA_08 {w v : Word} (h : w.extractLsb' 22 6 = 0x08#6) : rawA w v = decA08 w v := by
  unfold rawA; rw [h]; rfl
theorem rawA_09 {w v : Word} (h : w.extractLsb' 22 6 = 0x09#6) : rawA w v = decA09 w v := by
  unfold rawA; rw [h]; rfl
theorem rawA_0A {w v : Word} (h : w.extractLsb' 22 6 = 0x0A#6) : rawA w v = decA0A w v := by
  unfold rawA; rw [h]; rfl
theorem rawA_0B {w v : Word} (h : w.extractLsb' 22 6 = 0x0B#6) : rawA w v = decA0B w v := by
  unfold rawA; rw [h]; rfl
theorem rawA_0C {w v : Word} (h : w.extractLsb' 22 6 = 0x0C#6) : rawA w v = decA0C w v := by
  unfold rawA; rw [h]; rfl
theorem rawA_0D {w v : Word} (h : w.extractLsb' 22 6 = 0x0D#6) : rawA w v = decA0D w v := by
  unfold rawA; rw [h]; rfl
theorem rawA_0E {w v : Word} (h : w.extractLsb' 22 6 = 0x0E#6) : rawA w v = decA0E w v := by
  unfold rawA; rw [h]; rfl
theorem rawA_0F {w v : Word} (h : w.extractLsb' 22 6 = 0x0F#6) : rawA w v = decA0F w v := by
  unfold rawA; rw [h]; rfl
theorem rawA_10 {w v : Word} (h : w.extractLsb' 22 6 = 0x10#6) : rawA w v = decA10 w v := by
  unfold rawA; rw [h]; rfl
theorem rawA_11 {w v : Word} (h : w.extractLsb' 22 6 = 0x11#6) : rawA w v = decA11 w v := by
  unfold rawA; rw [h]; rfl
theorem rawA_12 {w v : Word} (h : w.extractLsb' 22 6 = 0x12#6) : rawA w v = decA12 w v := by
  unfold rawA; rw [h]; rfl
theorem rawA_13 {w v : Word} (h : w.extractLsb' 22 6 = 0x13#6) : rawA w v = decA13 w v := by
  unfold rawA; rw [h]; rfl
theorem rawA_14 {w v : Word} (h : w.extractLsb' 22 6 = 0x14#6) : rawA w v = decA14 w v := by
  unfold rawA; rw [h]; rfl
theorem rawA_15 {w v : Word} (h : w.extractLsb' 22 6 = 0x15#6) : rawA w v = decA15 w v := by
  unfold rawA; rw [h]; rfl
theorem rawA_16 {w v : Word} (h : w.extractLsb' 22 6 = 0x16#6) : rawA w v = decA16 w v := by
  unfold rawA; rw [h]; rfl
theorem rawA_17 {w v : Word} (h : w.extractLsb' 22 6 = 0x17#6) : rawA w v = decA17 w v := by
  unfold rawA; rw [h]; rfl
theorem rawA_18 {w v : Word} (h : w.extractLsb' 22 6 = 0x18#6) : rawA w v = decA18 w v := by
  unfold rawA; rw [h]; rfl
theorem rawA_19 {w v : Word} (h : w.extractLsb' 22 6 = 0x19#6) : rawA w v = decA19 w v := by
  unfold rawA; rw [h]; rfl
theorem rawA_1A {w v : Word} (h : w.extractLsb' 22 6 = 0x1A#6) : rawA w v = decA1A w v := by
  unfold rawA; rw [h]; rfl
theorem rawA_1B {w v : Word} (h : w.extractLsb' 22 6 = 0x1B#6) : rawA w v = decA1B w v := by
  unfold rawA; rw [h]; rfl
theorem rawA_1C {w v : Word} (h : w.extractLsb' 22 6 = 0x1C#6) : rawA w v = decA1C w v := by
  unfold rawA; rw [h]; rfl
theorem rawA_1D {w v : Word} (h : w.extractLsb' 22 6 = 0x1D#6) : rawA w v = decA1D w v := by
  unfold rawA; rw [h]; rfl
theorem rawA_1E {w v : Word} (h : w.extractLsb' 22 6 = 0x1E#6) : rawA w v = decA1E w v := by
  unfold rawA; rw [h]; rfl
theorem rawA_1F {w v : Word} (h : w.extractLsb' 22 6 = 0x1F#6) : rawA w v = decA1F w v := by
  unfold rawA; rw [h]; rfl
theorem rawA_20 {w v : Word} (h : w.extractLsb' 22 6 = 0x20#6) : rawA w v = decA20 w v := by
  unfold rawA; rw [h]; rfl
theorem rawA_21 {w v : Word} (h : w.extractLsb' 22 6 = 0x21#6) : rawA w v = decA21 w v := by
  unfold rawA; rw [h]; rfl
theorem rawA_24 {w v : Word} (h : w.extractLsb' 22 6 = 0x24#6) : rawA w v = decA24 w v := by
  unfold rawA; rw [h]; rfl
theorem rawA_25 {w v : Word} (h : w.extractLsb' 22 6 = 0x25#6) : rawA w v = decA25 w v := by
  unfold rawA; rw [h]; rfl
theorem rawA_26 {w v : Word} (h : w.extractLsb' 22 6 = 0x26#6) : rawA w v = decA26 w v := by
  unfold rawA; rw [h]; rfl
theorem rawA_27 {w v : Word} (h : w.extractLsb' 22 6 = 0x27#6) : rawA w v = decA27 w v := by
  unfold rawA; rw [h]; rfl
theorem rawA_28 {w v : Word} (h : w.extractLsb' 22 6 = 0x28#6) : rawA w v = decA28 w v := by
  unfold rawA; rw [h]; rfl
theorem rawA_29 {w v : Word} (h : w.extractLsb' 22 6 = 0x29#6) : rawA w v = decA29 w v := by
  unfold rawA; rw [h]; rfl
theorem rawA_2A {w v : Word} (h : w.extractLsb' 22 6 = 0x2A#6) : rawA w v = decA2A w v := by
  unfold rawA; rw [h]; rfl
theorem rawA_2B {w v : Word} (h : w.extractLsb' 22 6 = 0x2B#6) : rawA w v = decA2B w v := by
  unfold rawA; rw [h]; rfl
theorem rawA_2C {w v : Word} (h : w.extractLsb' 22 6 = 0x2C#6) : rawA w v = decA2C w v := by
  unfold rawA; rw [h]; rfl
theorem rawA_2D {w v : Word} (h : w.extractLsb' 22 6 = 0x2D#6) : rawA w v = decA2D w v := by
  unfold rawA; rw [h]; rfl
theorem rawA_2E {w v : Word} (h : w.extractLsb' 22 6 = 0x2E#6) : rawA w v = decA2E w v := by
  unfold rawA; rw [h]; rfl
theorem rawA_2F {w v : Word} (h : w.extractLsb' 22 6 = 0x2F#6) : rawA w v = decA2F w v := by
  unfold rawA; rw [h]; rfl
theorem rawA_30 {w v : Word} (h : w.extractLsb' 22 6 = 0x30#6) : rawA w v = decA30 w v := by
  unfold rawA; rw [h]; rfl
theorem rawA_31 {w v : Word} (h : w.extractLsb' 22 6 = 0x31#6) : rawA w v = decA31 w v := by
  unfold rawA; rw [h]; rfl
theorem rawA_32 {w v : Word} (h : w.extractLsb' 22 6 = 0x32#6) : rawA w v = decA32 w v := by
  unfold rawA; rw [h]; rfl
theorem rawA_33 {w v : Word} (h : w.extractLsb' 22 6 = 0x33#6) : rawA w v = decA33 w v := by
  unfold rawA; rw [h]; rfl
theorem rawA_34 {w v : Word} (h : w.extractLsb' 22 6 = 0x34#6) : rawA w v = decA34 w v := by
  unfold rawA; rw [h]; rfl
theorem rawA_35 {w v : Word} (h : w.extractLsb' 22 6 = 0x35#6) : rawA w v = decA35 w v := by
  unfold rawA; rw [h]; rfl
theorem rawA_36 {w v : Word} (h : w.extractLsb' 22 6 = 0x36#6) : rawA w v = decA36 w v := by
  unfold rawA; rw [h]; rfl
theorem rawA_37 {w v : Word} (h : w.extractLsb' 22 6 = 0x37#6) : rawA w v = decA37 w v := by
  unfold rawA; rw [h]; rfl
theorem rawA_38 {w v : Word} (h : w.extractLsb' 22 6 = 0x38#6) : rawA w v = decA38 w v := by
  unfold rawA; rw [h]; rfl
theorem rawA_39 {w v : Word} (h : w.extractLsb' 22 6 = 0x39#6) : rawA w v = decA39 w v := by
  unfold rawA; rw [h]; rfl
theorem rawA_3A {w v : Word} (h : w.extractLsb' 22 6 = 0x3A#6) : rawA w v = decA3A w v := by
  unfold rawA; rw [h]; rfl
theorem rawA_3B {w v : Word} (h : w.extractLsb' 22 6 = 0x3B#6) : rawA w v = decA3B w v := by
  unfold rawA; rw [h]; rfl
theorem rawX_00 {w v : Word} (h : w.extractLsb' 22 6 = 0x00#6) : rawX w v = decX00 w v := by
  unfold rawX; rw [h]; rfl
theorem rawX_01 {w v : Word} (h : w.extractLsb' 22 6 = 0x01#6) : rawX w v = decX01 w v := by
  unfold rawX; rw [h]; rfl
theorem rawX_02 {w v : Word} (h : w.extractLsb' 22 6 = 0x02#6) : rawX w v = decX02 w v := by
  unfold rawX; rw [h]; rfl
theorem rawX_03 {w v : Word} (h : w.extractLsb' 22 6 = 0x03#6) : rawX w v = decX03 w v := by
  unfold rawX; rw [h]; rfl
theorem rawX_04 {w v : Word} (h : w.extractLsb' 22 6 = 0x04#6) : rawX w v = decX04 w v := by
  unfold rawX; rw [h]; rfl
theorem rawX_05 {w v : Word} (h : w.extractLsb' 22 6 = 0x05#6) : rawX w v = decX05 w v := by
  unfold rawX; rw [h]; rfl
theorem rawX_06 {w v : Word} (h : w.extractLsb' 22 6 = 0x06#6) : rawX w v = decX06 w v := by
  unfold rawX; rw [h]; rfl
theorem rawX_07 {w v : Word} (h : w.extractLsb' 22 6 = 0x07#6) : rawX w v = decX07 w v := by
  unfold rawX; rw [h]; rfl
theorem rawX_08 {w v : Word} (h : w.extractLsb' 22 6 = 0x08#6) : rawX w v = decX08 w v := by
  unfold rawX; rw [h]; rfl
theorem rawX_09 {w v : Word} (h : w.extractLsb' 22 6 = 0x09#6) : rawX w v = decX09 w v := by
  unfold rawX; rw [h]; rfl
theorem rawX_0A {w v : Word} (h : w.extractLsb' 22 6 = 0x0A#6) : rawX w v = decX0A w v := by
  unfold rawX; rw [h]; rfl
theorem rawX_0B {w v : Word} (h : w.extractLsb' 22 6 = 0x0B#6) : rawX w v = decX0B w v := by
  unfold rawX; rw [h]; rfl
theorem rawX_0C {w v : Word} (h : w.extractLsb' 22 6 = 0x0C#6) : rawX w v = decX0C w v := by
  unfold rawX; rw [h]; rfl
theorem rawX_0D {w v : Word} (h : w.extractLsb' 22 6 = 0x0D#6) : rawX w v = decX0D w v := by
  unfold rawX; rw [h]; rfl
theorem rawX_0E {w v : Word} (h : w.extractLsb' 22 6 = 0x0E#6) : rawX w v = decX0E w v := by
  unfold rawX; rw [h]; rfl
theorem rawX_0F {w v : Word} (h : w.extractLsb' 22 6 = 0x0F#6) : rawX w v = decX0F w v := by
  unfold rawX; rw [h]; rfl
theorem rawX_10 {w v : Word} (h : w.extractLsb' 22 6 = 0x10#6) : rawX w v = decX10 w v := by
  unfold rawX; rw [h]; rfl
theorem rawX_11 {w v : Word} (h : w.extractLsb' 22 6 = 0x11#6) : rawX w v = decX11 w v := by
  unfold rawX; rw [h]; rfl
theorem rawX_12 {w v : Word} (h : w.extractLsb' 22 6 = 0x12#6) : rawX w v = decX12 w v := by
  unfold rawX; rw [h]; rfl
theorem rawX_13 {w v : Word} (h : w.extractLsb' 22 6 = 0x13#6) : rawX w v = decX13 w v := by
  unfold rawX; rw [h]; rfl
theorem rawX_14 {w v : Word} (h : w.extractLsb' 22 6 = 0x14#6) : rawX w v = decX14 w v := by
  unfold rawX; rw [h]; rfl
theorem rawX_15 {w v : Word} (h : w.extractLsb' 22 6 = 0x15#6) : rawX w v = decX15 w v := by
  unfold rawX; rw [h]; rfl
theorem rawX_16 {w v : Word} (h : w.extractLsb' 22 6 = 0x16#6) : rawX w v = decX16 w v := by
  unfold rawX; rw [h]; rfl
theorem rawX_17 {w v : Word} (h : w.extractLsb' 22 6 = 0x17#6) : rawX w v = decX17 w v := by
  unfold rawX; rw [h]; rfl
theorem rawX_18 {w v : Word} (h : w.extractLsb' 22 6 = 0x18#6) : rawX w v = decX18 w v := by
  unfold rawX; rw [h]; rfl
theorem rawX_19 {w v : Word} (h : w.extractLsb' 22 6 = 0x19#6) : rawX w v = decX19 w v := by
  unfold rawX; rw [h]; rfl
theorem rawX_1A {w v : Word} (h : w.extractLsb' 22 6 = 0x1A#6) : rawX w v = decX1A w v := by
  unfold rawX; rw [h]; rfl
theorem rawX_1B {w v : Word} (h : w.extractLsb' 22 6 = 0x1B#6) : rawX w v = decX1B w v := by
  unfold rawX; rw [h]; rfl
theorem rawX_1C {w v : Word} (h : w.extractLsb' 22 6 = 0x1C#6) : rawX w v = decX1C w v := by
  unfold rawX; rw [h]; rfl
theorem rawX_1D {w v : Word} (h : w.extractLsb' 22 6 = 0x1D#6) : rawX w v = decX1D w v := by
  unfold rawX; rw [h]; rfl
theorem rawX_1E {w v : Word} (h : w.extractLsb' 22 6 = 0x1E#6) : rawX w v = decX1E w v := by
  unfold rawX; rw [h]; rfl
theorem rawX_1F {w v : Word} (h : w.extractLsb' 22 6 = 0x1F#6) : rawX w v = decX1F w v := by
  unfold rawX; rw [h]; rfl
theorem rawX_20 {w v : Word} (h : w.extractLsb' 22 6 = 0x20#6) : rawX w v = decX20 w v := by
  unfold rawX; rw [h]; rfl
theorem rawX_21 {w v : Word} (h : w.extractLsb' 22 6 = 0x21#6) : rawX w v = decX21 w v := by
  unfold rawX; rw [h]; rfl
theorem rawX_22 {w v : Word} (h : w.extractLsb' 22 6 = 0x22#6) : rawX w v = decX22 w v := by
  unfold rawX; rw [h]; rfl
theorem rawX_23 {w v : Word} (h : w.extractLsb' 22 6 = 0x23#6) : rawX w v = decX23 w v := by
  unfold rawX; rw [h]; rfl
theorem rawX_24 {w v : Word} (h : w.extractLsb' 22 6 = 0x24#6) : rawX w v = decX24 w v := by
  unfold rawX; rw [h]; rfl
theorem rawX_25 {w v : Word} (h : w.extractLsb' 22 6 = 0x25#6) : rawX w v = decX25 w v := by
  unfold rawX; rw [h]; rfl
theorem rawX_26 {w v : Word} (h : w.extractLsb' 22 6 = 0x26#6) : rawX w v = decX26 w v := by
  unfold rawX; rw [h]; rfl
theorem rawX_28 {w v : Word} (h : w.extractLsb' 22 6 = 0x28#6) : rawX w v = decX28 w v := by
  unfold rawX; rw [h]; rfl
theorem rawX_29 {w v : Word} (h : w.extractLsb' 22 6 = 0x29#6) : rawX w v = decX29 w v := by
  unfold rawX; rw [h]; rfl
theorem rawX_2A {w v : Word} (h : w.extractLsb' 22 6 = 0x2A#6) : rawX w v = decX2A w v := by
  unfold rawX; rw [h]; rfl
theorem rawX_2B {w v : Word} (h : w.extractLsb' 22 6 = 0x2B#6) : rawX w v = decX2B w v := by
  unfold rawX; rw [h]; rfl
theorem rawX_2C {w v : Word} (h : w.extractLsb' 22 6 = 0x2C#6) : rawX w v = decX2C w v := by
  unfold rawX; rw [h]; rfl
theorem rawX_2D {w v : Word} (h : w.extractLsb' 22 6 = 0x2D#6) : rawX w v = decX2D w v := by
  unfold rawX; rw [h]; rfl
theorem rawX_2E {w v : Word} (h : w.extractLsb' 22 6 = 0x2E#6) : rawX w v = decX2E w v := by
  unfold rawX; rw [h]; rfl
theorem rawX_2F {w v : Word} (h : w.extractLsb' 22 6 = 0x2F#6) : rawX w v = decX2F w v := by
  unfold rawX; rw [h]; rfl
theorem rawX_34 {w v : Word} (h : w.extractLsb' 22 6 = 0x34#6) : rawX w v = decX34 w v := by
  unfold rawX; rw [h]; rfl
theorem rawX_35 {w v : Word} (h : w.extractLsb' 22 6 = 0x35#6) : rawX w v = decX35 w v := by
  unfold rawX; rw [h]; rfl
theorem rawX_36 {w v : Word} (h : w.extractLsb' 22 6 = 0x36#6) : rawX w v = decX36 w v := by
  unfold rawX; rw [h]; rfl
theorem rawX_37 {w v : Word} (h : w.extractLsb' 22 6 = 0x37#6) : rawX w v = decX37 w v := by
  unfold rawX; rw [h]; rfl
theorem rawX_38 {w v : Word} (h : w.extractLsb' 22 6 = 0x38#6) : rawX w v = decX38 w v := by
  unfold rawX; rw [h]; rfl
theorem rawX_39 {w v : Word} (h : w.extractLsb' 22 6 = 0x39#6) : rawX w v = decX39 w v := by
  unfold rawX; rw [h]; rfl
theorem rawX_3A {w v : Word} (h : w.extractLsb' 22 6 = 0x3A#6) : rawX w v = decX3A w v := by
  unfold rawX; rw [h]; rfl
theorem rawX_3B {w v : Word} (h : w.extractLsb' 22 6 = 0x3B#6) : rawX w v = decX3B w v := by
  unfold rawX; rw [h]; rfl
theorem rawX_3C {w v : Word} (h : w.extractLsb' 22 6 = 0x3C#6) : rawX w v = decX3C w v := by
  unfold rawX; rw [h]; rfl
theorem rawX_3D {w v : Word} (h : w.extractLsb' 22 6 = 0x3D#6) : rawX w v = decX3D w v := by
  unfold rawX; rw [h]; rfl
theorem rawX_30 {w v : Word} (h : w.extractLsb' 22 6 = 0x30#6) : rawX w v = decA30 w v := by
  unfold rawX; rw [h]; rfl
theorem rawX_31 {w v : Word} (h : w.extractLsb' 22 6 = 0x31#6) : rawX w v = decA31 w v := by
  unfold rawX; rw [h]; rfl
theorem rawX_32 {w v : Word} (h : w.extractLsb' 22 6 = 0x32#6) : rawX w v = decA32 w v := by
  unfold rawX; rw [h]; rfl
theorem rawX_33 {w v : Word} (h : w.extractLsb' 22 6 = 0x33#6) : rawX w v = decA33 w v := by
  unfold rawX; rw [h]; rfl

/-! The constructors. -/

theorem add r rd rs1 rs2 : Statement (.add r rd rs1 rs2) :=
  a1 (m := 0x00#6) rfl rfl rfl (by simp [Ring.waits, Ring.sigs, BitVec.extractLsb'_or]) (fun v h => by rw [rawA_00 h]; simp [decA00, Ring.one, Ring.waits, Ring.sigs, Ring.none, BitVec.extractLsb'_or])
theorem sub r rd rs1 rs2 : Statement (.sub r rd rs1 rs2) :=
  a1 (m := 0x00#6) rfl rfl rfl (by simp [Ring.waits, Ring.sigs, BitVec.extractLsb'_or]) (fun v h => by rw [rawA_00 h]; simp [decA00, Ring.one, Ring.waits, Ring.sigs, Ring.none, BitVec.extractLsb'_or])
theorem mul r rd rs1 rs2 : Statement (.mul r rd rs1 rs2) :=
  a1 (m := 0x00#6) rfl rfl rfl (by simp [Ring.waits, Ring.sigs, BitVec.extractLsb'_or]) (fun v h => by rw [rawA_00 h]; simp [decA00, Ring.one, Ring.waits, Ring.sigs, Ring.none, BitVec.extractLsb'_or])
theorem mulh r rd rs1 rs2 : Statement (.mulh r rd rs1 rs2) :=
  a1 (m := 0x00#6) rfl rfl rfl (by simp [Ring.waits, Ring.sigs, BitVec.extractLsb'_or]) (fun v h => by rw [rawA_00 h]; simp [decA00, Ring.one, Ring.waits, Ring.sigs, Ring.none, BitVec.extractLsb'_or])
theorem mulhu r rd rs1 rs2 : Statement (.mulhu r rd rs1 rs2) :=
  a1 (m := 0x00#6) rfl rfl rfl (by simp [Ring.waits, Ring.sigs, BitVec.extractLsb'_or]) (fun v h => by rw [rawA_00 h]; simp [decA00, Ring.one, Ring.waits, Ring.sigs, Ring.none, BitVec.extractLsb'_or])
theorem div r rd rs1 rs2 : Statement (.div r rd rs1 rs2) :=
  a1 (m := 0x00#6) rfl rfl rfl (by simp [Ring.waits, Ring.sigs, BitVec.extractLsb'_or]) (fun v h => by rw [rawA_00 h]; simp [decA00, Ring.one, Ring.waits, Ring.sigs, Ring.none, BitVec.extractLsb'_or])
theorem divu r rd rs1 rs2 : Statement (.divu r rd rs1 rs2) :=
  a1 (m := 0x00#6) rfl rfl rfl (by simp [Ring.waits, Ring.sigs, BitVec.extractLsb'_or]) (fun v h => by rw [rawA_00 h]; simp [decA00, Ring.one, Ring.waits, Ring.sigs, Ring.none, BitVec.extractLsb'_or])
theorem rem r rd rs1 rs2 : Statement (.rem r rd rs1 rs2) :=
  a1 (m := 0x00#6) rfl rfl rfl (by simp [Ring.waits, Ring.sigs, BitVec.extractLsb'_or]) (fun v h => by rw [rawA_00 h]; simp [decA00, Ring.one, Ring.waits, Ring.sigs, Ring.none, BitVec.extractLsb'_or])
theorem remu r rd rs1 rs2 : Statement (.remu r rd rs1 rs2) :=
  a1 (m := 0x00#6) rfl rfl rfl (by simp [Ring.waits, Ring.sigs, BitVec.extractLsb'_or]) (fun v h => by rw [rawA_00 h]; simp [decA00, Ring.one, Ring.waits, Ring.sigs, Ring.none, BitVec.extractLsb'_or])
theorem min r rd rs1 rs2 : Statement (.min r rd rs1 rs2) :=
  a1 (m := 0x00#6) rfl rfl rfl (by simp [Ring.waits, Ring.sigs, BitVec.extractLsb'_or]) (fun v h => by rw [rawA_00 h]; simp [decA00, Ring.one, Ring.waits, Ring.sigs, Ring.none, BitVec.extractLsb'_or])
theorem minu r rd rs1 rs2 : Statement (.minu r rd rs1 rs2) :=
  a1 (m := 0x00#6) rfl rfl rfl (by simp [Ring.waits, Ring.sigs, BitVec.extractLsb'_or]) (fun v h => by rw [rawA_00 h]; simp [decA00, Ring.one, Ring.waits, Ring.sigs, Ring.none, BitVec.extractLsb'_or])
theorem max r rd rs1 rs2 : Statement (.max r rd rs1 rs2) :=
  a1 (m := 0x00#6) rfl rfl rfl (by simp [Ring.waits, Ring.sigs, BitVec.extractLsb'_or]) (fun v h => by rw [rawA_00 h]; simp [decA00, Ring.one, Ring.waits, Ring.sigs, Ring.none, BitVec.extractLsb'_or])
theorem maxu r rd rs1 rs2 : Statement (.maxu r rd rs1 rs2) :=
  a1 (m := 0x00#6) rfl rfl rfl (by simp [Ring.waits, Ring.sigs, BitVec.extractLsb'_or]) (fun v h => by rw [rawA_00 h]; simp [decA00, Ring.one, Ring.waits, Ring.sigs, Ring.none, BitVec.extractLsb'_or])
theorem shl r rd rs1 rs2 : Statement (.shl r rd rs1 rs2) :=
  a1 (m := 0x00#6) rfl rfl rfl (by simp [Ring.waits, Ring.sigs, BitVec.extractLsb'_or]) (fun v h => by rw [rawA_00 h]; simp [decA00, Ring.one, Ring.waits, Ring.sigs, Ring.none, BitVec.extractLsb'_or])
theorem shr r rd rs1 rs2 : Statement (.shr r rd rs1 rs2) :=
  a1 (m := 0x00#6) rfl rfl rfl (by simp [Ring.waits, Ring.sigs, BitVec.extractLsb'_or]) (fun v h => by rw [rawA_00 h]; simp [decA00, Ring.one, Ring.waits, Ring.sigs, Ring.none, BitVec.extractLsb'_or])
theorem sar r rd rs1 rs2 : Statement (.sar r rd rs1 rs2) :=
  a1 (m := 0x00#6) rfl rfl rfl (by simp [Ring.waits, Ring.sigs, BitVec.extractLsb'_or]) (fun v h => by rw [rawA_00 h]; simp [decA00, Ring.one, Ring.waits, Ring.sigs, Ring.none, BitVec.extractLsb'_or])
theorem and r rd rs1 rs2 : Statement (.and r rd rs1 rs2) :=
  a1 (m := 0x00#6) rfl rfl rfl (by simp [Ring.waits, Ring.sigs, BitVec.extractLsb'_or]) (fun v h => by rw [rawA_00 h]; simp [decA00, Ring.one, Ring.waits, Ring.sigs, Ring.none, BitVec.extractLsb'_or])
theorem or r rd rs1 rs2 : Statement (.or r rd rs1 rs2) :=
  a1 (m := 0x00#6) rfl rfl rfl (by simp [Ring.waits, Ring.sigs, BitVec.extractLsb'_or]) (fun v h => by rw [rawA_00 h]; simp [decA00, Ring.one, Ring.waits, Ring.sigs, Ring.none, BitVec.extractLsb'_or])
theorem xor r rd rs1 rs2 : Statement (.xor r rd rs1 rs2) :=
  a1 (m := 0x00#6) rfl rfl rfl (by simp [Ring.waits, Ring.sigs, BitVec.extractLsb'_or]) (fun v h => by rw [rawA_00 h]; simp [decA00, Ring.one, Ring.waits, Ring.sigs, Ring.none, BitVec.extractLsb'_or])
theorem clz r rd rs1 : Statement (.clz r rd rs1) :=
  a1 (m := 0x00#6) rfl rfl rfl (by simp [Ring.waits, Ring.sigs, BitVec.extractLsb'_or]) (fun v h => by rw [rawA_00 h]; simp [decA00, Ring.one, Ring.waits, Ring.sigs, Ring.none, BitVec.extractLsb'_or])
theorem popc r rd rs1 : Statement (.popc r rd rs1) :=
  a1 (m := 0x00#6) rfl rfl rfl (by simp [Ring.waits, Ring.sigs, BitVec.extractLsb'_or]) (fun v h => by rw [rawA_00 h]; simp [decA00, Ring.one, Ring.waits, Ring.sigs, Ring.none, BitVec.extractLsb'_or])
theorem addi r rd rs1 imm : Statement (.addi r rd rs1 imm) :=
  a1 (m := 0x01#6) rfl rfl rfl (by simp [Ring.waits, Ring.sigs, BitVec.extractLsb'_or]) (fun v h => by rw [rawA_01 h]; simp [decA01, Ring.one, Ring.waits, Ring.sigs, Ring.none, BitVec.extractLsb'_or])
theorem andi r rd rs1 imm : Statement (.andi r rd rs1 imm) :=
  a1 (m := 0x02#6) rfl rfl rfl (by simp [Ring.waits, Ring.sigs, BitVec.extractLsb'_or]) (fun v h => by rw [rawA_02 h]; simp [decA02, Ring.one, Ring.waits, Ring.sigs, Ring.none, BitVec.extractLsb'_or])
theorem ori r rd rs1 imm : Statement (.ori r rd rs1 imm) :=
  a1 (m := 0x03#6) rfl rfl rfl (by simp [Ring.waits, Ring.sigs, BitVec.extractLsb'_or]) (fun v h => by rw [rawA_03 h]; simp [decA03, Ring.one, Ring.waits, Ring.sigs, Ring.none, BitVec.extractLsb'_or])
theorem xori r rd rs1 imm : Statement (.xori r rd rs1 imm) :=
  a1 (m := 0x04#6) rfl rfl rfl (by simp [Ring.waits, Ring.sigs, BitVec.extractLsb'_or]) (fun v h => by rw [rawA_04 h]; simp [decA04, Ring.one, Ring.waits, Ring.sigs, Ring.none, BitVec.extractLsb'_or])
theorem shli r rd rs1 sh : Statement (.shli r rd rs1 sh) :=
  a1 (m := 0x05#6) rfl rfl rfl (by simp [Ring.waits, Ring.sigs, BitVec.extractLsb'_or]) (fun v h => by rw [rawA_05 h]; simp [decA05, Ring.one, Ring.waits, Ring.sigs, Ring.none, BitVec.extractLsb'_or])
theorem shri r rd rs1 sh : Statement (.shri r rd rs1 sh) :=
  a1 (m := 0x06#6) rfl rfl rfl (by simp [Ring.waits, Ring.sigs, BitVec.extractLsb'_or]) (fun v h => by rw [rawA_06 h]; simp [decA06, Ring.one, Ring.waits, Ring.sigs, Ring.none, BitVec.extractLsb'_or])
theorem sari r rd rs1 sh : Statement (.sari r rd rs1 sh) :=
  a1 (m := 0x07#6) rfl rfl rfl (by simp [Ring.waits, Ring.sigs, BitVec.extractLsb'_or]) (fun v h => by rw [rawA_07 h]; simp [decA07, Ring.one, Ring.waits, Ring.sigs, Ring.none, BitVec.extractLsb'_or])
theorem li r rd imm : Statement (.li r rd imm) :=
  a1 (m := 0x08#6) rfl rfl rfl (by simp [Ring.waits, Ring.sigs, BitVec.extractLsb'_or]) (fun v h => by rw [rawA_08 h]; simp [decA08, Ring.one, Ring.waits, Ring.sigs, Ring.none, BitVec.extractLsb'_or])
theorem lui r rd imm : Statement (.lui r rd imm) :=
  a1 (m := 0x09#6) rfl rfl rfl (by simp [Ring.waits, Ring.sigs, BitVec.extractLsb'_or]) (fun v h => by rw [rawA_09 h]; simp [decA09, Ring.one, Ring.waits, Ring.sigs, Ring.none, BitVec.extractLsb'_or])
theorem cmp r qd rs1 rs2 cond : Statement (.cmp r qd rs1 rs2 cond) :=
  a1 (m := 0x0A#6) rfl rfl rfl (by simp [Ring.waits, Ring.sigs, BitVec.extractLsb'_or]) (fun v h => by rw [rawA_0A h]; simp [decA0A, Ring.one, Ring.waits, Ring.sigs, Ring.none, BitVec.extractLsb'_or])
theorem cmpi r qd rs1 cond imm : Statement (.cmpi r qd rs1 cond imm) :=
  a1 (m := 0x0B#6) rfl rfl rfl (by simp [Ring.waits, Ring.sigs, BitVec.extractLsb'_or]) (fun v h => by rw [rawA_0B h]; simp [decA0B, Ring.one, Ring.waits, Ring.sigs, Ring.none, BitVec.extractLsb'_or])
theorem pand r qd qa qb : Statement (.pand r qd qa qb) :=
  a1 (m := 0x0C#6) rfl rfl rfl (by simp [Ring.waits, Ring.sigs, BitVec.extractLsb'_or]) (fun v h => by rw [rawA_0C h]; simp [decA0C, Ring.one, Ring.waits, Ring.sigs, Ring.none, BitVec.extractLsb'_or])
theorem por r qd qa qb : Statement (.por r qd qa qb) :=
  a1 (m := 0x0C#6) rfl rfl rfl (by simp [Ring.waits, Ring.sigs, BitVec.extractLsb'_or]) (fun v h => by rw [rawA_0C h]; simp [decA0C, Ring.one, Ring.waits, Ring.sigs, Ring.none, BitVec.extractLsb'_or])
theorem pxor r qd qa qb : Statement (.pxor r qd qa qb) :=
  a1 (m := 0x0C#6) rfl rfl rfl (by simp [Ring.waits, Ring.sigs, BitVec.extractLsb'_or]) (fun v h => by rw [rawA_0C h]; simp [decA0C, Ring.one, Ring.waits, Ring.sigs, Ring.none, BitVec.extractLsb'_or])
theorem pnot r qd qa : Statement (.pnot r qd qa) :=
  a1 (m := 0x0C#6) rfl rfl rfl (by simp [Ring.waits, Ring.sigs, BitVec.extractLsb'_or]) (fun v h => by rw [rawA_0C h]; simp [decA0C, Ring.one, Ring.waits, Ring.sigs, Ring.none, BitVec.extractLsb'_or])
theorem sel r rd rs1 rs2 q : Statement (.sel r rd rs1 rs2 q) :=
  a2 (m := 0x0D#6) rfl rfl rfl (by simp [Ring.waits, Ring.sigs, BitVec.extractLsb'_or]) (fun h => by rw [rawA_0D h]; simp [decA0D, Ring.two, Ring.waits, Ring.sigs, Ring.none, BitVec.extractLsb'_or])
theorem csrr r rd csr : Statement (.csrr r rd csr) :=
  a1 (m := 0x0E#6) rfl rfl rfl (by simp [Ring.waits, Ring.sigs, BitVec.extractLsb'_or]) (fun v h => by rw [rawA_0E h]; simp [decA0E, Ring.one, Ring.waits, Ring.sigs, Ring.none, BitVec.extractLsb'_or])
theorem csrw r rs csr : Statement (.csrw r rs csr) :=
  a1 (m := 0x0F#6) rfl rfl rfl (by simp [Ring.waits, Ring.sigs, BitVec.extractLsb'_or]) (fun v h => by rw [rawA_0F h]; simp [decA0F, Ring.one, Ring.waits, Ring.sigs, Ring.none, BitVec.extractLsb'_or])
theorem b r q n off : Statement (.b r q n off) :=
  a1 (m := 0x10#6) rfl rfl rfl (by simp [Ring.waits, Ring.sigs, BitVec.extractLsb'_or]) (fun v h => by rw [rawA_10 h]; simp [decA10, Ring.one, Ring.waits, Ring.sigs, Ring.none, BitVec.extractLsb'_or])
theorem j r target : Statement (.j r target) :=
  a1 (m := 0x11#6) rfl rfl rfl (by simp [Ring.waits, Ring.sigs, BitVec.extractLsb'_or]) (fun v h => by rw [rawA_11 h]; simp [decA11, Ring.one, Ring.waits, Ring.sigs, Ring.none, BitVec.extractLsb'_or])
theorem jal r rd target : Statement (.jal r rd target) :=
  a1 (m := 0x12#6) rfl rfl rfl (by simp [Ring.waits, Ring.sigs, BitVec.extractLsb'_or]) (fun v h => by rw [rawA_12 h]; simp [decA12, Ring.one, Ring.waits, Ring.sigs, Ring.none, BitVec.extractLsb'_or])
theorem jr r rs : Statement (.jr r rs) :=
  a1 (m := 0x13#6) rfl rfl rfl (by simp [Ring.waits, Ring.sigs, BitVec.extractLsb'_or]) (fun v h => by rw [rawA_13 h]; simp [decA13, Ring.one, Ring.waits, Ring.sigs, Ring.none, BitVec.extractLsb'_or])
theorem guard r q n cnt : Statement (.guard r q n cnt) :=
  a1 (m := 0x14#6) rfl rfl rfl (by simp [Ring.waits, Ring.sigs, BitVec.extractLsb'_or]) (fun v h => by rw [rawA_14 h]; simp [decA14, Ring.one, Ring.waits, Ring.sigs, Ring.none, BitVec.extractLsb'_or])
theorem loop r l rs tgt : Statement (.loop r l rs tgt) :=
  a1 (m := 0x15#6) rfl rfl rfl (by simp [Ring.waits, Ring.sigs, BitVec.extractLsb'_or]) (fun v h => by rw [rawA_15 h]; simp [decA15, Ring.one, Ring.waits, Ring.sigs, Ring.none, BitVec.extractLsb'_or])
theorem loopsp r rec : Statement (.loopsp r rec) :=
  a1 (m := 0x16#6) rfl rfl rfl (by simp [Ring.waits, Ring.sigs, BitVec.extractLsb'_or]) (fun v h => by rw [rawA_16 h]; simp [decA16, Ring.one, Ring.waits, Ring.sigs, Ring.none, BitVec.extractLsb'_or])
theorem safe r : Statement (.safe r) :=
  a1 (m := 0x17#6) rfl rfl rfl (by simp [Ring.waits, Ring.sigs, BitVec.extractLsb'_or]) (fun v h => by rw [rawA_17 h]; simp [decA17, Ring.one, Ring.waits, Ring.sigs, Ring.none, BitVec.extractLsb'_or])
theorem rdv r : Statement (.rdv r) :=
  a1 (m := 0x17#6) rfl rfl rfl (by simp [Ring.waits, Ring.sigs, BitVec.extractLsb'_or]) (fun v h => by rw [rawA_17 h]; simp [decA17, Ring.one, Ring.waits, Ring.sigs, Ring.none, BitVec.extractLsb'_or])
theorem spawn r rs1 rs2 : Statement (.spawn r rs1 rs2) :=
  a1 (m := 0x17#6) rfl rfl rfl (by simp [Ring.waits, Ring.sigs, BitVec.extractLsb'_or]) (fun v h => by rw [rawA_17 h]; simp [decA17, Ring.one, Ring.waits, Ring.sigs, Ring.none, BitVec.extractLsb'_or])
theorem trap r rs : Statement (.trap r rs) :=
  a1 (m := 0x17#6) rfl rfl rfl (by simp [Ring.waits, Ring.sigs, BitVec.extractLsb'_or]) (fun v h => by rw [rawA_17 h]; simp [decA17, Ring.one, Ring.waits, Ring.sigs, Ring.none, BitVec.extractLsb'_or])
theorem hret r : Statement (.hret r) :=
  a1 (m := 0x17#6) rfl rfl rfl (by simp [Ring.waits, Ring.sigs, BitVec.extractLsb'_or]) (fun v h => by rw [rawA_17 h]; simp [decA17, Ring.one, Ring.waits, Ring.sigs, Ring.none, BitVec.extractLsb'_or])
theorem ld r rd rb sz pi sx off : Statement (.ld r rd rb sz pi sx off) :=
  a1 (m := 0x18#6) rfl rfl rfl (by simp [Ring.waits, Ring.sigs, BitVec.extractLsb'_or]) (fun v h => by rw [rawA_18 h]; simp [decA18, Ring.one, Ring.waits, Ring.sigs, Ring.none, BitVec.extractLsb'_or])
theorem st r rs rb sz pi off : Statement (.st r rs rb sz pi off) :=
  a1 (m := 0x19#6) rfl rfl rfl (by simp [Ring.waits, Ring.sigs, BitVec.extractLsb'_or]) (fun v h => by rw [rawA_19 h]; simp [decA19, Ring.one, Ring.waits, Ring.sigs, Ring.none, BitVec.extractLsb'_or])
theorem ldp r rd rb sz pi off : Statement (.ldp r rd rb sz pi off) :=
  a1 (m := 0x1A#6) rfl rfl rfl (by simp [Ring.waits, Ring.sigs, BitVec.extractLsb'_or]) (fun v h => by rw [rawA_1A h]; simp [decA1A, Ring.one, Ring.waits, Ring.sigs, Ring.none, BitVec.extractLsb'_or])
theorem ldpF r rd rb sz off : Statement (.ldpF r rd rb sz off) :=
  a1 (m := 0x1A#6) rfl rfl rfl (by simp [Ring.waits, Ring.sigs, BitVec.extractLsb'_or]) (fun v h => by rw [rawA_1A h]; simp [decA1A, Ring.one, Ring.waits, Ring.sigs, Ring.none, BitVec.extractLsb'_or])
theorem stp r rs rb sz pi off : Statement (.stp r rs rb sz pi off) :=
  a1 (m := 0x1B#6) rfl rfl rfl (by simp [Ring.waits, Ring.sigs, BitVec.extractLsb'_or]) (fun v h => by rw [rawA_1B h]; simp [decA1B, Ring.one, Ring.waits, Ring.sigs, Ring.none, BitVec.extractLsb'_or])
theorem stpE r rs rb sz off : Statement (.stpE r rs rb sz off) :=
  a1 (m := 0x1B#6) rfl rfl rfl (by simp [Ring.waits, Ring.sigs, BitVec.extractLsb'_or]) (fun v h => by rw [rawA_1B h]; simp [decA1B, Ring.one, Ring.waits, Ring.sigs, Ring.none, BitVec.extractLsb'_or])
theorem lda r rd rb ord sc d8 : Statement (.lda r rd rb ord sc d8) :=
  a1 (m := 0x1C#6) rfl rfl rfl (by simp [Ring.waits, Ring.sigs, BitVec.extractLsb'_or]) (fun v h => by rw [rawA_1C h]; simp [decA1C, Ring.one, Ring.waits, Ring.sigs, Ring.none, BitVec.extractLsb'_or])
theorem stl r rb rs ord sc d8 : Statement (.stl r rb rs ord sc d8) :=
  a1 (m := 0x1D#6) rfl rfl rfl (by simp [Ring.waits, Ring.sigs, BitVec.extractLsb'_or]) (fun v h => by rw [rawA_1D h]; simp [decA1D, Ring.one, Ring.waits, Ring.sigs, Ring.none, BitVec.extractLsb'_or])
theorem amoAdd r rd rb rs ord sc d8 : Statement (.amoAdd r rd rb rs ord sc d8) :=
  a2 (m := 0x1E#6) rfl rfl rfl (by simp [Ring.waits, Ring.sigs, BitVec.extractLsb'_or]) (fun h => by rw [rawA_1E h]; simp [decA1E, Ring.two, Ring.waits, Ring.sigs, Ring.none, BitVec.extractLsb'_or])
theorem amoAnd r rd rb rs ord sc d8 : Statement (.amoAnd r rd rb rs ord sc d8) :=
  a2 (m := 0x1E#6) rfl rfl rfl (by simp [Ring.waits, Ring.sigs, BitVec.extractLsb'_or]) (fun h => by rw [rawA_1E h]; simp [decA1E, Ring.two, Ring.waits, Ring.sigs, Ring.none, BitVec.extractLsb'_or])
theorem amoOr r rd rb rs ord sc d8 : Statement (.amoOr r rd rb rs ord sc d8) :=
  a2 (m := 0x1E#6) rfl rfl rfl (by simp [Ring.waits, Ring.sigs, BitVec.extractLsb'_or]) (fun h => by rw [rawA_1E h]; simp [decA1E, Ring.two, Ring.waits, Ring.sigs, Ring.none, BitVec.extractLsb'_or])
theorem amoXor r rd rb rs ord sc d8 : Statement (.amoXor r rd rb rs ord sc d8) :=
  a2 (m := 0x1E#6) rfl rfl rfl (by simp [Ring.waits, Ring.sigs, BitVec.extractLsb'_or]) (fun h => by rw [rawA_1E h]; simp [decA1E, Ring.two, Ring.waits, Ring.sigs, Ring.none, BitVec.extractLsb'_or])
theorem amoMin r rd rb rs ord sc d8 : Statement (.amoMin r rd rb rs ord sc d8) :=
  a2 (m := 0x1E#6) rfl rfl rfl (by simp [Ring.waits, Ring.sigs, BitVec.extractLsb'_or]) (fun h => by rw [rawA_1E h]; simp [decA1E, Ring.two, Ring.waits, Ring.sigs, Ring.none, BitVec.extractLsb'_or])
theorem amoMax r rd rb rs ord sc d8 : Statement (.amoMax r rd rb rs ord sc d8) :=
  a2 (m := 0x1E#6) rfl rfl rfl (by simp [Ring.waits, Ring.sigs, BitVec.extractLsb'_or]) (fun h => by rw [rawA_1E h]; simp [decA1E, Ring.two, Ring.waits, Ring.sigs, Ring.none, BitVec.extractLsb'_or])
theorem amoMinU r rd rb rs ord sc d8 : Statement (.amoMinU r rd rb rs ord sc d8) :=
  a2 (m := 0x1E#6) rfl rfl rfl (by simp [Ring.waits, Ring.sigs, BitVec.extractLsb'_or]) (fun h => by rw [rawA_1E h]; simp [decA1E, Ring.two, Ring.waits, Ring.sigs, Ring.none, BitVec.extractLsb'_or])
theorem amoMaxU r rd rb rs ord sc d8 : Statement (.amoMaxU r rd rb rs ord sc d8) :=
  a2 (m := 0x1E#6) rfl rfl rfl (by simp [Ring.waits, Ring.sigs, BitVec.extractLsb'_or]) (fun h => by rw [rawA_1E h]; simp [decA1E, Ring.two, Ring.waits, Ring.sigs, Ring.none, BitVec.extractLsb'_or])
theorem amoSwap r rd rb rs ord sc d8 : Statement (.amoSwap r rd rb rs ord sc d8) :=
  a2 (m := 0x1E#6) rfl rfl rfl (by simp [Ring.waits, Ring.sigs, BitVec.extractLsb'_or]) (fun h => by rw [rawA_1E h]; simp [decA1E, Ring.two, Ring.waits, Ring.sigs, Ring.none, BitVec.extractLsb'_or])
theorem cas r rd rb rs ord sc d8 : Statement (.cas r rd rb rs ord sc d8) :=
  a1 (m := 0x1F#6) rfl rfl rfl (by simp [Ring.waits, Ring.sigs, BitVec.extractLsb'_or]) (fun v h => by rw [rawA_1F h]; simp [decA1F, Ring.one, Ring.waits, Ring.sigs, Ring.none, BitVec.extractLsb'_or])
theorem fence r ord sc : Statement (.fence r ord sc) :=
  a1 (m := 0x20#6) rfl rfl rfl (by simp [Ring.waits, Ring.sigs, BitVec.extractLsb'_or]) (fun v h => by rw [rawA_20 h]; simp [decA20, Ring.one, Ring.waits, Ring.sigs, Ring.none, BitVec.extractLsb'_or])
theorem phase r sc : Statement (.phase r sc) :=
  a1 (m := 0x21#6) rfl rfl rfl (by simp [Ring.waits, Ring.sigs, BitVec.extractLsb'_or]) (fun v h => by rw [rawA_21 h]; simp [decA21, Ring.one, Ring.waits, Ring.sigs, Ring.none, BitVec.extractLsb'_or])
theorem tkw r succ cnt : Statement (.tkw r succ cnt) :=
  a1 (m := 0x34#6) rfl rfl rfl (by simp [Ring.waits, Ring.sigs, BitVec.extractLsb'_or]) (fun v h => by rw [rawA_34 h]; simp [decA34, Ring.one, Ring.waits, Ring.sigs, Ring.none, BitVec.extractLsb'_or])
theorem tks r succ cnt : Statement (.tks r succ cnt) :=
  a1 (m := 0x34#6) rfl rfl rfl (by simp [Ring.waits, Ring.sigs, BitVec.extractLsb'_or]) (fun v h => by rw [rawA_34 h]; simp [decA34, Ring.one, Ring.waits, Ring.sigs, Ring.none, BitVec.extractLsb'_or])
theorem stw r rd : Statement (.stw r rd) :=
  a1 (m := 0x34#6) rfl rfl rfl (by simp [Ring.waits, Ring.sigs, BitVec.extractLsb'_or]) (fun v h => by rw [rawA_34 h]; simp [decA34, Ring.one, Ring.waits, Ring.sigs, Ring.none, BitVec.extractLsb'_or])
theorem poprpl r rd any tag : Statement (.poprpl r rd any tag) :=
  a1 (m := 0x35#6) rfl rfl rfl (by simp [Ring.waits, Ring.sigs, BitVec.extractLsb'_or]) (fun v h => by rw [rawA_35 h]; simp [decA35, Ring.one, Ring.waits, Ring.sigs, Ring.none, BitVec.extractLsb'_or])
theorem sqpush r rs cnt : Statement (.sqpush r rs cnt) :=
  a1 (m := 0x36#6) rfl rfl rfl (by simp [Ring.waits, Ring.sigs, BitVec.extractLsb'_or]) (fun v h => by rw [rawA_36 h]; simp [decA36, Ring.one, Ring.waits, Ring.sigs, Ring.none, BitVec.extractLsb'_or])
theorem sqbind r ub port : Statement (.sqbind r ub port) :=
  a1 (m := 0x36#6) rfl rfl rfl (by simp [Ring.waits, Ring.sigs, BitVec.extractLsb'_or]) (fun v h => by rw [rawA_36 h]; simp [decA36, Ring.one, Ring.waits, Ring.sigs, Ring.none, BitVec.extractLsb'_or])
theorem msend r rt ro lines he queue hpc : Statement (.msend r rt ro lines he queue hpc) :=
  a2 (m := 0x37#6) rfl rfl rfl (by simp [Ring.waits, Ring.sigs, BitVec.extractLsb'_or]) (fun h => by rw [rawA_37 h]; simp [decA37, Ring.two, Ring.waits, Ring.sigs, Ring.none, BitVec.extractLsb'_or])
theorem sopen r port rs1 rs2 src dst mfmt rm sm qn : Statement (.sopen r port rs1 rs2 src dst mfmt rm sm qn) :=
  a2 (m := 0x24#6) rfl rfl rfl (by simp [Ring.waits, Ring.sigs, BitVec.extractLsb'_or]) (fun h => by rw [rawA_24 h]; simp [decA24, Ring.two, Ring.waits, Ring.sigs, Ring.none, BitVec.extractLsb'_or])
theorem slev r port rs1 rs2 level imm ext : Statement (.slev r port rs1 rs2 level imm ext) :=
  a2 (m := 0x25#6) rfl rfl rfl (by simp [Ring.waits, Ring.sigs, BitVec.extractLsb'_or]) (fun h => by rw [rawA_25 h]; simp [decA25, Ring.two, Ring.waits, Ring.sigs, Ring.none, BitVec.extractLsb'_or])
theorem sind r port iport rs2 : Statement (.sind r port iport rs2) :=
  a1 (m := 0x26#6) rfl rfl rfl (by simp [Ring.waits, Ring.sigs, BitVec.extractLsb'_or]) (fun v h => by rw [rawA_26 h]; simp [decA26, Ring.one, Ring.waits, Ring.sigs, Ring.none, BitVec.extractLsb'_or])
theorem ssrc r port rs1 : Statement (.ssrc r port rs1) :=
  a1 (m := 0x27#6) rfl rfl rfl (by simp [Ring.waits, Ring.sigs, BitVec.extractLsb'_or]) (fun v h => by rw [rawA_27 h]; simp [decA27, Ring.one, Ring.waits, Ring.sigs, Ring.none, BitVec.extractLsb'_or])
theorem sremote r port rs1 rs2 he queue hpc mc ch : Statement (.sremote r port rs1 rs2 he queue hpc mc ch) :=
  a2 (m := 0x28#6) rfl rfl rfl (by simp [Ring.waits, Ring.sigs, BitVec.extractLsb'_or]) (fun h => by rw [rawA_28 h]; simp [decA28, Ring.two, Ring.waits, Ring.sigs, Ring.none, BitVec.extractLsb'_or])
theorem smerge r ok ka kb oa uni strict ob eoa eob eok tag : Statement (.smerge r ok ka kb oa uni strict ob eoa eob eok tag) :=
  a2 (m := 0x29#6) rfl rfl rfl (by simp [Ring.waits, Ring.sigs, BitVec.extractLsb'_or]) (fun h => by rw [rawA_29 h]; simp [decA29, Ring.two, Ring.waits, Ring.sigs, Ring.none, BitVec.extractLsb'_or])
theorem sbfmt r rs code : Statement (.sbfmt r rs code) :=
  a1 (m := 0x2A#6) rfl rfl rfl (by simp [Ring.waits, Ring.sigs, BitVec.extractLsb'_or]) (fun v h => by rw [rawA_2A h]; simp [decA2A, Ring.one, Ring.waits, Ring.sigs, Ring.none, BitVec.extractLsb'_or])
theorem sgo r port : Statement (.sgo r port) :=
  a1 (m := 0x2B#6) rfl rfl rfl (by simp [Ring.waits, Ring.sigs, BitVec.extractLsb'_or]) (fun v h => by rw [rawA_2B h]; simp [decA2B, Ring.one, Ring.waits, Ring.sigs, Ring.none, BitVec.extractLsb'_or])
theorem sfork r port fork dst : Statement (.sfork r port fork dst) :=
  a1 (m := 0x2B#6) rfl rfl rfl (by simp [Ring.waits, Ring.sigs, BitVec.extractLsb'_or]) (fun v h => by rw [rawA_2B h]; simp [decA2B, Ring.one, Ring.waits, Ring.sigs, Ring.none, BitVec.extractLsb'_or])
theorem smark r port clr auto m : Statement (.smark r port clr auto m) :=
  a1 (m := 0x2B#6) rfl rfl rfl (by simp [Ring.waits, Ring.sigs, BitVec.extractLsb'_or]) (fun v h => by rw [rawA_2B h]; simp [decA2B, Ring.one, Ring.waits, Ring.sigs, Ring.none, BitVec.extractLsb'_or])
theorem srew r port m : Statement (.srew r port m) :=
  a1 (m := 0x2B#6) rfl rfl rfl (by simp [Ring.waits, Ring.sigs, BitVec.extractLsb'_or]) (fun v h => by rw [rawA_2B h]; simp [decA2B, Ring.one, Ring.waits, Ring.sigs, Ring.none, BitVec.extractLsb'_or])
theorem ssave r port rs keep : Statement (.ssave r port rs keep) :=
  a1 (m := 0x2B#6) rfl rfl rfl (by simp [Ring.waits, Ring.sigs, BitVec.extractLsb'_or]) (fun v h => by rw [rawA_2B h]; simp [decA2B, Ring.one, Ring.waits, Ring.sigs, Ring.none, BitVec.extractLsb'_or])
theorem srest r port rs : Statement (.srest r port rs) :=
  a1 (m := 0x2B#6) rfl rfl rfl (by simp [Ring.waits, Ring.sigs, BitVec.extractLsb'_or]) (fun v h => by rw [rawA_2B h]; simp [decA2B, Ring.one, Ring.waits, Ring.sigs, Ring.none, BitVec.extractLsb'_or])
theorem sclose r port : Statement (.sclose r port) :=
  a1 (m := 0x2B#6) rfl rfl rfl (by simp [Ring.waits, Ring.sigs, BitVec.extractLsb'_or]) (fun v h => by rw [rawA_2B h]; simp [decA2B, Ring.one, Ring.waits, Ring.sigs, Ring.none, BitVec.extractLsb'_or])
theorem sstat r port rd : Statement (.sstat r port rd) :=
  a1 (m := 0x2B#6) rfl rfl rfl (by simp [Ring.waits, Ring.sigs, BitVec.extractLsb'_or]) (fun v h => by rw [rawA_2B h]; simp [decA2B, Ring.one, Ring.waits, Ring.sigs, Ring.none, BitVec.extractLsb'_or])
theorem sflush r port : Statement (.sflush r port) :=
  a1 (m := 0x2B#6) rfl rfl rfl (by simp [Ring.waits, Ring.sigs, BitVec.extractLsb'_or]) (fun v h => by rw [rawA_2B h]; simp [decA2B, Ring.one, Ring.waits, Ring.sigs, Ring.none, BitVec.extractLsb'_or])
theorem gtbind r h rs1 : Statement (.gtbind r h rs1) :=
  a1 (m := 0x2C#6) rfl rfl rfl (by simp [Ring.waits, Ring.sigs, BitVec.extractLsb'_or]) (fun v h => by rw [rawA_2C h]; simp [decA2C, Ring.one, Ring.waits, Ring.sigs, Ring.none, BitVec.extractLsb'_or])
theorem gtswap r h rs1 rs2 : Statement (.gtswap r h rs1 rs2) :=
  a1 (m := 0x2C#6) rfl rfl rfl (by simp [Ring.waits, Ring.sigs, BitVec.extractLsb'_or]) (fun v h => by rw [rawA_2C h]; simp [decA2C, Ring.one, Ring.waits, Ring.sigs, Ring.none, BitVec.extractLsb'_or])
theorem gsync r h rs2 : Statement (.gsync r h rs2) :=
  a1 (m := 0x2C#6) rfl rfl rfl (by simp [Ring.waits, Ring.sigs, BitVec.extractLsb'_or]) (fun v h => by rw [rawA_2C h]; simp [decA2C, Ring.one, Ring.waits, Ring.sigs, Ring.none, BitVec.extractLsb'_or])
theorem gath r ri rn rf h dk port rp fz tag : Statement (.gath r ri rn rf h dk port rp fz tag) :=
  a2 (m := 0x2D#6) rfl rfl rfl (by simp [Ring.waits, Ring.sigs, BitVec.extractLsb'_or]) (fun h => by rw [rawA_2D h]; simp [decA2D, Ring.two, Ring.waits, Ring.sigs, Ring.none, BitVec.extractLsb'_or])
theorem gathp r ri rn rf h mean port rb fz tag : Statement (.gathp r ri rn rf h mean port rb fz tag) :=
  a2 (m := 0x2E#6) rfl rfl rfl (by simp [Ring.waits, Ring.sigs, BitVec.extractLsb'_or]) (fun h => by rw [rawA_2E h]; simp [decA2E, Ring.two, Ring.waits, Ring.sigs, Ring.none, BitVec.extractLsb'_or])
theorem scat r ri rn rf h rs tag : Statement (.scat r ri rn rf h rs tag) :=
  a2 (m := 0x2F#6) rfl rfl rfl (by simp [Ring.waits, Ring.sigs, BitVec.extractLsb'_or]) (fun h => by rw [rawA_2F h]; simp [decA2F, Ring.two, Ring.waits, Ring.sigs, Ring.none, BitVec.extractLsb'_or])
theorem scata r ri rn rf h rs tag : Statement (.scata r ri rn rf h rs tag) :=
  a2 (m := 0x2F#6) rfl rfl rfl (by simp [Ring.waits, Ring.sigs, BitVec.extractLsb'_or]) (fun h => by rw [rawA_2F h]; simp [decA2F, Ring.two, Ring.waits, Ring.sigs, Ring.none, BitVec.extractLsb'_or])
theorem bara r ra num : Statement (.bara r ra num) :=
  ax1 (m := 0x30#6) rfl rfl rfl (by simp [Ring.waits, Ring.sigs, BitVec.extractLsb'_or]) (fun v h => by rw [rawA_30 h]; simp [decA30, Ring.one, Ring.waits, Ring.sigs, Ring.none, BitVec.extractLsb'_or])
    (fun v h => by rw [rawX_30 h]; simp [decA30, Ring.one, Ring.waits, Ring.sigs, Ring.none, BitVec.extractLsb'_or])
theorem barw r ra num rb : Statement (.barw r ra num rb) :=
  ax1 (m := 0x30#6) rfl rfl rfl (by simp [Ring.waits, Ring.sigs, BitVec.extractLsb'_or]) (fun v h => by rw [rawA_30 h]; simp [decA30, Ring.one, Ring.waits, Ring.sigs, Ring.none, BitVec.extractLsb'_or])
    (fun v h => by rw [rawX_30 h]; simp [decA30, Ring.one, Ring.waits, Ring.sigs, Ring.none, BitVec.extractLsb'_or])
theorem barwa r ra base rb : Statement (.barwa r ra base rb) :=
  ax1 (m := 0x30#6) rfl rfl rfl (by simp [Ring.waits, Ring.sigs, BitVec.extractLsb'_or]) (fun v h => by rw [rawA_30 h]; simp [decA30, Ring.one, Ring.waits, Ring.sigs, Ring.none, BitVec.extractLsb'_or])
    (fun v h => by rw [rawX_30 h]; simp [decA30, Ring.one, Ring.waits, Ring.sigs, Ring.none, BitVec.extractLsb'_or])
theorem barinit r ra num : Statement (.barinit r ra num) :=
  ax1 (m := 0x31#6) rfl rfl rfl (by simp [Ring.waits, Ring.sigs, BitVec.extractLsb'_or]) (fun v h => by rw [rawA_31 h]; simp [decA31, Ring.one, Ring.waits, Ring.sigs, Ring.none, BitVec.extractLsb'_or])
    (fun v h => by rw [rawX_31 h]; simp [decA31, Ring.one, Ring.waits, Ring.sigs, Ring.none, BitVec.extractLsb'_or])
theorem barinitFree r num : Statement (.barinitFree r num) :=
  ax1 (m := 0x31#6) rfl rfl rfl (by simp [Ring.waits, Ring.sigs, BitVec.extractLsb'_or]) (fun v h => by rw [rawA_31 h]; simp [decA31, Ring.one, Ring.waits, Ring.sigs, Ring.none, BitVec.extractLsb'_or])
    (fun v h => by rw [rawX_31 h]; simp [decA31, Ring.one, Ring.waits, Ring.sigs, Ring.none, BitVec.extractLsb'_or])
theorem sems r ra v : Statement (.sems r ra v) :=
  ax1 (m := 0x32#6) rfl rfl rfl (by simp [Ring.waits, Ring.sigs, BitVec.extractLsb'_or]) (fun v h => by rw [rawA_32 h]; simp [decA32, Ring.one, Ring.waits, Ring.sigs, Ring.none, BitVec.extractLsb'_or])
    (fun v h => by rw [rawX_32 h]; simp [decA32, Ring.one, Ring.waits, Ring.sigs, Ring.none, BitVec.extractLsb'_or])
theorem semw r ra v : Statement (.semw r ra v) :=
  ax1 (m := 0x32#6) rfl rfl rfl (by simp [Ring.waits, Ring.sigs, BitVec.extractLsb'_or]) (fun v h => by rw [rawA_32 h]; simp [decA32, Ring.one, Ring.waits, Ring.sigs, Ring.none, BitVec.extractLsb'_or])
    (fun v h => by rw [rawX_32 h]; simp [decA32, Ring.one, Ring.waits, Ring.sigs, Ring.none, BitVec.extractLsb'_or])
theorem semwt r ra v rb : Statement (.semwt r ra v rb) :=
  ax1 (m := 0x33#6) rfl rfl rfl (by simp [Ring.waits, Ring.sigs, BitVec.extractLsb'_or]) (fun v h => by rw [rawA_33 h]; simp [decA33, Ring.one, Ring.waits, Ring.sigs, Ring.none, BitVec.extractLsb'_or])
    (fun v h => by rw [rawX_33 h]; simp [decA33, Ring.one, Ring.waits, Ring.sigs, Ring.none, BitVec.extractLsb'_or])
theorem asidset rd rs1 rs2 : Statement (.asidset rd rs1 rs2) :=
  a1 (m := 0x38#6) rfl rfl rfl (by simp [Ring.waits, Ring.sigs, BitVec.extractLsb'_or]) (fun v h => by rw [rawA_38 h]; simp [decA38, Ring.one, Ring.waits, Ring.sigs, Ring.none, BitVec.extractLsb'_or])
theorem ptbase rd rs1 rs2 : Statement (.ptbase rd rs1 rs2) :=
  a1 (m := 0x38#6) rfl rfl rfl (by simp [Ring.waits, Ring.sigs, BitVec.extractLsb'_or]) (fun v h => by rw [rawA_38 h]; simp [decA38, Ring.one, Ring.waits, Ring.sigs, Ring.none, BitVec.extractLsb'_or])
theorem tlbinv rd rs1 rs2 : Statement (.tlbinv rd rs1 rs2) :=
  a1 (m := 0x38#6) rfl rfl rfl (by simp [Ring.waits, Ring.sigs, BitVec.extractLsb'_or]) (fun v h => by rw [rawA_38 h]; simp [decA38, Ring.one, Ring.waits, Ring.sigs, Ring.none, BitVec.extractLsb'_or])
theorem killctx rd rs1 : Statement (.killctx rd rs1) :=
  a1 (m := 0x38#6) rfl rfl rfl (by simp [Ring.waits, Ring.sigs, BitVec.extractLsb'_or]) (fun v h => by rw [rawA_38 h]; simp [decA38, Ring.one, Ring.waits, Ring.sigs, Ring.none, BitVec.extractLsb'_or])
theorem preempt rd rs1 : Statement (.preempt rd rs1) :=
  a1 (m := 0x39#6) rfl rfl rfl (by simp [Ring.waits, Ring.sigs, BitVec.extractLsb'_or]) (fun v h => by rw [rawA_39 h]; simp [decA39, Ring.one, Ring.waits, Ring.sigs, Ring.none, BitVec.extractLsb'_or])
theorem ctxsave rd rs1 rs2 : Statement (.ctxsave rd rs1 rs2) :=
  a1 (m := 0x39#6) rfl rfl rfl (by simp [Ring.waits, Ring.sigs, BitVec.extractLsb'_or]) (fun v h => by rw [rawA_39 h]; simp [decA39, Ring.one, Ring.waits, Ring.sigs, Ring.none, BitVec.extractLsb'_or])
theorem ctxload rd rs1 rs2 : Statement (.ctxload rd rs1 rs2) :=
  a1 (m := 0x39#6) rfl rfl rfl (by simp [Ring.waits, Ring.sigs, BitVec.extractLsb'_or]) (fun v h => by rw [rawA_39 h]; simp [decA39, Ring.one, Ring.waits, Ring.sigs, Ring.none, BitVec.extractLsb'_or])
theorem drain rd rs1 rs2 : Statement (.drain rd rs1 rs2) :=
  a1 (m := 0x39#6) rfl rfl rfl (by simp [Ring.waits, Ring.sigs, BitVec.extractLsb'_or]) (fun v h => by rw [rawA_39 h]; simp [decA39, Ring.one, Ring.waits, Ring.sigs, Ring.none, BitVec.extractLsb'_or])
theorem semmap rd rs1 rs2 : Statement (.semmap rd rs1 rs2) :=
  a1 (m := 0x3A#6) rfl rfl rfl (by simp [Ring.waits, Ring.sigs, BitVec.extractLsb'_or]) (fun v h => by rw [rawA_3A h]; simp [decA3A, Ring.one, Ring.waits, Ring.sigs, Ring.none, BitVec.extractLsb'_or])
theorem lqpush rd rs1 : Statement (.lqpush rd rs1) :=
  a1 (m := 0x3A#6) rfl rfl rfl (by simp [Ring.waits, Ring.sigs, BitVec.extractLsb'_or]) (fun v h => by rw [rawA_3A h]; simp [decA3A, Ring.one, Ring.waits, Ring.sigs, Ring.none, BitVec.extractLsb'_or])
theorem wake rd rs1 rs2 : Statement (.wake rd rs1 rs2) :=
  a1 (m := 0x3A#6) rfl rfl rfl (by simp [Ring.waits, Ring.sigs, BitVec.extractLsb'_or]) (fun v h => by rw [rawA_3A h]; simp [decA3A, Ring.one, Ring.waits, Ring.sigs, Ring.none, BitVec.extractLsb'_or])
theorem timerd rd rs1 : Statement (.timerd rd rs1) :=
  a1 (m := 0x3B#6) rfl rfl rfl (by simp [Ring.waits, Ring.sigs, BitVec.extractLsb'_or]) (fun v h => by rw [rawA_3B h]; simp [decA3B, Ring.one, Ring.waits, Ring.sigs, Ring.none, BitVec.extractLsb'_or])
theorem adjourn rd rs1 : Statement (.adjourn rd rs1) :=
  a1 (m := 0x3B#6) rfl rfl rfl (by simp [Ring.waits, Ring.sigs, BitVec.extractLsb'_or]) (fun v h => by rw [rawA_3B h]; simp [decA3B, Ring.one, Ring.waits, Ring.sigs, Ring.none, BitVec.extractLsb'_or])
theorem score rd rs1 rs2 : Statement (.score rd rs1 rs2) :=
  a1 (m := 0x3B#6) rfl rfl rfl (by simp [Ring.waits, Ring.sigs, BitVec.extractLsb'_or]) (fun v h => by rw [rawA_3B h]; simp [decA3B, Ring.one, Ring.waits, Ring.sigs, Ring.none, BitVec.extractLsb'_or])
theorem monsnap rd rs1 rs2 : Statement (.monsnap rd rs1 rs2) :=
  a1 (m := 0x3B#6) rfl rfl rfl (by simp [Ring.waits, Ring.sigs, BitVec.extractLsb'_or]) (fun v h => by rw [rawA_3B h]; simp [decA3B, Ring.one, Ring.waits, Ring.sigs, Ring.none, BitVec.extractLsb'_or])
theorem vadd r d a b t : Statement (.vadd r d a b t) :=
  x1 (m := 0x00#6) rfl rfl rfl (by simp [Ring.waits, Ring.sigs, BitVec.extractLsb'_or]) (fun v h => by rw [rawX_00 h]; simp [decX00, Ring.one, Ring.waits, Ring.sigs, Ring.none, BitVec.extractLsb'_or])
theorem vsub r d a b t : Statement (.vsub r d a b t) :=
  x1 (m := 0x01#6) rfl rfl rfl (by simp [Ring.waits, Ring.sigs, BitVec.extractLsb'_or]) (fun v h => by rw [rawX_01 h]; simp [decX01, Ring.one, Ring.waits, Ring.sigs, Ring.none, BitVec.extractLsb'_or])
theorem vmul r d a b t : Statement (.vmul r d a b t) :=
  x1 (m := 0x02#6) rfl rfl rfl (by simp [Ring.waits, Ring.sigs, BitVec.extractLsb'_or]) (fun v h => by rw [rawX_02 h]; simp [decX02, Ring.one, Ring.waits, Ring.sigs, Ring.none, BitVec.extractLsb'_or])
theorem vmin r d a b t : Statement (.vmin r d a b t) :=
  x1 (m := 0x03#6) rfl rfl rfl (by simp [Ring.waits, Ring.sigs, BitVec.extractLsb'_or]) (fun v h => by rw [rawX_03 h]; simp [decX03, Ring.one, Ring.waits, Ring.sigs, Ring.none, BitVec.extractLsb'_or])
theorem vmax r d a b t : Statement (.vmax r d a b t) :=
  x1 (m := 0x04#6) rfl rfl rfl (by simp [Ring.waits, Ring.sigs, BitVec.extractLsb'_or]) (fun v h => by rw [rawX_04 h]; simp [decX04, Ring.one, Ring.waits, Ring.sigs, Ring.none, BitVec.extractLsb'_or])
theorem vabd r d a b t : Statement (.vabd r d a b t) :=
  x1 (m := 0x05#6) rfl rfl rfl (by simp [Ring.waits, Ring.sigs, BitVec.extractLsb'_or]) (fun v h => by rw [rawX_05 h]; simp [decX05, Ring.one, Ring.waits, Ring.sigs, Ring.none, BitVec.extractLsb'_or])
theorem vadds r d a b t : Statement (.vadds r d a b t) :=
  x1 (m := 0x06#6) rfl rfl rfl (by simp [Ring.waits, Ring.sigs, BitVec.extractLsb'_or]) (fun v h => by rw [rawX_06 h]; simp [decX06, Ring.one, Ring.waits, Ring.sigs, Ring.none, BitVec.extractLsb'_or])
theorem vsubs r d a b t : Statement (.vsubs r d a b t) :=
  x1 (m := 0x07#6) rfl rfl rfl (by simp [Ring.waits, Ring.sigs, BitVec.extractLsb'_or]) (fun v h => by rw [rawX_07 h]; simp [decX07, Ring.one, Ring.waits, Ring.sigs, Ring.none, BitVec.extractLsb'_or])
theorem vmulh r d a b t : Statement (.vmulh r d a b t) :=
  x1 (m := 0x08#6) rfl rfl rfl (by simp [Ring.waits, Ring.sigs, BitVec.extractLsb'_or]) (fun v h => by rw [rawX_08 h]; simp [decX08, Ring.one, Ring.waits, Ring.sigs, Ring.none, BitVec.extractLsb'_or])
theorem vdiv r d a b t : Statement (.vdiv r d a b t) :=
  x1 (m := 0x09#6) rfl rfl rfl (by simp [Ring.waits, Ring.sigs, BitVec.extractLsb'_or]) (fun v h => by rw [rawX_09 h]; simp [decX09, Ring.one, Ring.waits, Ring.sigs, Ring.none, BitVec.extractLsb'_or])
theorem vand r d a b t : Statement (.vand r d a b t) :=
  x1 (m := 0x0A#6) rfl rfl rfl (by simp [Ring.waits, Ring.sigs, BitVec.extractLsb'_or]) (fun v h => by rw [rawX_0A h]; simp [decX0A, Ring.one, Ring.waits, Ring.sigs, Ring.none, BitVec.extractLsb'_or])
theorem vor r d a b t : Statement (.vor r d a b t) :=
  x1 (m := 0x0B#6) rfl rfl rfl (by simp [Ring.waits, Ring.sigs, BitVec.extractLsb'_or]) (fun v h => by rw [rawX_0B h]; simp [decX0B, Ring.one, Ring.waits, Ring.sigs, Ring.none, BitVec.extractLsb'_or])
theorem vxor r d a b t : Statement (.vxor r d a b t) :=
  x1 (m := 0x0C#6) rfl rfl rfl (by simp [Ring.waits, Ring.sigs, BitVec.extractLsb'_or]) (fun v h => by rw [rawX_0C h]; simp [decX0C, Ring.one, Ring.waits, Ring.sigs, Ring.none, BitVec.extractLsb'_or])
theorem vshl r d a b t : Statement (.vshl r d a b t) :=
  x1 (m := 0x0D#6) rfl rfl rfl (by simp [Ring.waits, Ring.sigs, BitVec.extractLsb'_or]) (fun v h => by rw [rawX_0D h]; simp [decX0D, Ring.one, Ring.waits, Ring.sigs, Ring.none, BitVec.extractLsb'_or])
theorem vshr r d a b t : Statement (.vshr r d a b t) :=
  x1 (m := 0x0E#6) rfl rfl rfl (by simp [Ring.waits, Ring.sigs, BitVec.extractLsb'_or]) (fun v h => by rw [rawX_0E h]; simp [decX0E, Ring.one, Ring.waits, Ring.sigs, Ring.none, BitVec.extractLsb'_or])
theorem vsar r d a b t : Statement (.vsar r d a b t) :=
  x1 (m := 0x0F#6) rfl rfl rfl (by simp [Ring.waits, Ring.sigs, BitVec.extractLsb'_or]) (fun v h => by rw [rawX_0F h]; simp [decX0F, Ring.one, Ring.waits, Ring.sigs, Ring.none, BitVec.extractLsb'_or])
theorem vfma r d a b t c mk rmo : Statement (.vfma r d a b t c mk rmo) :=
  x2 (m := 0x10#6) rfl rfl rfl (by simp [Ring.waits, Ring.sigs, BitVec.extractLsb'_or]) (fun h => by rw [rawX_10 h]; simp [decX10, Ring.two, Ring.waits, Ring.sigs, Ring.none, BitVec.extractLsb'_or])
theorem vfms r d a b t c mk rmo : Statement (.vfms r d a b t c mk rmo) :=
  x2 (m := 0x11#6) rfl rfl rfl (by simp [Ring.waits, Ring.sigs, BitVec.extractLsb'_or]) (fun h => by rw [rawX_11 h]; simp [decX11, Ring.two, Ring.waits, Ring.sigs, Ring.none, BitVec.extractLsb'_or])
theorem vabs r d a t : Statement (.vabs r d a t) :=
  x1 (m := 0x12#6) rfl rfl rfl (by simp [Ring.waits, Ring.sigs, BitVec.extractLsb'_or]) (fun v h => by rw [rawX_12 h]; simp [decX12, Ring.one, Ring.waits, Ring.sigs, Ring.none, BitVec.extractLsb'_or])
theorem vneg r d a t : Statement (.vneg r d a t) :=
  x1 (m := 0x12#6) rfl rfl rfl (by simp [Ring.waits, Ring.sigs, BitVec.extractLsb'_or]) (fun v h => by rw [rawX_12 h]; simp [decX12, Ring.one, Ring.waits, Ring.sigs, Ring.none, BitVec.extractLsb'_or])
theorem vnot r d a t : Statement (.vnot r d a t) :=
  x1 (m := 0x12#6) rfl rfl rfl (by simp [Ring.waits, Ring.sigs, BitVec.extractLsb'_or]) (fun v h => by rw [rawX_12 h]; simp [decX12, Ring.one, Ring.waits, Ring.sigs, Ring.none, BitVec.extractLsb'_or])
theorem vsqrt r d a t : Statement (.vsqrt r d a t) :=
  x1 (m := 0x12#6) rfl rfl rfl (by simp [Ring.waits, Ring.sigs, BitVec.extractLsb'_or]) (fun v h => by rw [rawX_12 h]; simp [decX12, Ring.one, Ring.waits, Ring.sigs, Ring.none, BitVec.extractLsb'_or])
theorem vrcp r d a t : Statement (.vrcp r d a t) :=
  x1 (m := 0x12#6) rfl rfl rfl (by simp [Ring.waits, Ring.sigs, BitVec.extractLsb'_or]) (fun v h => by rw [rawX_12 h]; simp [decX12, Ring.one, Ring.waits, Ring.sigs, Ring.none, BitVec.extractLsb'_or])
theorem vrsq r d a t : Statement (.vrsq r d a t) :=
  x1 (m := 0x12#6) rfl rfl rfl (by simp [Ring.waits, Ring.sigs, BitVec.extractLsb'_or]) (fun v h => by rw [rawX_12 h]; simp [decX12, Ring.one, Ring.waits, Ring.sigs, Ring.none, BitVec.extractLsb'_or])
theorem vexp2 r d a t : Statement (.vexp2 r d a t) :=
  x1 (m := 0x12#6) rfl rfl rfl (by simp [Ring.waits, Ring.sigs, BitVec.extractLsb'_or]) (fun v h => by rw [rawX_12 h]; simp [decX12, Ring.one, Ring.waits, Ring.sigs, Ring.none, BitVec.extractLsb'_or])
theorem vlog2 r d a t : Statement (.vlog2 r d a t) :=
  x1 (m := 0x12#6) rfl rfl rfl (by simp [Ring.waits, Ring.sigs, BitVec.extractLsb'_or]) (fun v h => by rw [rawX_12 h]; simp [decX12, Ring.one, Ring.waits, Ring.sigs, Ring.none, BitVec.extractLsb'_or])
theorem vtanh r d a t : Statement (.vtanh r d a t) :=
  x1 (m := 0x12#6) rfl rfl rfl (by simp [Ring.waits, Ring.sigs, BitVec.extractLsb'_or]) (fun v h => by rw [rawX_12 h]; simp [decX12, Ring.one, Ring.waits, Ring.sigs, Ring.none, BitVec.extractLsb'_or])
theorem vsigm r d a t : Statement (.vsigm r d a t) :=
  x1 (m := 0x12#6) rfl rfl rfl (by simp [Ring.waits, Ring.sigs, BitVec.extractLsb'_or]) (fun v h => by rw [rawX_12 h]; simp [decX12, Ring.one, Ring.waits, Ring.sigs, Ring.none, BitVec.extractLsb'_or])
theorem vmov r d a t : Statement (.vmov r d a t) :=
  x1 (m := 0x12#6) rfl rfl rfl (by simp [Ring.waits, Ring.sigs, BitVec.extractLsb'_or]) (fun v h => by rw [rawX_12 h]; simp [decX12, Ring.one, Ring.waits, Ring.sigs, Ring.none, BitVec.extractLsb'_or])
theorem vcmp r a b t kd cond : Statement (.vcmp r a b t kd cond) :=
  x2 (m := 0x13#6) rfl rfl rfl (by simp [Ring.waits, Ring.sigs, BitVec.extractLsb'_or]) (fun h => by rw [rawX_13 h]; simp [decX13, Ring.two, Ring.waits, Ring.sigs, Ring.none, BitVec.extractLsb'_or])
theorem kand r kd ka kb : Statement (.kand r kd ka kb) :=
  x1 (m := 0x14#6) rfl rfl rfl (by simp [Ring.waits, Ring.sigs, BitVec.extractLsb'_or]) (fun v h => by rw [rawX_14 h]; simp [decX14, Ring.one, Ring.waits, Ring.sigs, Ring.none, BitVec.extractLsb'_or])
theorem kor r kd ka kb : Statement (.kor r kd ka kb) :=
  x1 (m := 0x14#6) rfl rfl rfl (by simp [Ring.waits, Ring.sigs, BitVec.extractLsb'_or]) (fun v h => by rw [rawX_14 h]; simp [decX14, Ring.one, Ring.waits, Ring.sigs, Ring.none, BitVec.extractLsb'_or])
theorem kxor r kd ka kb : Statement (.kxor r kd ka kb) :=
  x1 (m := 0x14#6) rfl rfl rfl (by simp [Ring.waits, Ring.sigs, BitVec.extractLsb'_or]) (fun v h => by rw [rawX_14 h]; simp [decX14, Ring.one, Ring.waits, Ring.sigs, Ring.none, BitVec.extractLsb'_or])
theorem knot r kd ka : Statement (.knot r kd ka) :=
  x1 (m := 0x14#6) rfl rfl rfl (by simp [Ring.waits, Ring.sigs, BitVec.extractLsb'_or]) (fun v h => by rw [rawX_14 h]; simp [decX14, Ring.one, Ring.waits, Ring.sigs, Ring.none, BitVec.extractLsb'_or])
theorem kpop r xd ka : Statement (.kpop r xd ka) :=
  x1 (m := 0x14#6) rfl rfl rfl (by simp [Ring.waits, Ring.sigs, BitVec.extractLsb'_or]) (fun v h => by rw [rawX_14 h]; simp [decX14, Ring.one, Ring.waits, Ring.sigs, Ring.none, BitVec.extractLsb'_or])
theorem kfirst r xd ka : Statement (.kfirst r xd ka) :=
  x1 (m := 0x14#6) rfl rfl rfl (by simp [Ring.waits, Ring.sigs, BitVec.extractLsb'_or]) (fun v h => by rw [rawX_14 h]; simp [decX14, Ring.one, Ring.waits, Ring.sigs, Ring.none, BitVec.extractLsb'_or])
theorem vsel r d a b t k : Statement (.vsel r d a b t k) :=
  x2 (m := 0x15#6) rfl rfl rfl (by simp [Ring.waits, Ring.sigs, BitVec.extractLsb'_or]) (fun h => by rw [rawX_15 h]; simp [decX15, Ring.two, Ring.waits, Ring.sigs, Ring.none, BitVec.extractLsb'_or])
theorem vmovm r d a t k kz : Statement (.vmovm r d a t k kz) :=
  x2 (m := 0x16#6) rfl rfl rfl (by simp [Ring.waits, Ring.sigs, BitVec.extractLsb'_or]) (fun h => by rw [rawX_16 h]; simp [decX16, Ring.two, Ring.waits, Ring.sigs, Ring.none, BitVec.extractLsb'_or])
theorem vcvt r d a t mk t2 rmo : Statement (.vcvt r d a t mk t2 rmo) :=
  x2 (m := 0x17#6) rfl rfl rfl (by simp [Ring.waits, Ring.sigs, BitVec.extractLsb'_or]) (fun h => by rw [rawX_17 h]; simp [decX17, Ring.two, Ring.waits, Ring.sigs, Ring.none, BitVec.extractLsb'_or])
theorem vquant r d a t c t2 rmo : Statement (.vquant r d a t c t2 rmo) :=
  x2 (m := 0x18#6) rfl rfl rfl (by simp [Ring.waits, Ring.sigs, BitVec.extractLsb'_or]) (fun h => by rw [rawX_18 h]; simp [decX18, Ring.two, Ring.waits, Ring.sigs, Ring.none, BitVec.extractLsb'_or])
theorem vdeq r d a t c mk t2 rmo : Statement (.vdeq r d a t c mk t2 rmo) :=
  x2 (m := 0x19#6) rfl rfl rfl (by simp [Ring.waits, Ring.sigs, BitVec.extractLsb'_or]) (fun h => by rw [rawX_19 h]; simp [decX19, Ring.two, Ring.waits, Ring.sigs, Ring.none, BitVec.extractLsb'_or])
theorem vrsumr r d a t : Statement (.vrsumr r d a t) :=
  x1 (m := 0x1A#6) rfl rfl rfl (by simp [Ring.waits, Ring.sigs, BitVec.extractLsb'_or]) (fun v h => by rw [rawX_1A h]; simp [decX1A, Ring.one, Ring.waits, Ring.sigs, Ring.none, BitVec.extractLsb'_or])
theorem vrsumc r d a t : Statement (.vrsumc r d a t) :=
  x1 (m := 0x1A#6) rfl rfl rfl (by simp [Ring.waits, Ring.sigs, BitVec.extractLsb'_or]) (fun v h => by rw [rawX_1A h]; simp [decX1A, Ring.one, Ring.waits, Ring.sigs, Ring.none, BitVec.extractLsb'_or])
theorem vrmax r d a t : Statement (.vrmax r d a t) :=
  x1 (m := 0x1A#6) rfl rfl rfl (by simp [Ring.waits, Ring.sigs, BitVec.extractLsb'_or]) (fun v h => by rw [rawX_1A h]; simp [decX1A, Ring.one, Ring.waits, Ring.sigs, Ring.none, BitVec.extractLsb'_or])
theorem vrmin r d a t : Statement (.vrmin r d a t) :=
  x1 (m := 0x1A#6) rfl rfl rfl (by simp [Ring.waits, Ring.sigs, BitVec.extractLsb'_or]) (fun v h => by rw [rawX_1A h]; simp [decX1A, Ring.one, Ring.waits, Ring.sigs, Ring.none, BitVec.extractLsb'_or])
theorem vscanSum r d a t : Statement (.vscanSum r d a t) :=
  x1 (m := 0x1B#6) rfl rfl rfl (by simp [Ring.waits, Ring.sigs, BitVec.extractLsb'_or]) (fun v h => by rw [rawX_1B h]; simp [decX1B, Ring.one, Ring.waits, Ring.sigs, Ring.none, BitVec.extractLsb'_or])
theorem vscanMax r d a t : Statement (.vscanMax r d a t) :=
  x1 (m := 0x1B#6) rfl rfl rfl (by simp [Ring.waits, Ring.sigs, BitVec.extractLsb'_or]) (fun v h => by rw [rawX_1B h]; simp [decX1B, Ring.one, Ring.waits, Ring.sigs, Ring.none, BitVec.extractLsb'_or])
theorem vscanMin r d a t : Statement (.vscanMin r d a t) :=
  x1 (m := 0x1B#6) rfl rfl rfl (by simp [Ring.waits, Ring.sigs, BitVec.extractLsb'_or]) (fun v h => by rw [rawX_1B h]; simp [decX1B, Ring.one, Ring.waits, Ring.sigs, Ring.none, BitVec.extractLsb'_or])
theorem vsegsum r d a t k rmo : Statement (.vsegsum r d a t k rmo) :=
  x2 (m := 0x1C#6) rfl rfl rfl (by simp [Ring.waits, Ring.sigs, BitVec.extractLsb'_or]) (fun h => by rw [rawX_1C h]; simp [decX1C, Ring.two, Ring.waits, Ring.sigs, Ring.none, BitVec.extractLsb'_or])
theorem vtrn r d a t : Statement (.vtrn r d a t) :=
  x1 (m := 0x1D#6) rfl rfl rfl (by simp [Ring.waits, Ring.sigs, BitVec.extractLsb'_or]) (fun v h => by rw [rawX_1D h]; simp [decX1D, Ring.one, Ring.waits, Ring.sigs, Ring.none, BitVec.extractLsb'_or])
theorem vbcr r d a xb t : Statement (.vbcr r d a xb t) :=
  x1 (m := 0x1E#6) rfl rfl rfl (by simp [Ring.waits, Ring.sigs, BitVec.extractLsb'_or]) (fun v h => by rw [rawX_1E h]; simp [decX1E, Ring.one, Ring.waits, Ring.sigs, Ring.none, BitVec.extractLsb'_or])
theorem vbcc r d a xb t : Statement (.vbcc r d a xb t) :=
  x1 (m := 0x1F#6) rfl rfl rfl (by simp [Ring.waits, Ring.sigs, BitVec.extractLsb'_or]) (fun v h => by rw [rawX_1F h]; simp [decX1F, Ring.one, Ring.waits, Ring.sigs, Ring.none, BitVec.extractLsb'_or])
theorem vrot r d a imm t : Statement (.vrot r d a imm t) :=
  x1 (m := 0x20#6) rfl rfl rfl (by simp [Ring.waits, Ring.sigs, BitVec.extractLsb'_or]) (fun v h => by rw [rawX_20 h]; simp [decX20, Ring.one, Ring.waits, Ring.sigs, Ring.none, BitVec.extractLsb'_or])
theorem vslide r d a imm t : Statement (.vslide r d a imm t) :=
  x1 (m := 0x21#6) rfl rfl rfl (by simp [Ring.waits, Ring.sigs, BitVec.extractLsb'_or]) (fun v h => by rw [rawX_21 h]; simp [decX21, Ring.one, Ring.waits, Ring.sigs, Ring.none, BitVec.extractLsb'_or])
theorem viota r d t : Statement (.viota r d t) :=
  x1 (m := 0x22#6) rfl rfl rfl (by simp [Ring.waits, Ring.sigs, BitVec.extractLsb'_or]) (fun v h => by rw [rawX_22 h]; simp [decX22, Ring.one, Ring.waits, Ring.sigs, Ring.none, BitVec.extractLsb'_or])
theorem vsplat r d xa t : Statement (.vsplat r d xa t) :=
  x1 (m := 0x23#6) rfl rfl rfl (by simp [Ring.waits, Ring.sigs, BitVec.extractLsb'_or]) (fun v h => by rw [rawX_23 h]; simp [decX23, Ring.one, Ring.waits, Ring.sigs, Ring.none, BitVec.extractLsb'_or])
theorem vext r xd a xb t : Statement (.vext r xd a xb t) :=
  x1 (m := 0x24#6) rfl rfl rfl (by simp [Ring.waits, Ring.sigs, BitVec.extractLsb'_or]) (fun v h => by rw [rawX_24 h]; simp [decX24, Ring.one, Ring.waits, Ring.sigs, Ring.none, BitVec.extractLsb'_or])
theorem vins r d xa xb t : Statement (.vins r d xa xb t) :=
  x1 (m := 0x25#6) rfl rfl rfl (by simp [Ring.waits, Ring.sigs, BitVec.extractLsb'_or]) (fun v h => by rw [rawX_25 h]; simp [decX25, Ring.one, Ring.waits, Ring.sigs, Ring.none, BitVec.extractLsb'_or])
theorem vshape r rowsM1 colsM1 : Statement (.vshape r rowsM1 colsM1) :=
  x1 (m := 0x26#6) rfl rfl rfl (by simp [Ring.waits, Ring.sigs, BitVec.extractLsb'_or]) (fun v h => by rw [rawX_26 h]; simp [decX26, Ring.one, Ring.waits, Ring.sigs, Ring.none, BitVec.extractLsb'_or])
theorem xadd r xd xa xb : Statement (.xadd r xd xa xb) :=
  x1 (m := 0x28#6) rfl rfl rfl (by simp [Ring.waits, Ring.sigs, BitVec.extractLsb'_or]) (fun v h => by rw [rawX_28 h]; simp [decX28, Ring.one, Ring.waits, Ring.sigs, Ring.none, BitVec.extractLsb'_or])
theorem xsub r xd xa xb : Statement (.xsub r xd xa xb) :=
  x1 (m := 0x28#6) rfl rfl rfl (by simp [Ring.waits, Ring.sigs, BitVec.extractLsb'_or]) (fun v h => by rw [rawX_28 h]; simp [decX28, Ring.one, Ring.waits, Ring.sigs, Ring.none, BitVec.extractLsb'_or])
theorem xmul r xd xa xb : Statement (.xmul r xd xa xb) :=
  x1 (m := 0x28#6) rfl rfl rfl (by simp [Ring.waits, Ring.sigs, BitVec.extractLsb'_or]) (fun v h => by rw [rawX_28 h]; simp [decX28, Ring.one, Ring.waits, Ring.sigs, Ring.none, BitVec.extractLsb'_or])
theorem xmulh r xd xa xb : Statement (.xmulh r xd xa xb) :=
  x1 (m := 0x28#6) rfl rfl rfl (by simp [Ring.waits, Ring.sigs, BitVec.extractLsb'_or]) (fun v h => by rw [rawX_28 h]; simp [decX28, Ring.one, Ring.waits, Ring.sigs, Ring.none, BitVec.extractLsb'_or])
theorem xmulhu r xd xa xb : Statement (.xmulhu r xd xa xb) :=
  x1 (m := 0x28#6) rfl rfl rfl (by simp [Ring.waits, Ring.sigs, BitVec.extractLsb'_or]) (fun v h => by rw [rawX_28 h]; simp [decX28, Ring.one, Ring.waits, Ring.sigs, Ring.none, BitVec.extractLsb'_or])
theorem xdiv r xd xa xb : Statement (.xdiv r xd xa xb) :=
  x1 (m := 0x28#6) rfl rfl rfl (by simp [Ring.waits, Ring.sigs, BitVec.extractLsb'_or]) (fun v h => by rw [rawX_28 h]; simp [decX28, Ring.one, Ring.waits, Ring.sigs, Ring.none, BitVec.extractLsb'_or])
theorem xdivu r xd xa xb : Statement (.xdivu r xd xa xb) :=
  x1 (m := 0x28#6) rfl rfl rfl (by simp [Ring.waits, Ring.sigs, BitVec.extractLsb'_or]) (fun v h => by rw [rawX_28 h]; simp [decX28, Ring.one, Ring.waits, Ring.sigs, Ring.none, BitVec.extractLsb'_or])
theorem xrem r xd xa xb : Statement (.xrem r xd xa xb) :=
  x1 (m := 0x28#6) rfl rfl rfl (by simp [Ring.waits, Ring.sigs, BitVec.extractLsb'_or]) (fun v h => by rw [rawX_28 h]; simp [decX28, Ring.one, Ring.waits, Ring.sigs, Ring.none, BitVec.extractLsb'_or])
theorem xremu r xd xa xb : Statement (.xremu r xd xa xb) :=
  x1 (m := 0x28#6) rfl rfl rfl (by simp [Ring.waits, Ring.sigs, BitVec.extractLsb'_or]) (fun v h => by rw [rawX_28 h]; simp [decX28, Ring.one, Ring.waits, Ring.sigs, Ring.none, BitVec.extractLsb'_or])
theorem xmin r xd xa xb : Statement (.xmin r xd xa xb) :=
  x1 (m := 0x28#6) rfl rfl rfl (by simp [Ring.waits, Ring.sigs, BitVec.extractLsb'_or]) (fun v h => by rw [rawX_28 h]; simp [decX28, Ring.one, Ring.waits, Ring.sigs, Ring.none, BitVec.extractLsb'_or])
theorem xminu r xd xa xb : Statement (.xminu r xd xa xb) :=
  x1 (m := 0x28#6) rfl rfl rfl (by simp [Ring.waits, Ring.sigs, BitVec.extractLsb'_or]) (fun v h => by rw [rawX_28 h]; simp [decX28, Ring.one, Ring.waits, Ring.sigs, Ring.none, BitVec.extractLsb'_or])
theorem xmax r xd xa xb : Statement (.xmax r xd xa xb) :=
  x1 (m := 0x28#6) rfl rfl rfl (by simp [Ring.waits, Ring.sigs, BitVec.extractLsb'_or]) (fun v h => by rw [rawX_28 h]; simp [decX28, Ring.one, Ring.waits, Ring.sigs, Ring.none, BitVec.extractLsb'_or])
theorem xmaxu r xd xa xb : Statement (.xmaxu r xd xa xb) :=
  x1 (m := 0x28#6) rfl rfl rfl (by simp [Ring.waits, Ring.sigs, BitVec.extractLsb'_or]) (fun v h => by rw [rawX_28 h]; simp [decX28, Ring.one, Ring.waits, Ring.sigs, Ring.none, BitVec.extractLsb'_or])
theorem xshl r xd xa xb : Statement (.xshl r xd xa xb) :=
  x1 (m := 0x28#6) rfl rfl rfl (by simp [Ring.waits, Ring.sigs, BitVec.extractLsb'_or]) (fun v h => by rw [rawX_28 h]; simp [decX28, Ring.one, Ring.waits, Ring.sigs, Ring.none, BitVec.extractLsb'_or])
theorem xshr r xd xa xb : Statement (.xshr r xd xa xb) :=
  x1 (m := 0x28#6) rfl rfl rfl (by simp [Ring.waits, Ring.sigs, BitVec.extractLsb'_or]) (fun v h => by rw [rawX_28 h]; simp [decX28, Ring.one, Ring.waits, Ring.sigs, Ring.none, BitVec.extractLsb'_or])
theorem xsar r xd xa xb : Statement (.xsar r xd xa xb) :=
  x1 (m := 0x28#6) rfl rfl rfl (by simp [Ring.waits, Ring.sigs, BitVec.extractLsb'_or]) (fun v h => by rw [rawX_28 h]; simp [decX28, Ring.one, Ring.waits, Ring.sigs, Ring.none, BitVec.extractLsb'_or])
theorem xand r xd xa xb : Statement (.xand r xd xa xb) :=
  x1 (m := 0x28#6) rfl rfl rfl (by simp [Ring.waits, Ring.sigs, BitVec.extractLsb'_or]) (fun v h => by rw [rawX_28 h]; simp [decX28, Ring.one, Ring.waits, Ring.sigs, Ring.none, BitVec.extractLsb'_or])
theorem xorX r xd xa xb : Statement (.xorX r xd xa xb) :=
  x1 (m := 0x28#6) rfl rfl rfl (by simp [Ring.waits, Ring.sigs, BitVec.extractLsb'_or]) (fun v h => by rw [rawX_28 h]; simp [decX28, Ring.one, Ring.waits, Ring.sigs, Ring.none, BitVec.extractLsb'_or])
theorem xxor r xd xa xb : Statement (.xxor r xd xa xb) :=
  x1 (m := 0x28#6) rfl rfl rfl (by simp [Ring.waits, Ring.sigs, BitVec.extractLsb'_or]) (fun v h => by rw [rawX_28 h]; simp [decX28, Ring.one, Ring.waits, Ring.sigs, Ring.none, BitVec.extractLsb'_or])
theorem xclz r xd xa : Statement (.xclz r xd xa) :=
  x1 (m := 0x28#6) rfl rfl rfl (by simp [Ring.waits, Ring.sigs, BitVec.extractLsb'_or]) (fun v h => by rw [rawX_28 h]; simp [decX28, Ring.one, Ring.waits, Ring.sigs, Ring.none, BitVec.extractLsb'_or])
theorem xpopc r xd xa : Statement (.xpopc r xd xa) :=
  x1 (m := 0x28#6) rfl rfl rfl (by simp [Ring.waits, Ring.sigs, BitVec.extractLsb'_or]) (fun v h => by rw [rawX_28 h]; simp [decX28, Ring.one, Ring.waits, Ring.sigs, Ring.none, BitVec.extractLsb'_or])
theorem xaddi r xd xa imm : Statement (.xaddi r xd xa imm) :=
  x1 (m := 0x29#6) rfl rfl rfl (by simp [Ring.waits, Ring.sigs, BitVec.extractLsb'_or]) (fun v h => by rw [rawX_29 h]; simp [decX29, Ring.one, Ring.waits, Ring.sigs, Ring.none, BitVec.extractLsb'_or])
theorem xmovi r xd imm : Statement (.xmovi r xd imm) :=
  x1 (m := 0x2A#6) rfl rfl rfl (by simp [Ring.waits, Ring.sigs, BitVec.extractLsb'_or]) (fun v h => by rw [rawX_2A h]; simp [decX2A, Ring.one, Ring.waits, Ring.sigs, Ring.none, BitVec.extractLsb'_or])
theorem xcmp r qd xa xb cond : Statement (.xcmp r qd xa xb cond) :=
  x1 (m := 0x2B#6) rfl rfl rfl (by simp [Ring.waits, Ring.sigs, BitVec.extractLsb'_or]) (fun v h => by rw [rawX_2B h]; simp [decX2B, Ring.one, Ring.waits, Ring.sigs, Ring.none, BitVec.extractLsb'_or])
theorem xb r q n off : Statement (.xb r q n off) :=
  x1 (m := 0x2C#6) rfl rfl rfl (by simp [Ring.waits, Ring.sigs, BitVec.extractLsb'_or]) (fun v h => by rw [rawX_2C h]; simp [decX2C, Ring.one, Ring.waits, Ring.sigs, Ring.none, BitVec.extractLsb'_or])
theorem guardX r q n cnt : Statement (.guardX r q n cnt) :=
  x1 (m := 0x2D#6) rfl rfl rfl (by simp [Ring.waits, Ring.sigs, BitVec.extractLsb'_or]) (fun v h => by rw [rawX_2D h]; simp [decX2D, Ring.one, Ring.waits, Ring.sigs, Ring.none, BitVec.extractLsb'_or])
theorem loopX r l xs tgt : Statement (.loopX r l xs tgt) :=
  x1 (m := 0x2E#6) rfl rfl rfl (by simp [Ring.waits, Ring.sigs, BitVec.extractLsb'_or]) (fun v h => by rw [rawX_2E h]; simp [decX2E, Ring.one, Ring.waits, Ring.sigs, Ring.none, BitVec.extractLsb'_or])
theorem loopspX r rec : Statement (.loopspX r rec) :=
  x1 (m := 0x2E#6) rfl rfl rfl (by simp [Ring.waits, Ring.sigs, BitVec.extractLsb'_or]) (fun v h => by rw [rawX_2E h]; simp [decX2E, Ring.one, Ring.waits, Ring.sigs, Ring.none, BitVec.extractLsb'_or])
theorem steer r xa xb stq : Statement (.steer r xa xb stq) :=
  x1 (m := 0x2F#6) rfl rfl rfl (by simp [Ring.waits, Ring.sigs, BitVec.extractLsb'_or]) (fun v h => by rw [rawX_2F h]; simp [decX2F, Ring.one, Ring.waits, Ring.sigs, Ring.none, BitVec.extractLsb'_or])
theorem xj r xa : Statement (.xj r xa) :=
  x1 (m := 0x2F#6) rfl rfl rfl (by simp [Ring.waits, Ring.sigs, BitVec.extractLsb'_or]) (fun v h => by rw [rawX_2F h]; simp [decX2F, Ring.one, Ring.waits, Ring.sigs, Ring.none, BitVec.extractLsb'_or])
theorem rdvX r : Statement (.rdvX r) :=
  x1 (m := 0x2F#6) rfl rfl rfl (by simp [Ring.waits, Ring.sigs, BitVec.extractLsb'_or]) (fun v h => by rw [rawX_2F h]; simp [decX2F, Ring.one, Ring.waits, Ring.sigs, Ring.none, BitVec.extractLsb'_or])
theorem safeX r : Statement (.safeX r) :=
  x1 (m := 0x2F#6) rfl rfl rfl (by simp [Ring.waits, Ring.sigs, BitVec.extractLsb'_or]) (fun v h => by rw [rawX_2F h]; simp [decX2F, Ring.one, Ring.waits, Ring.sigs, Ring.none, BitVec.extractLsb'_or])
theorem xget r xd sel : Statement (.xget r xd sel) :=
  x1 (m := 0x2F#6) rfl rfl rfl (by simp [Ring.waits, Ring.sigs, BitVec.extractLsb'_or]) (fun v h => by rw [rawX_2F h]; simp [decX2F, Ring.one, Ring.waits, Ring.sigs, Ring.none, BitVec.extractLsb'_or])
theorem xset r xa sel : Statement (.xset r xa sel) :=
  x1 (m := 0x2F#6) rfl rfl rfl (by simp [Ring.waits, Ring.sigs, BitVec.extractLsb'_or]) (fun v h => by rw [rawX_2F h]; simp [decX2F, Ring.one, Ring.waits, Ring.sigs, Ring.none, BitVec.extractLsb'_or])
theorem mxldb r sw ss sk loc nb n0 bf k scl : Statement (.mxldb r sw ss sk loc nb n0 bf k scl) :=
  x2 (m := 0x34#6) rfl rfl rfl (by simp [Ring.waits, Ring.sigs, BitVec.extractLsb'_or]) (fun h => by rw [rawX_34 h]; simp [decX34, Ring.two, Ring.waits, Ring.sigs, Ring.none, BitVec.extractLsb'_or])
theorem mxldbs r sw ss sg loc nb dc ove kHi bf kLo : Statement (.mxldbs r sw ss sg loc nb dc ove kHi bf kLo) :=
  x2 (m := 0x35#6) rfl rfl rfl (by simp [Ring.waits, Ring.sigs, BitVec.extractLsb'_or]) (fun h => by rw [rawX_35 h]; simp [decX35, Ring.two, Ring.waits, Ring.sigs, Ring.none, BitVec.extractLsb'_or])
theorem mxrun r sw ss ps loc af kaHi kaLo acc0 m : Statement (.mxrun r sw ss ps loc af kaHi kaLo acc0 m) :=
  x2 (m := 0x36#6) rfl rfl rfl (by simp [Ring.waits, Ring.sigs, BitVec.extractLsb'_or]) (fun h => by rw [rawX_36 h]; simp [decX36, Ring.two, Ring.waits, Ring.sigs, Ring.none, BitVec.extractLsb'_or])
theorem mxrung r sw ss tb iport af kaHi kaLo acc0 m : Statement (.mxrung r sw ss tb iport af kaHi kaLo acc0 m) :=
  x2 (m := 0x37#6) rfl rfl rfl (by simp [Ring.waits, Ring.sigs, BitVec.extractLsb'_or]) (fun h => by rw [rawX_37 h]; simp [decX37, Ring.two, Ring.waits, Ring.sigs, Ring.none, BitVec.extractLsb'_or])
theorem mxst r sw ss ps loc acc0 n0 m df rm sm nb : Statement (.mxst r sw ss ps loc acc0 n0 m df rm sm nb) :=
  x2 (m := 0x39#6) rfl rfl rfl (by simp [Ring.waits, Ring.sigs, BitVec.extractLsb'_or]) (fun h => by rw [rawX_39 h]; simp [decX39, Ring.two, Ring.waits, Ring.sigs, Ring.none, BitVec.extractLsb'_or])
theorem mxz r sw ss acc0 m kind : Statement (.mxz r sw ss acc0 m kind) :=
  x2 (m := 0x39#6) rfl rfl rfl (by simp [Ring.waits, Ring.sigs, BitVec.extractLsb'_or]) (fun h => by rw [rawX_39 h]; simp [decX39, Ring.two, Ring.waits, Ring.sigs, Ring.none, BitVec.extractLsb'_or])
theorem mxops r sw ss len opsLo opsHi : Statement (.mxops r sw ss len opsLo opsHi) :=
  x2 (m := 0x38#6) rfl rfl rfl (by simp [Ring.waits, Ring.sigs, BitVec.extractLsb'_or]) (fun h => by rw [rawX_38 h]; simp [decX38, Ring.two, Ring.waits, Ring.sigs, Ring.none, BitVec.extractLsb'_or])
theorem mxanc r sw ss anc : Statement (.mxanc r sw ss anc) :=
  x2 (m := 0x38#6) rfl rfl rfl (by simp [Ring.waits, Ring.sigs, BitVec.extractLsb'_or]) (fun h => by rw [rawX_38 h]; simp [decX38, Ring.two, Ring.waits, Ring.sigs, Ring.none, BitVec.extractLsb'_or])
theorem mxfence r sw ss : Statement (.mxfence r sw ss) :=
  x2 (m := 0x3B#6) rfl rfl rfl (by simp [Ring.waits, Ring.sigs, BitVec.extractLsb'_or]) (fun h => by rw [rawX_3B h]; simp [decX3B, Ring.two, Ring.waits, Ring.sigs, Ring.none, BitVec.extractLsb'_or])
theorem mxclrp r sw ss acc0 m re bm : Statement (.mxclrp r sw ss acc0 m re bm) :=
  x2 (m := 0x3B#6) rfl rfl rfl (by simp [Ring.waits, Ring.sigs, BitVec.extractLsb'_or]) (fun h => by rw [rawX_3B h]; simp [decX3B, Ring.two, Ring.waits, Ring.sigs, Ring.none, BitVec.extractLsb'_or])
theorem mxspill r sw ss ps loc acc0 m : Statement (.mxspill r sw ss ps loc acc0 m) :=
  x2 (m := 0x3A#6) rfl rfl rfl (by simp [Ring.waits, Ring.sigs, BitVec.extractLsb'_or]) (fun h => by rw [rawX_3A h]; simp [decX3A, Ring.two, Ring.waits, Ring.sigs, Ring.none, BitVec.extractLsb'_or])
theorem mxfill r sw ss ps loc acc0 m : Statement (.mxfill r sw ss ps loc acc0 m) :=
  x2 (m := 0x3A#6) rfl rfl rfl (by simp [Ring.waits, Ring.sigs, BitVec.extractLsb'_or]) (fun h => by rw [rawX_3A h]; simp [decX3A, Ring.two, Ring.waits, Ring.sigs, Ring.none, BitVec.extractLsb'_or])
theorem gbld r xa : Statement (.gbld r xa) :=
  x1 (m := 0x3C#6) rfl rfl rfl (by simp [Ring.waits, Ring.sigs, BitVec.extractLsb'_or]) (fun v h => by rw [rawX_3C h]; simp [decX3C, Ring.one, Ring.waits, Ring.sigs, Ring.none, BitVec.extractLsb'_or])
theorem gbth r xh xl xe xt : Statement (.gbth r xh xl xe xt) :=
  x1 (m := 0x3C#6) rfl rfl rfl (by simp [Ring.waits, Ring.sigs, BitVec.extractLsb'_or]) (fun v h => by rw [rawX_3C h]; simp [decX3C, Ring.one, Ring.waits, Ring.sigs, Ring.none, BitVec.extractLsb'_or])
theorem gbpred r inp oa ou xbf tag xn xu : Statement (.gbpred r inp oa ou xbf tag xn xu) :=
  x2 (m := 0x3D#6) rfl rfl rfl (by simp [Ring.waits, Ring.sigs, BitVec.extractLsb'_or]) (fun h => by rw [rawX_3D h]; simp [decX3D, Ring.two, Ring.waits, Ring.sigs, Ring.none, BitVec.extractLsb'_or])
theorem gbchk r inp orp ht xu tag : Statement (.gbchk r inp orp ht xu tag) :=
  x2 (m := 0x3D#6) rfl rfl rfl (by simp [Ring.waits, Ring.sigs, BitVec.extractLsb'_or]) (fun h => by rw [rawX_3D h]; simp [decX3D, Ring.two, Ring.waits, Ring.sigs, Ring.none, BitVec.extractLsb'_or])
theorem loadDataReturn : Statement .loadDataReturn := ev rfl
theorem pageWalkComplete : Statement .pageWalkComplete := ev rfl
theorem remoteStrongAccess : Statement .remoteStrongAccess := ev rfl
theorem messageRequest : Statement .messageRequest := ev rfl
theorem messageAccept : Statement .messageAccept := ev rfl
theorem messagePayloadComplete : Statement .messagePayloadComplete := ev rfl
theorem handlerStart : Statement .handlerStart := ev rfl
theorem mergeStep : Statement .mergeStep := ev rfl
theorem streamCommandEffect : Statement .streamCommandEffect := ev rfl
theorem streamFillItem : Statement .streamFillItem := ev rfl
theorem streamDrainItem : Statement .streamDrainItem := ev rfl
theorem decompressBlock : Statement .decompressBlock := ev rfl
theorem remoteMessageSend : Statement .remoteMessageSend := ev rfl
theorem gatherAccept : Statement .gatherAccept := ev rfl
theorem gatherPeerRequest : Statement .gatherPeerRequest := ev rfl
theorem gatherRowReturn : Statement .gatherRowReturn := ev rfl
theorem peerUnreachable : Statement .peerUnreachable := ev rfl
theorem scatterUpdate : Statement .scatterUpdate := ev rfl
theorem gsyncClose : Statement .gsyncClose := ev rfl
theorem gatherPerformed : Statement .gatherPerformed := ev rfl
theorem generationDrop : Statement .generationDrop := ev rfl
theorem barrierRelease : Statement .barrierRelease := ev rfl
theorem semaphoreGrant : Statement .semaphoreGrant := ev rfl
theorem semwtTimeout : Statement .semwtTimeout := ev rfl
theorem drainTimeout : Statement .drainTimeout := ev rfl
theorem timerdDeadline : Statement .timerdDeadline := ev rfl
theorem matrixCommandStart : Statement .matrixCommandStart := ev rfl
theorem matrixCommandPerformed : Statement .matrixCommandPerformed := ev rfl
theorem faultRecordEnqueue : Statement .faultRecordEnqueue := ev rfl
theorem gambitPerform : Statement .gambitPerform := ev rfl
theorem secondCompare : Statement .secondCompare := ev rfl
theorem rollback : Statement .rollback := ev rfl
theorem imageTextCopy : Statement .imageTextCopy := ev rfl
theorem jobStart : Statement .jobStart := ev rfl
theorem jobComplete : Statement .jobComplete := ev rfl
theorem clusterReport : Statement .clusterReport := ev rfl
theorem instanceComplete : Statement .instanceComplete := ev rfl
theorem walkerDeal : Statement .walkerDeal := ev rfl
theorem tileDeposit : Statement .tileDeposit := ev rfl
theorem corePop : Statement .corePop := ev rfl
theorem steal : Statement .steal := ev rfl
theorem starving : Statement .starving := ev rfl
theorem jobSave : Statement .jobSave := ev rfl
theorem safePointOverdue : Statement .safePointOverdue := ev rfl
theorem clockFire : Statement .clockFire := ev rfl
theorem heldTileRelease : Statement .heldTileRelease := ev rfl
theorem clkcmdWrite : Statement .clkcmdWrite := ev rfl
theorem clkcmdRead : Statement .clkcmdRead := ev rfl
theorem clkcmdClearEn : Statement .clkcmdClearEn := ev rfl
theorem eventRingWrite : Statement .eventRingWrite := ev rfl
theorem evheadWrite : Statement .evheadWrite := ev rfl
theorem barstateWrite : Statement .barstateWrite := ev rfl
theorem semstateWrite : Statement .semstateWrite := ev rfl
theorem lfsrWrite : Statement .lfsrWrite := ev rfl
theorem moncfgWrite : Statement .moncfgWrite := ev rfl
theorem monedgeWrite : Statement .monedgeWrite := ev rfl
theorem monitorSample : Statement .monitorSample := ev rfl
theorem monitorLevelTick : Statement .monitorLevelTick := ev rfl
theorem brctlPause : Statement .brctlPause := ev rfl
theorem brctlResume : Statement .brctlResume := ev rfl
theorem brctlRetrain : Statement .brctlRetrain := ev rfl
theorem brrepairWrite : Statement .brrepairWrite := ev rfl
theorem bridgePauseDone : Statement .bridgePauseDone := ev rfl
theorem bridgeTrainingDone : Statement .bridgeTrainingDone := ev rfl
theorem bridgeFlitRetry : Statement .bridgeFlitRetry := ev rfl
theorem plrdataWrite : Statement .plrdataWrite := ev rfl
theorem peerFlitReceive : Statement .peerFlitReceive := ev rfl
theorem peerNak : Statement .peerNak := ev rfl
theorem peerRetrainTimeout : Statement .peerRetrainTimeout := ev rfl
theorem peerRequestTimeout : Statement .peerRequestTimeout := ev rfl
theorem openSession : Statement .openSession := ev rfl
theorem closeSession : Statement .closeSession := ev rfl
theorem sessionTimeout : Statement .sessionTimeout := ev rfl
theorem subscribe : Statement .subscribe := ev rfl
theorem loadimg : Statement .loadimg := ev rfl
theorem writemem : Statement .writemem := ev rfl
theorem readmem : Statement .readmem := ev rfl
theorem bindtable : Statement .bindtable := ev rfl
theorem launch : Statement .launch := ev rfl
theorem clock : Statement .clock := ev rfl
theorem kill : Statement .kill := ev rfl
theorem readscore : Statement .readscore := ev rfl
theorem readmon : Statement .readmon := ev rfl
theorem readhealth : Statement .readhealth := ev rfl
theorem ecpAdjourn : Statement .ecpAdjourn := ev rfl
theorem resume : Statement .resume := ev rfl
theorem attest : Statement .attest := ev rfl
theorem otherFrame : Statement .otherFrame := ev rfl
theorem neighbourDiscovery : Statement .neighbourDiscovery := ev rfl
theorem echo : Statement .echo := ev rfl
theorem mkaFrame : Statement .mkaFrame := ev rfl
theorem ptpEventMessage : Statement .ptpEventMessage := ev rfl
theorem ptpHoldover : Statement .ptpHoldover := ev rfl
theorem pwrFail : Statement .pwrFail := ev rfl
theorem railLow : Statement .railLow := ev rfl
theorem adjournmentSaved : Statement .adjournmentSaved := ev rfl
theorem powerRestored : Statement .powerRestored := ev rfl
theorem holdExpiry : Statement .holdExpiry := ev rfl
theorem powerUp : Statement .powerUp := ev rfl
theorem holdupStoreFull : Statement .holdupStoreFull := ev rfl
theorem thermalTrip : Statement .thermalTrip := ev rfl
theorem warmReset : Statement .warmReset := ev rfl
theorem storePerformed : Statement .storePerformed := ev rfl
theorem peerTrainingDone : Statement .peerTrainingDone := ev rfl

end Sys2Proof.Laws.RoundTrip
end

