-- ==== Sys2Proof/Tests/Slice0.lean ====
section
/-! SUPPORT. The model's own tests: ill-formed instructions that the check refuses, words of the manual that decode, single steps
with results from the manual or worked out by hand from it, and for each statement with hypotheses a state and operands that meet
them. -/

namespace Sys2Proof.Tests

open Machine

-- One theorem after another: each is evaluated by the kernel, and many at once would need much memory.
set_option Elab.async false

/-! ### The small states of the tests -/

/-- The device with power and past its start-up, with one context that runs and is to issue, a job on core 0, and what else core 0
holds. -/
def one (ag : Nat) (x : Ctx) (c : Core) : State :=
  { phase := .run, cur := ag, ctxs := [(ag, { x with run := .run })], cores := [(0, { c with job := some placedJob })] }

/-- LA, EX, SA and the handler of core 0, and the Director of die 0. -/
def la (x : Ctx := {}) (c : Core := {}) : State := one 0 x c
def ex (x : Ctx := {}) (c : Core := {}) : State := one 1 x c
def sa (x : Ctx := {}) (c : Core := {}) : State := one 2 x c
def hdl (x : Ctx := {}) (c : Core := {}) : State := one 3 x c
def dir (x : Ctx := {}) : State := one 1536 x {}

/-- The state of the engine that has an instruction. -/
def stateFor (i : Instr) : State :=
  match i.form with
  | some (_, .ex) => ex
  | some (_, .hdl) => hdl
  | some (_, .dir) => dir
  | _ => la

/-- What holds of the state after an instruction. -/
def after (i : Instr) (s : State) (p : State → Bool) : Bool :=
  match exec i s with
  | .next t => p t
  | _ => false

/-- What holds of the state after a step. -/
def afterStep (s : State) (p : State → Bool) : Bool :=
  match step s with
  | .next t => p t
  | _ => false

/-- `Allowed`, as a function that is evaluated. -/
def allowedB (i : Instr) (r : Ring) (c : Cls) (s : State) : Bool :=
  c.okFor (agEng s.cur) && i.wf && i.regsOk (agEng s.cur).isa
    && (decide (agEng s.cur ≠ .hdl ∧ agEng s.cur ≠ .dir) || decide (r = noRing))
    && (decide (s.me.gRem = 0) || !guardBanned i)
    && decide (staticCause (agEng s.cur) (agDie s.cur) s.me.pc i = none)

/-- `Ready`, as a function that is evaluated. -/
def readyB (i : Instr) (r : Ring) (c : Cls) (s : State) : Bool :=
  allowedB i r c s && decide (s.me.run = .run) && decide (s.me.sigs = [])
    && (ringWaits (agEng s.cur) r).all (fun q => decide (s.myCore.toks q ≠ 0))
    && (decide (s.me.gRem = 0) || s.me.gOn) && s.me.loads.all fun l => decide (l.val ≠ none)

/-- `GuardedOff`, as a function that is evaluated. -/
def guardedOffB (i : Instr) (r : Ring) (c : Cls) (s : State) : Bool :=
  allowedB i r c s && decide (s.me.run = .run) && decide (s.me.sigs = [])
    && (ringWaits (agEng s.cur) r).all (fun q => decide (s.myCore.toks q ≠ 0)) && decide (0 < s.me.gRem) && !s.me.gOn

/-- `Asks`, as a function that is evaluated. -/
def asksB (s : State) (op : Nat) (r : Req) : Bool :=
  decide (s.phase ≠ .off) && decide (reqOf s s.arg.frame = some r) && decide (r.op = op)
    && s.sess.any (fun p => decide (p.1 = r.sess))
    && decide (r.seq = ((s.ses r.sess).last + 1) % 2 ^ 32 ∧ r.seq ≠ (s.ses r.sess).last) && !(s.ses r.sess).busy
    && decide (notServed s op = none)

theorem allowed_of {i : Instr} {r : Ring} {c : Cls} {s : State} (h : allowedB i r c s = true) : Allowed i r c s := by
  simp only [allowedB, Bool.and_eq_true, Bool.or_eq_true, decide_eq_true_eq, Bool.not_eq_true'] at h
  obtain ⟨⟨⟨⟨⟨h1, h2⟩, h3⟩, h4⟩, h5⟩, h6⟩ := h
  refine ⟨h1, h2, h3, fun e => ?_, fun g => h5.resolve_left (by omega), h6⟩
  rcases h4 with h4 | h4
  · exact absurd e (by simp [h4.1, h4.2])
  · exact h4

theorem ready_of {i : Instr} {r : Ring} {c : Cls} {s : State} (h : readyB i r c s = true) : Ready i r c s := by
  simp only [readyB, Bool.and_eq_true, Bool.or_eq_true, decide_eq_true_eq, List.all_eq_true] at h
  obtain ⟨⟨⟨⟨⟨h1, h2⟩, h3⟩, h4⟩, h5⟩, h6⟩ := h
  exact { allowed_of h1 with run := h2, sigs := h3, tokens := h4, guard := h5, loads := fun _ => h6 }

theorem guardedOff_of {i : Instr} {r : Ring} {c : Cls} {s : State} (h : guardedOffB i r c s = true) : GuardedOff i r c s := by
  simp only [guardedOffB, Bool.and_eq_true, decide_eq_true_eq, List.all_eq_true, Bool.not_eq_true'] at h
  obtain ⟨⟨⟨⟨⟨h1, h2⟩, h3⟩, h4⟩, h5⟩, h6⟩ := h
  exact { allowed_of h1 with run := h2, sigs := h3, tokens := h4, inside := h5, off := h6 }

theorem asks_of {s : State} {op : Nat} {r : Req} (h : asksB s op r = true) : Asks s op r := by
  simp only [asksB, Bool.and_eq_true, decide_eq_true_eq, Bool.not_eq_true'] at h
  obtain ⟨⟨⟨⟨⟨⟨h1, h2⟩, h3⟩, h4⟩, h5⟩, h6⟩, h7⟩ := h
  exact ⟨h1, h2, h3, h4, h5, h6, h7⟩

/-- `Ready` with the form of the instruction itself, as a function that is evaluated. -/
def readyForm (i : Instr) (s : State) : Bool :=
  match i.form with
  | some (r, c) => readyB i r c s
  | none => false


/-! ### Ill-formed instructions: for each check of `Instr.wf` and `Instr.regsOk` a term that it refuses, beside one that passes -/

/-- No RING bits. -/
abbrev o : Ring := noRing

/-- CMP compares integers: the NaN tests are no condition of it (R113). -/
theorem test_wf_cmp : (Instr.cmp o 1#7 1#5 2#5 .un).wf = false ∧ (Instr.cmpi o 1#7 1#5 .ord 0#6).wf = false
    ∧ (Instr.xcmp o 1#7 1#4 2#4 .un).wf = false ∧ (Instr.cmp o 1#7 1#5 2#5 .gtu).wf = true := by decide

/-- LD of a doubleword has no SX, and with PI the destination is not the base (R161). -/
theorem test_wf_ld : (Instr.ld o 1#5 2#5 .d false true 0#8).wf = false ∧ (Instr.ld o 1#5 1#5 .w true false 4#8).wf = false
    ∧ (Instr.ld o 1#5 2#5 .w true true 4#8).wf = true := by decide

/-- LDA is relaxed or acquire, STL relaxed or release; PHASE has no scope sys (R165, R168, R169). -/
theorem test_wf_strong : (Instr.lda o 1#5 2#5 .rel .cl true).wf = false ∧ (Instr.stl o 1#5 2#5 .ar .cl true).wf = false
    ∧ (Instr.phase o .sys).wf = false ∧ (Instr.lda o 1#5 2#5 .acq .sys true).wf = true := by decide

/-- TKW and TKS take 1 to 16 tokens, SQPUSH 1 to 8 codes (R170, R173). -/
theorem test_wf_counts : (Instr.tkw o true 0#5).wf = false ∧ (Instr.tks o true 17#5).wf = false
    ∧ (Instr.sqpush o 1#5 9#5).wf = false ∧ (Instr.sqpush o 1#5 0#5).wf = false ∧ (Instr.tkw o true 16#5).wf = true := by decide

/-- A tag is zero with ANY, a port zero with UB, a handler address zero without HE (R172, R174, R175). -/
theorem test_wf_queues : (Instr.poprpl o 1#5 true 3#16).wf = false ∧ (Instr.sqbind o true 1#5).wf = false
    ∧ (Instr.msend o 1#5 2#5 0#7 false 0#3 1#14).wf = false ∧ (Instr.msend o 1#5 2#5 0#7 true 0#3 1#14).wf = true := by decide

/-- SOPEN names a queue only for a message queue and a base only where one is used (R218, R220). -/
theorem test_wf_sopen : (Instr.sopen o 1#5 2#5 3#5 .glob .ex 0#8 .rne false 1#3).wf = false
    ∧ (Instr.sopen o 1#5 2#5 3#5 .ex .mxb 0#8 .rne false 0#3).wf = false
    ∧ (Instr.sopen o 1#5 2#5 3#5 .glob .ex 0#8 .rne false 0#3).wf = true := by decide

/-- SLEV takes its extent from RS2 or, not zero, from word 2; SREMOTE its target from RS1 or RS2; SMARK clears or marks
automatically, not both; SMERGE's absent outputs are zero (R221, R226, R230, R234). -/
theorem test_wf_streams : (Instr.slev o 1#5 2#5 3#5 0#2 true 4#27).wf = false ∧ (Instr.slev o 1#5 2#5 0#5 0#2 true 0#27).wf = false
    ∧ (Instr.slev o 1#5 2#5 3#5 0#2 false 4#27).wf = false ∧ (Instr.sremote o 1#5 2#5 3#5 false 0#3 0#14 true 0#3).wf = false
    ∧ (Instr.sremote o 1#5 2#5 3#5 false 0#3 0#14 false 0#3).wf = false
    ∧ (Instr.sremote o 1#5 2#5 0#5 false 0#3 4#14 false 0#3).wf = false
    ∧ (Instr.smark o 1#5 true true 0#2).wf = false
    ∧ (Instr.smerge o 1#5 2#5 3#5 4#5 false false 5#5 true true false 0#16).wf = false
    ∧ (Instr.smerge o 1#5 2#5 3#5 4#5 false false 5#5 false true true 0#16).wf = false
    ∧ (Instr.smerge o 1#5 2#5 3#5 4#5 false false 5#5 true false true 0#16).wf = false
    ∧ (Instr.smerge o 1#5 2#5 3#5 4#5 false false 5#5 true true true 0#16).wf = true := by decide

/-- GATH delivers to a port or to the pad (R344). -/
theorem test_wf_gath : (Instr.gath o 1#5 2#5 3#5 4#5 true 5#5 6#5 false 0#16).wf = false
    ∧ (Instr.gath o 1#5 2#5 3#5 4#5 false 5#5 6#5 false 0#16).wf = false
    ∧ (Instr.gath o 1#5 2#5 3#5 4#5 true 0#5 6#5 false 0#16).wf = true := by decide

/-- The element types of the vector instructions (R267 to R281). -/
theorem test_wf_vector : (Instr.vadds o 1#6 2#6 3#6 .f32).wf = false ∧ (Instr.vsubs o 1#6 2#6 3#6 .f16).wf = false
    ∧ (Instr.vmulh o 1#6 2#6 3#6 .bf16).wf = false ∧ (Instr.vshl o 1#6 2#6 3#6 .b8).wf = false
    ∧ (Instr.vshr o 1#6 2#6 3#6 .f32).wf = false ∧ (Instr.vsar o 1#6 2#6 3#6 .f32).wf = false
    ∧ (Instr.vneg o 1#6 2#6 .n8).wf = false ∧ (Instr.vsqrt o 1#6 2#6 .i32).wf = false ∧ (Instr.vrcp o 1#6 2#6 .i8).wf = false
    ∧ (Instr.vrsq o 1#6 2#6 .i8).wf = false ∧ (Instr.vexp2 o 1#6 2#6 .i8).wf = false ∧ (Instr.vlog2 o 1#6 2#6 .i8).wf = false
    ∧ (Instr.vtanh o 1#6 2#6 .i8).wf = false ∧ (Instr.vsigm o 1#6 2#6 .i8).wf = false
    ∧ (Instr.vcmp o 1#6 2#6 .i32 0#3 .un).wf = false
    ∧ (Instr.vquant o 1#6 2#6 .f32 3#6 .f32 none).wf = false ∧ (Instr.vquant o 1#6 2#6 .i8 3#6 .i8 none).wf = false
    ∧ (Instr.vdeq o 1#6 2#6 .i8 3#6 none .i8 none).wf = false ∧ (Instr.vdeq o 1#6 2#6 .f32 3#6 none .f32 none).wf = false
    ∧ (Instr.vins o 32#6 1#4 2#4 .i8).wf = false ∧ (Instr.vcmp o 1#6 2#6 .f32 0#3 .un).wf = true
    ∧ (Instr.vneg o 1#6 2#6 .i8).wf = true ∧ (Instr.vins o 31#6 1#4 2#4 .i8).wf = true := by decide

/-- The limits of the matrix instructions (R316 to R327). -/
theorem test_wf_matrix : (Instr.mxldb o none none .port 5#14 4#3 4#3 0x13#6 0#8 false).wf = false
    ∧ (Instr.mxldb o none none .port 5#14 0#3 0#3 9#6 0#8 false).wf = false
    ∧ (Instr.mxldb o none none .port 32#14 0#3 0#3 0x13#6 0#8 false).wf = false
    ∧ (Instr.mxldbs o none none false 0#14 0#3 3#2 false 0#1 0x13#6 0#10).wf = false
    ∧ (Instr.mxldbs o none none false 0#14 0#3 0#2 false 0#1 0#6 0#10).wf = false
    ∧ (Instr.mxldbs o none none false 0#14 0#3 2#2 false 1#1 0x13#6 0x3FF#10).wf = false
    ∧ (Instr.mxrun o none none false 2#11 6#6 0#4 0#7 0#5 0#5).wf = false
    ∧ (Instr.mxrun o none none false 2#11 0x13#6 0#4 0#7 16#5 16#5).wf = false
    ∧ (Instr.mxrun o none none false 32#11 0x13#6 0#4 0#7 0#5 0#5).wf = false
    ∧ (Instr.mxrung o none none 0#6 0#5 6#6 0#5 0#6 0#5 0#5).wf = false
    ∧ (Instr.mxrung o none none 0#6 0#5 0x13#6 0#5 0#6 31#5 1#5).wf = false
    ∧ (Instr.mxops o none none 0#4 4#16 0#16).wf = false
    ∧ (Instr.mxanc o none none (.deflt 0x13#6 9#6)).wf = false ∧ (Instr.mxanc o none none (.deflt 6#6 0x13#6)).wf = false
    ∧ (Instr.mxz o none none 31#5 1#5 0#2).wf = false ∧ (Instr.mxz o none none 0#5 0#5 3#2).wf = false
    ∧ (Instr.mxst o none none true 0#11 31#5 0#3 1#5 0x13#6 .rne false 0#3).wf = false
    ∧ (Instr.mxst o none none true 0#11 0#5 7#3 0#5 0x13#6 .rne false 1#3).wf = false
    ∧ (Instr.mxst o none none true 0#11 0#5 0#3 0#5 0#6 .rne false 0#3).wf = false
    ∧ (Instr.mxst o none none false 32#11 0#5 0#3 0#5 0x13#6 .rne false 0#3).wf = false
    ∧ (Instr.mxspill o none none true 0#11 31#5 1#5).wf = false ∧ (Instr.mxfill o none none false 32#11 0#5 0#5).wf = false
    ∧ (Instr.mxclrp o none none 31#5 1#5 true 0#8).wf = false ∧ (Instr.mxclrp o none none 1#5 0#5 false 0#8).wf = false
    ∧ (Instr.mxldb o none none .port 31#14 3#3 4#3 0x13#6 0#8 false).wf = true
    ∧ (Instr.mxrun o none none false 2#11 0x13#6 0#4 0#7 16#5 15#5).wf = true := by decide

/-- The ports of the Gambit instructions (R363, R369). -/
theorem test_wf_gambit : (Instr.gbpred o 1#6 31#6 33#6 false 0#16 1#4 2#4).wf = false
    ∧ (Instr.gbpred o 1#6 32#6 32#6 false 0#16 1#4 2#4).wf = false ∧ (Instr.gbpred o 33#6 32#6 33#6 false 0#16 1#4 2#4).wf = false
    ∧ (Instr.gbchk o 1#6 32#6 .i8 1#4 0#16).wf = false ∧ (Instr.gbchk o 32#6 32#6 .f16 1#4 0#16).wf = false
    ∧ (Instr.gbpred o 1#6 32#6 33#6 false 0#16 1#4 2#4).wf = true := by decide

/-- In EX the registers of the sync class are x0 to x15 (R120, R243). -/
theorem test_regs : (Instr.bara o 16#5 0#5).regsOk .x = false ∧ (Instr.bara o 16#5 0#5).regsOk .a = true
    ∧ (Instr.barinit o 16#5 0#5).regsOk .x = false ∧ (Instr.sems o 16#5 0#4).regsOk .x = false
    ∧ (Instr.semw o 16#5 0#4).regsOk .x = false ∧ (Instr.barw o 1#5 0#5 16#5).regsOk .x = false
    ∧ (Instr.barwa o 16#5 0#2 1#5).regsOk .x = false ∧ (Instr.semwt o 1#5 0#4 16#5).regsOk .x = false
    ∧ (Instr.semwt o 15#5 0#4 15#5).regsOk .x = true := by decide


/-! ### Words of the manual decode to the instructions that its listings name -/

/-- The listing of spec/04_encoding.md: "LD a6, [a3 += #16] :: wprev" and its neighbours, and the two words of
"VFMA.F32 v4, s2, v5, v6 :: wprev, snext". -/
theorem test_words_encoding :
    decode .a 0x02061000#32 0#32 = some (.li o 3#5 0x1000#17) ∧
    decode .a 0x860C3E10#32 0#32 = some (.ld ⟨true, false, false, false⟩ 6#5 3#5 .d true false 0x10#8) ∧
    decode .a 0x00484FFF#32 0#32 = some (.addi o 4#5 4#5 0xFFF#12) ∧
    decode .a 0x02829002#32 0#32 = some (.cmp o 5#7 4#5 0#5 .ne) ∧
    decode .a 0x1402BFFD#32 0#32 = some (.b ⟨false, false, false, true⟩ 5#7 false 0x3FFD#14) ∧
    decode .x 0x84048858#32 0x11800000#32 = some (.vfma ⟨true, false, false, true⟩ 4#6 34#6 5#6 .f32 6#6 none none) := by
  decide +kernel

/-- With snext in word 1 instead the decoder refuses the two words (R105, spec/04_encoding.md), and so it does an assigned major with
an unassigned function and a reserved bit that is set. -/
theorem test_words_refused :
    decode .x 0x94048858#32 0x01800000#32 = none ∧ decode .a 0x000A5315#32 0#32 = none ∧
    decode .a 0x5AC60013#32 0#32 = none := by decide +kernel

/-- The listings of spec/05_access.md: building a constant, and the sum loop. -/
theorem test_words_access :
    decode .a 0x0206048D#32 0#32 = some (.li o 3#5 0x48D#17) ∧ decode .a 0x02462B3C#32 0#32 = some (.lui o 3#5 0x2B3C#17) ∧
    decode .a 0x05420005#32 0#32 = some (.loop o 0#2 4#5 5#14) ∧
    decode .a 0x068C3A04#32 0#32 = some (.ldp o 6#5 3#5 .w true 4#8) ∧
    decode .a 0x000A5300#32 0#32 = some (.add o 5#5 5#5 6#5) ∧
    decode .a 0x06CA3C00#32 0#32 = some (.stp o 5#5 3#5 .d false 0#8) ∧ decode .a 0x05C00001#32 0#32 = some (.rdv o) ∧
    decode .a 0x078C328E#32 0#32 = some (.amoAdd o 6#5 3#5 5#5 .rlx .dev true) := by decide +kernel

/-- The listing of spec/06_streams.md: "SOPEN s3, a3, a4, glob, ex, #0x09" to "SCLOSE s3 :: wnext", and EX's part. -/
theorem test_words_streams :
    decode .a 0x09063200#32 0x00009000#32 = some (.sopen o 3#5 3#5 4#5 .glob .ex 9#8 .rne false 0#3) ∧
    decode .a 0x09465000#32 0x08000004#32 = some (.slev o 3#5 5#5 0#5 0#2 true 4#27) ∧
    decode .a 0x0AC60002#32 0#32 = some (.smark o 3#5 false false 0#2) ∧
    decode .a 0x1AC60000#32 0#32 = some (.sgo ⟨false, false, false, true⟩ 3#5) ∧
    decode .a 0x5AC60003#32 0#32 = some (.srew ⟨false, true, false, true⟩ 3#5 0#2) ∧
    decode .a 0x4AC60006#32 0#32 = some (.sclose ⟨false, true, false, false⟩ 3#5) ∧
    decode .x 0x89810C00#32 0#32 = some (.vshape ⟨true, false, false, false⟩ 1#6 3#6) ∧
    decode .x 0xA4828CA6#32 0#32 = some (.vmov ⟨true, false, true, false⟩ 2#6 35#6 .f16) ∧
    decode .x 0x0BC00002#32 0#32 = some (.rdvX o) := by decide +kernel

/-- The listings of spec/07_synchroniser.md. -/
theorem test_words_sync :
    decode .a 0x0C0A8302#32 0#32 = some (.barwa o 5#5 1#2 6#5) ∧ decode .a 0x0C4A1000#32 0#32 = some (.barinit o 5#5 1#5) ∧
    decode .a 0x0C401080#32 0#32 = some (.barinitFree o 1#5) ∧ decode .a 0x0C8A3000#32 0#32 = some (.sems o 5#5 3#4) ∧
    decode .a 0x0CCA3300#32 0#32 = some (.semwt o 5#5 3#4 6#5) ∧ decode .a 0x0C181000#32 0#32 = some (.bara o 12#5 1#5) ∧
    decode .a 0x0C182001#32 0#32 = some (.barw o 12#5 2#5 0#5) := by decide +kernel

/-- The listing of spec/08_execute.md. -/
theorem test_words_execute :
    decode .x 0x08C00004#32 0#32 = some (.vsplat o 0#6 0#4 .i32) ∧ decode .x 0x00818A58#32 0#32 = some (.vmul o 1#6 34#6 37#6 .f32) ∧
    decode .x 0x04C09804#32 0x00040004#32 = some (.vcmp o 38#6 0#6 .i32 1#3 .ne) ∧
    decode .x 0x07020408#32 0x00240000#32 = some (.vsegsum o 2#6 1#6 .f32 1#3 none) ∧
    decode .x 0x24A708A8#32 0#32 = some (.vmov ⟨false, false, true, false⟩ 39#6 2#6 .f32) ∧
    decode .x 0x050C8004#32 0#32 = some (.kpop o 3#4 1#3) ∧ decode .x 0x0A54FFFE#32 0#32 = some (.xaddi o 5#4 3#4 0x3FFE#14) ∧
    decode .x 0x0BC14005#32 0#32 = some (.xset o 5#4 .vshape) ∧
    decode .x 0x802A0A98#32 0#32 = some (.vadd ⟨true, false, false, false⟩ 42#6 2#6 41#6 .f32) := by decide +kernel

/-- The listing of spec/09_matrix.md: "MXLDBS.G #0x3_0000, #1, #0x13, #88, D32" and its neighbours. -/
theorem test_words_matrix :
    decode .x 0x8ED00EFF#32 0#32 = some (.mxclrp ⟨true, false, false, false⟩ none none 0#5 3#5 true 0xFF#8) ∧
    decode .x 0x0E1934C0#32 0#32 = some (.mxanc o none none (.deflt 0x13#6 0x13#6)) ∧
    decode .x 0x0E400C00#32 0#32 = some (.mxz o none none 0#5 3#5 0#2) ∧
    decode .x 0x0D630008#32 0x0001315C#32 = some (.mxldbs o none none true 0x600#14 0#3 2#2 false 0#1 0x13#6 87#10) ∧
    decode .x 0x0D800930#32 0x0002B802#32 = some (.mxrun o none none false 2#11 0x13#6 0#4 87#7 0#5 1#5) ∧
    decode .x 0x0D800930#32 0x0002B882#32 = some (.mxrun o none none false 2#11 0x13#6 0#4 87#7 2#5 1#5) ∧
    decode .x 0x0E588000#32 0x20006380#32
      = some (.mxst ⟨false, false, true, false⟩ none none true 0x80#11 0#5 0#3 3#5 7#6 .rne false 0#3) := by decide +kernel

/-- The listing of spec/10_gather.md. -/
theorem test_words_gather :
    decode .a 0x0B000000#32 0#32 = some (.gtbind o 0#5 0#5) ∧
    decode .a 0x0B8E8480#32 0x21150A01#32
      = some (.gathp ⟨false, false, true, false⟩ 7#5 8#5 9#5 0#5 false 4#5 10#5 true 0x0A01#16) ∧
    decode .a 0x5B003281#32 0#32 = some (.gtswap ⟨false, true, false, true⟩ 0#5 3#5 5#5) := by decide +kernel

/-- The listing of spec/11_gambit.md. -/
theorem test_words_gambit :
    decode .x 0x0F000000#32 0#32 = some (.gbld o 0#4) ∧ decode .x 0x0F189AB0#32 0#32 = some (.gbth o 8#4 9#4 10#4 11#4) ∧
    decode .x 0x0F40228C#32 0x00B01CD0#32 = some (.gbpred o 0#6 34#6 35#6 false 0x0B01#16 12#4 13#4) ∧
    decode .x 0x0F51648D#32 0x20B02000#32 = some (.gbchk ⟨false, false, true, false⟩ 5#6 36#6 .f32 13#4 0x0B02#16) := by
  decide +kernel

/-- The listings of spec/14_director.md. -/
theorem test_words_director :
    decode .a 0x0E441000#32 0#32 = some (.preempt 2#5 1#5) ∧ decode .a 0x0EC83000#32 0#32 = some (.timerd 4#5 3#5) ∧
    decode .a 0x0E441503#32 0#32 = some (.drain 2#5 1#5 10#5) ∧ decode .a 0x0E441A01#32 0#32 = some (.ctxsave 2#5 1#5 20#5) ∧
    decode .a 0x0E84C580#32 0#32 = some (.semmap 2#5 12#5 11#5) ∧ decode .a 0x0E441A82#32 0#32 = some (.ctxload 2#5 1#5 21#5) ∧
    decode .a 0x03960901#32 0#32 = some (.csrr o 11#5 0x901#12) ∧ decode .a 0x03C0A904#32 0#32 = some (.csrw o 10#5 0x904#12) := by
  decide +kernel

/-- Encoding gives the manual's words back (spec/04_encoding.md, spec/09_matrix.md, spec/10_gather.md). -/
theorem test_encode :
    encode (.vfma ⟨true, false, false, true⟩ 4#6 34#6 5#6 .f32 6#6 none none) = [0x84048858#32, 0x11800000#32] ∧
    encode (.mxldbs o none none true 0x600#14 0#3 2#2 false 0#1 0x13#6 87#10) = [0x0D630008#32, 0x0001315C#32] ∧
    encode (.gathp ⟨false, false, true, false⟩ 7#5 8#5 9#5 0#5 false 4#5 10#5 true 0x0A01#16) = [0x0B8E8480#32, 0x21150A01#32] := by
  decide +kernel

/-- The table's word of a row is read by the decoder (LI of the listing above), and a step runs it as the first instruction after
reset. -/
theorem test_table_word :
    decodeTableWord 32 0x0206048D = some (.li o 3#5 0x48D#17) ∧
    afterStep (State.reset.withFetchWord 32 0x0206048D) (fun t => decide (t.cur = 0 ∧ (t.ctx 0).reg 3 = 0x48D#64 ∧ (t.ctx 0).pc = 1))
      = true := by decide +kernel


/-! ### Every instruction that a context issues can be ready -/

/-- Instructions in the order of the table, with their fields at legal values (part 1). -/
def samples1 : List Instr :=
  [.add o 1#5 2#5 3#5, .sub o 1#5 2#5 3#5, .mul o 1#5 2#5 3#5, .mulh o 1#5 2#5 3#5, .mulhu o 1#5 2#5 3#5, .div o 1#5 2#5 3#5,
   .divu o 1#5 2#5 3#5, .rem o 1#5 2#5 3#5, .remu o 1#5 2#5 3#5, .min o 1#5 2#5 3#5, .minu o 1#5 2#5 3#5, .max o 1#5 2#5 3#5,
   .maxu o 1#5 2#5 3#5, .shl o 1#5 2#5 3#5, .shr o 1#5 2#5 3#5, .sar o 1#5 2#5 3#5, .and o 1#5 2#5 3#5, .or o 1#5 2#5 3#5,
   .xor o 1#5 2#5 3#5, .clz o 1#5 2#5, .popc o 1#5 2#5, .addi o 1#5 2#5 4088#12, .andi o 1#5 2#5 4088#12,
   .ori o 1#5 2#5 4088#12, .xori o 1#5 2#5 4088#12, .shli o 1#5 2#5 3#6, .shri o 1#5 2#5 3#6, .sari o 1#5 2#5 3#6,
   .li o 1#5 131064#17, .lui o 1#5 131064#17, .cmp o 5#7 1#5 2#5 .gtu, .cmpi o 5#7 1#5 .lt 0x3F#6, .pand o 1#5 2#5 3#5,
   .por o 1#5 2#5 3#5, .pxor o 1#5 2#5 3#5, .pnot o 1#5 2#5, .sel o 1#5 2#5 3#5 4#7, .csrr o 1#5 0x015#12,
   .csrw o 2#5 0x017#12, .b o 1#7 false 8#14]

theorem test_ready1 : ∀ i ∈ samples1, readyForm i (stateFor i) = true := by decide +kernel

/-- Instructions in the order of the table, with their fields at legal values (part 2). -/
def samples2 : List Instr :=
  [.j o 1#14, .jal o 1#5 2#14, .jr o 1#5, .guard o 1#7 false 2#3, .loop o 1#2 2#5 9#14, .loopsp o 1#6, .safe o, .rdv o,
   .spawn o 1#5 2#5, .trap o 1#5, .hret o, .ld o 1#5 2#5 .w false false 8#8, .st o 1#5 2#5 .w false 8#8,
   .ldp o 1#5 2#5 .w false 8#8, .ldpF o 1#5 2#5 .w 8#8, .stp o 1#5 2#5 .w false 8#8, .stpE o 1#5 2#5 .w 8#8,
   .lda o 1#5 2#5 .acq .cl true, .stl o 2#5 1#5 .rel .die true, .amoAdd o 1#5 2#5 3#5 .ar .dev false,
   .amoAnd o 1#5 2#5 3#5 .ar .dev false, .amoOr o 1#5 2#5 3#5 .ar .dev false, .amoXor o 1#5 2#5 3#5 .ar .dev false,
   .amoMin o 1#5 2#5 3#5 .ar .dev false, .amoMax o 1#5 2#5 3#5 .ar .dev false, .amoMinU o 1#5 2#5 3#5 .ar .dev false,
   .amoMaxU o 1#5 2#5 3#5 .ar .dev false, .amoSwap o 1#5 2#5 3#5 .ar .dev false, .cas o 1#5 2#5 3#5 .ar .dev false,
   .fence o .rlx .sys, .phase o .die, .tkw o true 1#5, .tks o false 16#5, .stw o 1#5, .poprpl o 1#5 false 7#16,
   .sqpush o 1#5 8#5, .sqbind o false 3#5, .msend o 1#5 2#5 3#7 true 1#3 64#14,
   .sopen o 3#5 1#5 2#5 .glob .ex 9#8 .rne true 0#3, .slev o 3#5 5#5 0#5 1#2 true 4#27]

theorem test_ready2 : ∀ i ∈ samples2, readyForm i (stateFor i) = true := by decide +kernel

/-- Instructions in the order of the table, with their fields at legal values (part 3). -/
def samples3 : List Instr :=
  [.sind o 1#5 2#5 3#5, .ssrc o 1#5 2#5, .sremote o 3#5 1#5 0#5 true 2#3 64#14 false 0#3,
   .smerge o 1#5 2#5 3#5 4#5 true false 5#5 true true true 9#16, .sbfmt o 1#5 2#8, .sgo o 1#5, .sfork o 1#5 2#5 .ex,
   .smark o 3#5 false true 1#2, .srew o 1#5 2#2, .ssave o 1#5 2#5 false, .srest o 1#5 2#5, .sclose o 1#5, .sstat o 1#5 2#5,
   .sflush o 1#5, .gtbind o 1#5 2#5, .gtswap o 1#5 2#5 3#5, .gsync o 1#5 2#5, .gath o 1#5 2#5 3#5 4#5 false 5#5 0#5 true 9#16,
   .gathp o 1#5 2#5 3#5 4#5 false 5#5 6#5 false 7#16, .scat o 1#5 2#5 3#5 4#5 5#5 6#16, .scata o 1#5 2#5 3#5 4#5 5#5 6#16,
   .bara o 1#5 2#5, .barw o 1#5 2#5 3#5, .barwa o 1#5 2#2 3#5, .barinit o 1#5 2#5, .barinitFree o 1#5, .sems o 1#5 2#4,
   .semw o 1#5 2#4, .semwt o 1#5 2#4 3#5, .asidset 1#5 2#5 3#5, .ptbase 1#5 2#5 3#5, .tlbinv 1#5 2#5 3#5, .killctx 1#5 2#5,
   .preempt 1#5 2#5, .ctxsave 1#5 2#5 3#5, .ctxload 1#5 2#5 3#5, .drain 1#5 2#5 3#5, .semmap 1#5 2#5 3#5, .lqpush 1#5 2#5,
   .wake 1#5 2#5 3#5]

theorem test_ready3 : ∀ i ∈ samples3, readyForm i (stateFor i) = true := by decide +kernel

/-- Instructions in the order of the table, with their fields at legal values (part 4). -/
def samples4 : List Instr :=
  [.timerd 1#5 2#5, .adjourn 1#5 2#5, .score 1#5 2#5 3#5, .monsnap 1#5 2#5 3#5, .vadd o 1#6 2#6 3#6 .i32,
   .vsub o 1#6 2#6 3#6 .i32, .vmul o 1#6 2#6 3#6 .i32, .vmin o 1#6 2#6 3#6 .i32, .vmax o 1#6 2#6 3#6 .i32,
   .vabd o 1#6 2#6 3#6 .i32, .vadds o 1#6 2#6 3#6 .i32, .vsubs o 1#6 2#6 3#6 .i32, .vmulh o 1#6 2#6 3#6 .i32,
   .vdiv o 1#6 2#6 3#6 .i32, .vand o 1#6 2#6 3#6 .i32, .vor o 1#6 2#6 3#6 .i32, .vxor o 1#6 2#6 3#6 .i32,
   .vshl o 1#6 2#6 3#6 .i32, .vshr o 1#6 2#6 3#6 .i32, .vsar o 1#6 2#6 3#6 .i32, .vfma o 1#6 2#6 3#6 .i32 4#6 none none,
   .vfms o 1#6 2#6 3#6 .i32 4#6 none none, .vabs o 1#6 2#6 .i32, .vneg o 1#6 2#6 .f32, .vnot o 1#6 2#6 .i32,
   .vsqrt o 1#6 2#6 .f32, .vrcp o 1#6 2#6 .f32, .vrsq o 1#6 2#6 .f32, .vexp2 o 1#6 2#6 .f32, .vlog2 o 1#6 2#6 .f32,
   .vtanh o 1#6 2#6 .f32, .vsigm o 1#6 2#6 .f32, .vmov o 1#6 2#6 .i32, .vcmp o 1#6 2#6 .i16 1#3 .lt, .kand o 1#3 2#3 3#3,
   .kor o 1#3 2#3 3#3, .kxor o 1#3 2#3 3#3, .knot o 1#3 2#3, .kpop o 1#4 2#3, .kfirst o 1#4 2#3]

theorem test_ready4 : ∀ i ∈ samples4, readyForm i (stateFor i) = true := by decide +kernel

/-- Instructions in the order of the table, with their fields at legal values (part 5). -/
def samples5 : List Instr :=
  [.vsel o 1#6 2#6 3#6 .i32 4#3, .vmovm o 1#6 2#6 .i32 3#3 false, .vcvt o 1#6 2#6 .i32 none .i32 none,
   .vquant o 1#6 2#6 .i8 3#6 .f32 none, .vdeq o 1#6 2#6 .f32 3#6 none .i8 none, .vrsumr o 1#6 2#6 .i32, .vrsumc o 1#6 2#6 .i32,
   .vrmax o 1#6 2#6 .i32, .vrmin o 1#6 2#6 .i32, .vscanSum o 1#6 2#6 .i32, .vscanMax o 1#6 2#6 .i32, .vscanMin o 1#6 2#6 .i32,
   .vsegsum o 1#6 2#6 .i32 3#3 none, .vtrn o 1#6 2#6 .i32, .vbcr o 1#6 2#6 3#4 .i32, .vbcc o 1#6 2#6 3#4 .i32,
   .vrot o 1#6 2#6 3#6 .i32, .vslide o 1#6 2#6 3#6 .i32, .viota o 1#6 .i32, .vsplat o 1#6 2#4 .i32, .vext o 1#4 2#6 3#4 .i32,
   .vins o 1#6 1#4 2#4 .f16, .vshape o 1#6 2#6, .xadd o 1#4 2#4 3#4, .xsub o 1#4 2#4 3#4, .xmul o 1#4 2#4 3#4,
   .xmulh o 1#4 2#4 3#4, .xmulhu o 1#4 2#4 3#4, .xdiv o 1#4 2#4 3#4, .xdivu o 1#4 2#4 3#4, .xrem o 1#4 2#4 3#4,
   .xremu o 1#4 2#4 3#4, .xmin o 1#4 2#4 3#4, .xminu o 1#4 2#4 3#4, .xmax o 1#4 2#4 3#4, .xmaxu o 1#4 2#4 3#4,
   .xshl o 1#4 2#4 3#4, .xshr o 1#4 2#4 3#4, .xsar o 1#4 2#4 3#4, .xand o 1#4 2#4 3#4]

theorem test_ready5 : ∀ i ∈ samples5, readyForm i (stateFor i) = true := by decide +kernel

/-- Instructions in the order of the table, with their fields at legal values (part 6). -/
def samples6 : List Instr :=
  [.xorX o 1#4 2#4 3#4, .xxor o 1#4 2#4 3#4, .xclz o 1#4 2#4, .xpopc o 1#4 2#4, .xaddi o 1#4 2#4 16376#14,
   .xmovi o 1#4 262136#18, .xcmp o 5#7 1#4 2#4 .leu, .xb o 1#7 false 8#14, .guardX o 1#7 false 2#3, .loopX o 1#2 2#4 9#14,
   .loopspX o 1#6, .steer o 1#4 2#4 false, .xj o 1#4, .rdvX o, .safeX o, .xget o 1#4 .fpacc, .xset o 1#4 .fpacc,
   .mxldb o none none .port 5#14 0#3 0#3 0x13#6 63#8 false, .mxldbs o none none true 0x600#14 0#3 2#2 false 0#1 0x13#6 87#10,
   .mxrun o none none false 2#11 0x13#6 0#4 87#7 0#5 1#5, .mxrung o none none 1#6 2#5 0x13#6 0#5 63#6 0#5 1#5,
   .mxst o none none true 0x80#11 0#5 0#3 3#5 7#6 .rne false 0#3, .mxz o none none 0#5 3#5 0#2,
   .mxops o none none 3#4 0x1B#16 0#16, .mxanc o none none (.val 20#9), .mxfence o none none,
   .mxclrp o none none 0#5 3#5 true 0xFF#8, .mxspill o none none true 0#11 0#5 0#5, .mxfill o none none true 0#11 0#5 0#5,
   .gbld o 1#4, .gbth o 1#4 2#4 3#4 4#4, .gbpred o 0#6 34#6 35#6 false 9#16 1#4 2#4, .gbchk o 5#6 36#6 .f32 2#4 9#16]

theorem test_ready6 : ∀ i ∈ samples6, readyForm i (stateFor i) = true := by decide +kernel

/-- The instructions that any context or any engine may issue are also ready in the contexts beside LA: one of each class. -/
theorem test_ready_elsewhere :
    readyB (.ld o 1#5 2#5 .w false true 8#8) o .any sa = true ∧ readyB (.ld o 1#5 2#5 .w false true 8#8) o .any hdl = true ∧
    readyB (.st o 1#5 2#5 .d false 8#8) o .any dir = true ∧ readyB (.sgo o 3#5) o .noDir hdl = true ∧ readyB (.safe o) o .ring sa = true ∧
    readyB (.bara o 1#5 2#5) o .sync ex = true ∧ readyB (.bara o 1#5 2#5) o .sync dir = false := by decide +kernel

/-- A RING nibble with all four bits, the tokens being there (R17). -/
theorem test_ready_ring : readyB (.add ⟨true, true, true, true⟩ 1#5 2#5 3#5) ⟨true, true, true, true⟩ .any
    (la {} { tok := [(0, 1), (1, 1), (2, 1), (3, 1), (4, 1), (5, 1)] }) = true := by decide +kernel


/-! ### Single steps and shared functions, with the results of the manual's own examples or worked out by hand from its rules -/

/-- Registers of a context. -/
def rg (l : List (Nat × DWord)) : Ctx := { regs := l }

/-- A translation of the first 2 MiB of context 0 to 0x10_0000, and core 0 with it. -/
def tlb0 : Tlb := { va := 0, pa := 0x100000, size := 0x200000, ctx := 0, gen := 0#16, g := false, ret := false, w := true }
def mapped : Core := { tlb := [tlb0] }

/-- The eight bytes at the physical address of a virtual address of context 0. -/
def at8 (t : State) (va : Nat) : Nat := leNat (memN t (0x100000 + va) 8)

/-- LI and LUI build 0x1234_5678_9ABC (spec/05_access.md). -/
theorem test_li_lui :
    after (.li o 3#5 0x48D#17) (la {}) (fun t => decide ((t.ctx 0).reg 3 = 0x48D#64 ∧ (t.ctx 0).pc = 1)) = true ∧
    after (.lui o 3#5 0x2B3C#17) (la (rg [(3, 0x48D#64)])) (fun t => decide ((t.ctx 0).reg 3 = 0x091A2B3C#64)) = true ∧
    after (.lui o 3#5 0x9ABC#17) (la (rg [(3, 0x091A2B3C#64)])) (fun t => decide ((t.ctx 0).reg 3 = 0x123456789ABC#64)) = true := by
  decide +kernel

/-- The borderline results of R141: DIV and REM by zero and of the smallest number by -1; a0 stays zero. -/
theorem test_div_rem :
    after (.div o 3#5 1#5 2#5) (la (rg [(1, 7#64)])) (fun t => decide ((t.ctx 0).reg 3 = 0xFFFFFFFFFFFFFFFF#64)) = true ∧
    after (.rem o 3#5 1#5 2#5) (la (rg [(1, 7#64)])) (fun t => decide ((t.ctx 0).reg 3 = 7#64)) = true ∧
    after (.div o 3#5 1#5 2#5) (la (rg [(1, 0x8000000000000000#64), (2, 0xFFFFFFFFFFFFFFFF#64)]))
      (fun t => decide ((t.ctx 0).reg 3 = 0x8000000000000000#64)) = true ∧
    after (.add o 0#5 1#5 1#5) (la (rg [(1, 7#64)])) (fun t => decide ((t.ctx 0).reg 0 = 0#64)) = true := by decide +kernel

/-- The four rows of the table under R168: CAS matched, CAS failed, AMO.ADD, AMO.MINU.W. -/
theorem test_cas_amo :
    after (.cas o 6#5 3#5 5#5 .ar .dev true) { la (rg [(5, 9#64), (6, 5#64)]) mapped with mem := [(0x100000, 5#8)] }
      (fun t => decide (at8 t 0 = 9 ∧ (t.ctx 0).reg 6 = 5#64)) = true ∧
    after (.cas o 6#5 3#5 5#5 .ar .dev true) { la (rg [(5, 7#64), (6, 5#64)]) mapped with mem := [(0x100000, 9#8)] }
      (fun t => decide (at8 t 0 = 9 ∧ (t.ctx 0).reg 6 = 9#64)) = true ∧
    after (.amoAdd o 6#5 3#5 5#5 .rlx .dev true) { la (rg [(5, 0xFFFFFFFFFFFFFFFE#64)]) mapped with mem := [(0x100000, 9#8)] }
      (fun t => decide (at8 t 0 = 7 ∧ (t.ctx 0).reg 6 = 9#64)) = true ∧
    after (.amoMinU o 6#5 3#5 5#5 .rlx .dev false) { la (rg [(5, 0xFFFFFFFF00000003#64)]) mapped with mem := [(0x100000, 7#8)] }
      (fun t => decide (at8 t 0 = 3 ∧ (t.ctx 0).reg 6 = 7#64)) = true := by decide +kernel

/-- A store is held until its member publishes, and the member itself reads it (R79, R81); a FENCE performs it (R87, R169). -/
theorem test_store_held :
    after (.st o 1#5 2#5 .h false 4#8) (la (rg [(1, 0x12345#64)]) mapped)
      (fun t => decide (t.mem = [] ∧ viewByte t 0 0x100004 = 0x45#8 ∧ viewByte t 0 0x100005 = 0x23#8 ∧ viewByte t 2 0x100004 = 0#8)
        && after (.ld o 3#5 2#5 .h false true 4#8) t (fun u => decide ((u.ctx 0).reg 3 = 0x2345#64))
        && after (.fence o .rlx .sys) t (fun u => decide (u.mem = [(0x100004, 0x45#8), (0x100005, 0x23#8)]))) = true := by
  decide +kernel

/-- The cases under R187: SX with SZ = 3 is illegal though the window is off; without SX the address is not reached when the window
is off, and is an Address Range fault, MFC 8, when it is on. -/
theorem test_ld_window :
    after (.ld o 6#5 3#5 .d false true 1#8) (la { rg [(3, 0xFFFF000000000000#64)] with gRem := 2 })
      (fun t => decide ((t.ctx 0).cause = causeWord false 0 0 1)) = true ∧
    after (.ld o 6#5 3#5 .d false false 1#8) (la { rg [(3, 0xFFFF000000000000#64)] with gRem := 2 })
      (fun t => decide ((t.ctx 0).run = .run ∧ (t.ctx 0).pc = 1 ∧ (t.ctx 0).gRem = 1)) = true ∧
    after (.ld o 6#5 3#5 .d false false 1#8) (la { rg [(3, 0xFFFF000000000000#64)] with gRem := 2, gOn := true })
      (fun t => decide ((t.ctx 0).cause = causeWord false 0 8 6 ∧ (t.ctx 0).eval = 0xFFFF000000000001#64 ∧ (t.ctx 0).run = .trapped))
        = true := by decide +kernel

/-- A word with an uncorrectable error traps when it issues, and a fall-through past 16,383 traps (R107, R187). -/
theorem test_fetch_traps :
    afterStep { la {} { ibad := [0] } with cur := 1537 } (fun t => decide ((t.ctx 0).cause = causeWord false 0 0 4)) = true ∧
    afterStep { la { pc := 16384 } with cur := 1537 }
      (fun t => decide ((t.ctx 0).cause = causeWord false 0 0 3 ∧ (t.ctx 0).eval = 16384#64)) = true := by decide +kernel

/-- LDP.W with PI of the sum loop (spec/05_access.md), and the back-edge at its END. -/
theorem test_sum_loop :
    after (.ldp o 6#5 3#5 .w true 4#8) (la (rg [(3, 0x2000#64)]) { pad := [(0x2000, 1#8)] })
      (fun t => decide ((t.ctx 0).reg 6 = 1#64 ∧ (t.ctx 0).reg 3 = 0x2004#64)) = true ∧
    after (.loop o 0#2 4#5 5#14) (la { rg [(4, 10#64)] with pc := 3 })
      (fun t => decide (mget 0#32 (t.ctx 0).lc 0 = 10#32 ∧ (t.ctx 0).pc = 4)
        && after (.add o 5#5 5#5 6#5) (t.setCtx 0 { t.ctx 0 with pc := 5 })
          (fun u => decide (mget 0#32 (u.ctx 0).lc 0 = 9#32 ∧ (u.ctx 0).pc = 4))) = true := by decide +kernel

/-- An error strikes HBM; a fill carries the poison into its element, a drain to memory, a store ends it, and EX that would read it
triggers a rollback (R465). -/
theorem test_poison :
    afterStep { la {} with inputs := [(.echo, { errs := [.hbm 0x8000] })] }
      (fun t => t.poison.contains 0x200000 && t.poison.contains 0x20003F && decide (t.poison.length = 64)) = true ∧
    (let p : Port := { st := .run, src := .glob, dst := .ex, mfmt := 5, fbank := 10, banks := 1, base := 0x100000 }
     after .streamFillItem { la {} { mapped with ports := [(3, p)], bfmt := [(10, 5#8)] } with poison := [0x200001] }
       (fun t => decide ((elPoison (t.core 0) 3 0) = some 1280 ∧ elPoison (t.core 0) 3 1 = none))) = true ∧
    (let p : Port := { st := .done, fend := true, src := .ex, dst := .glob, mfmt := 5, fbank := 10, banks := 1, base := 0x100000, fw := 2, wr := 2 }
     after .streamDrainItem { la {} { mapped with ports := [(3, p)], bfmt := [(10, 5#8)], poison := [81922] } with poison := [0x200000] }
       (fun t => decide (t.poison = []) && after .streamDrainItem t (fun u => decide (u.poison = [0x200000, 0x200001])))) = true ∧
    after (.stp o 1#5 2#5 .w false 0#8) (la (rg [(2, 64#64)]) { poison := [63, 64, 67, 68] })
      (fun t => decide ((t.core 0).poison = [63, 68])) = true ∧
    after (.vmov o 1#6 2#6 .i8) (ex {} { tpois := [4100], tiles := [(4096, 5#8)] })
      (fun t => decide (((t.core 0).rb.pending.map fun x => (x.eng, x.own, x.unit)) = some (1, true, noUnit) ∧ (t.core 0).tiles = [(4096, 5#8)]))
      = true := by decide +kernel

/-- A token is popped by a wait and pushed by a signal (R16, R17); without one the instruction waits. -/
theorem test_ring :
    after (.add ⟨true, false, false, true⟩ 1#5 2#5 3#5) (la {} { tok := [(2, 1)] })
      (fun t => decide ((t.ctx 0).pc = 1 ∧ (t.core 0).toks 2 = 0 ∧ (t.core 0).toks 0 = 1)) = true ∧
    after (.add ⟨true, false, false, true⟩ 1#5 2#5 3#5) (la {}) (fun t => decide ((t.ctx 0).pc = 0)) = true := by decide +kernel

/-- The rotation of BARWA under "BARWA rotation" of spec/07_synchroniser.md: with ROT 7 and the mask 0x0A at base 8 it picks 9, the
next time 11. -/
theorem test_barwa_rotation :
    after (.barwa o 5#5 1#2 6#5) { la (rg [(5, 0x0A#64)]) with clusters := [(0, { bars :=
        [(9, { gen := 1#16, free := false }), (11, { gen := 1#16, free := false })] })] }
      (fun t => decide ((t.ctx 0).reg 6 = 9#64 ∧ (t.ctx 0).rot = 1)
        && after (.barwa o 5#5 1#2 6#5) t (fun u => decide ((u.ctx 0).reg 6 = 11#64 ∧ (u.ctx 0).rot = 3))) = true := by decide +kernel

/-- The fifth of the "Small cases" of spec/07_synchroniser.md: BARW with a count of 3 after an arrival with 2 traps with Count
Mismatch, and the arrivals stay 1. -/
theorem test_barw_mismatch :
    after (.barw o 2#5 5#5 0#5) { la (rg [(2, 3#64)]) with clusters := [(0, { bars := [(5, { free := false, arr := 1, expect := 2 })] })] }
      (fun t => decide ((t.ctx 0).cause = causeWord false 0 0 0x13 ∧ (t.ctx 0).eval = 0x205#64 ∧ (t.bar 0 5).arr = 1)) = true := by
  decide +kernel

/-- The conversions into signed binary8p4 of "Conversion examples" (spec/02_numbers.md): the code and the flags. -/
theorem test_conversions :
    convert (.fin false 230 1) (b8Fmt 0x13) .rne false 0 = (0x7E, fNX) ∧
    convert (.fin false 233 1) (b8Fmt 0x13) .rne false 0 = (0x7E, fOF ||| fNX) ∧
    convert (.fin false 233 1) (b8Fmt 0x13) .rne true 0 = (0x7F, fOF ||| fNX) ∧
    convert (.fin false 250 1) (b8Fmt 0x1B) .rne false 0 = (0x7F, fOF ||| fNX) ∧
    convert (.fin false 250 1) (b8Fmt 0x1B) .rne true 0 = (0x80, fOF ||| fNX) ∧
    convert (.fin true 15 10000) (b8Fmt 0x13) .rne false 0 = (0x82, fUF ||| fNX) ∧
    convert (.fin true 4 10000) (b8Fmt 0x13) .rne false 0 = (0, fUF ||| fNX) ∧
    convert (.inf false) (b8Fmt 0x1B) .rne false 0 = (0x7F, fNV) ∧ convert .nan (b8Fmt 0x13) .rne false 0 = (0x80, 0#5) := by
  decide +kernel

/-- The code tables of binary8 (spec/02_numbers.md): 0x4B is 2.75 and 0x82 is -2/1024 in signed binary8p4, 0x47 is 3.5 in signed
binary8p3, 0x80 is 1 in unsigned binary8p4. -/
theorem test_binary8 :
    (b8Fmt 0x13).decode 0x4B = .fin false 11 4 ∧ (b8Fmt 0x13).decode 0x7F = .inf false ∧
    ((b8Fmt 0x12).decode 0x47).cmp (.fin false 7 2) = .eq ∧ ((b8Fmt 0x23).decode 0x80).cmp (.fin false 1 1) = .eq ∧
    ((b8Fmt 0x13).decode 0x82).cmp (.fin true 2 1024) = .eq := by decide +kernel

/-- The draws of "Starting from STATE = 0x0000_0001": 0x01, then 0xB6; 1.0625 under RSR becomes 0x41, then 0x40. -/
theorem test_draws :
    lfsrDraw 1#32 = (0x01, 0x1B6#32) ∧ (lfsrDraw 0x1B6#32).1 = 0xB6 ∧
    convert (.fin false 17 16) (b8Fmt 0x13) .rsr false 0x01 = (0x41, fNX) ∧
    convert (.fin false 17 16) (b8Fmt 0x13) .rsr false 0xB6 = (0x40, fNX) := by decide +kernel

/-- The accumulation of "A worked accumulation" (spec/02_numbers.md): V = -811,009, written back as 0xBA30 and as 0xBC. -/
theorem test_accumulation :
    (let f := b8Fmt 0x13
     let x1 := combine 20 0 (f.decode 0x4B) (f.decode 0xB1) 127 127 {}
     let x2 := combine 20 0 (f.decode 0x01) (f.decode 0x01) 126 127 x1
     let x3 := combine 20 0 (f.decode 0x81) (f.decode 0x01) 126 127 x2
     decide (x1.v.toInt = -811008 ∧ x2 = x1 ∧ x3.v.toInt = -811009 ∧ writeback x3 20 (.fp 11 5) .rne false 0 = 0xBA30
       ∧ writeback x3 20 f .rne false 0 = 0xBC ∧ defaultAnchor f f = 20)) = true := by decide +kernel

/-- VADD.F32 of 1 and 2 in element 0, and VADD.I8 that wraps (R43, R264, R267). -/
theorem test_vadd :
    after (.vadd o 3#6 1#6 2#6 .f32) (ex {} { vrows := 0#6, vcols := 0#6, tiles := [(2050, 0x80#8), (2051, 0x3F#8), (4099, 0x40#8)] })
      (fun t => decide (tileEl (t.core 0) 3 32 0 = 0x40400000 ∧ (t.core 0).fpacc = 0#5)) = true ∧
    after (.vadd o 3#6 1#6 1#6 .i8) (ex {} { vrows := 0#6, vcols := 0#6, tiles := [(2048, 0xC0#8)] })
      (fun t => decide (tileEl (t.core 0) 3 8 0 = 0x80)) = true := by decide +kernel

/-- VSHAPE of the merge product (spec/08_execute.md) and KPOP over the shape. -/
theorem test_vshape_kpop :
    after (.vshape o 0#6 6#6) (ex) (fun t => decide ((t.core 0).rows = 1 ∧ (t.core 0).cols = 7)) = true ∧
    after (.kpop o 3#4 1#3) (ex {} { vrows := 0#6, vcols := 6#6, masks := [(1, 0x8B#4096)] })
      (fun t => decide ((t.ctx 1).reg 3 = 3#64)) = true := by decide +kernel

/-- A matrix command enters the queue with its SEQ (R121, R311). -/
theorem test_mx_queue : after (.mxz o none none 0#5 3#5 0#2) (ex)
    (fun t => decide ((t.core 0).mx.queue.length = 1 ∧ (t.core 0).mx.seq = 1 ∧ (t.ctx 1).pc = 2)) = true := by decide +kernel

/-- A loader of an ill-formed predictor line gives the reply of KIND 4 to a later GBPRED, not a trap (R362, R365). -/
theorem test_gbpred_invalid : after .gambitPerform (ex {} { resv := [9], gam := { queue := [.pred [0] false 2 3 0 9 0 none] } })
    (fun t => decide ((t.core 0).gam.reply = some (9, 2, 4, 0) ∧ (t.core 0).gam.out = [(2, []), (3, [])])) = true := by
  decide +kernel

/-- PREEMPT of a core without a job answers 2, NOJOB; a word above 63 is no context (R439, R445). -/
theorem test_director :
    after (.preempt 2#5 1#5) { dir (rg [(1, 5#64)]) with cores := [] } (fun t => decide ((t.ctx 1536).reg 2 = 2#64)) = true ∧
    after (.killctx 2#5 1#5) { dir (rg [(1, 64#64)]) with cores := [] }
      (fun t => decide ((t.ctx 1536).cause % 2 ^ 8 = 1 ∧ (t.ctx 1536).pc = 0)) = true ∧
    after (.semmap 2#5 3#5 4#5) { dir (rg [(4, 0x1F0#64)]) with ctxTab := [(0, { v := true })] }
      (fun t => decide ((t.ctx 1536).reg 2 = 0#64 ∧ (t.ctxEnt 0).sem % 32 = 31)) = true := by decide +kernel

/-- HRET makes the handler dormant, and a system instruction outside a Director is privileged (R99, R160). -/
theorem test_hret_privilege :
    after (.hret o) (hdl {} { hrun := some placedRun }) (fun t => decide ((t.ctx 3).run = .idle ∧ (t.core 0).hrun = none)) = true ∧
    after (.adjourn 1#5 2#5) (la) (fun t => decide ((t.ctx 0).cause = causeWord false 0 0 2)) = true := by decide +kernel


/-! ### Witnesses: for each statement, in its order, states and operands that meet the hypotheses of each of its clauses

The theorem test_hyp_X belongs to Obligations.X. The functions readyB, guardedOffB, allowedB and asksB stand for Ready, GuardedOff,
Allowed and Asks, by ready_of, guardedOff_of, allowed_of and asks_of. -/

/-- An image with one nest of one tile, a loop record 5 of LA and one of EX, and stream buffers. -/
def image0 : Image :=
  { img := 1, ctx := 0, reg := 7, text := [[], [], [], []],
    nests := [{ prio := 4, gang := false, levels := [{ extent := 2, kind := 0, order := 0 }], roles := List.replicate 24 0xFFFF },
              { prio := 4, gang := false, levels := [{ extent := 2, kind := 2, order := 0 }], roles := List.replicate 24 0 }],
    loops := [{ rec_ := 5, eng := 0, pro := 4, ker := 6, kend := 8, eend := 10, kind := 1, reg := 2, trip := 0 },
              { rec_ := 5, eng := 1, pro := 4, ker := 6, kend := 8, eend := 10, kind := 1, reg := 2, trip := 0 }],
    live := [], pads := [], banks := [], bufs := [(3, 10, 2), (4, 12, 1), (5, 13, 1)], data := [], dva := 0, digest := [] }

/-- A state whose core 0 has that image. -/
def withImage (s : State) : State :=
  ({ s with images := [image0] }).setCore 0 { s.core 0 with img := some (1, 7) }

theorem test_hyp_EncodedInstructionsDecode :
    (∀ i ∈ samples1, i.inIsa .a = true ∧ i.wf = true ∧ i.regsOk .a = true) ∧
    (∀ i ∈ samples4, i.wf = true ∧ (i.inIsa .a = true ∨ i.inIsa .x = true)) := by decide +kernel

theorem test_hyp_DecodedInstructionsAreLegal : ∃ w v i, decode .x w v = some i := ⟨0x84048858#32, 0x11800000#32, _, rfl⟩

theorem test_hyp_UnassignedMajorsAreRefused :
    (0x08BFFFFF#32 : Word).extractLsb' 22 6 = 0x22#6 ∧ (0x0FFFFFFF#32 : Word).extractLsb' 22 6 = 0x3F#6 := by decide +kernel

theorem test_hyp_StepRunsDecodedInstruction :
    (let u := tick (State.reset.withFetchWord 32 0x0206048D)
     let v := asks u 0
     decide (u.inputs = [] ∧ due u = none ∧ pick u = some 0 ∧ before u 0 = [] ∧ (v.ctx 0).pc ≤ 16383 ∧
      decode .a (imemWord v 0 0) (word2At v 0 0) = some (.li o 3#5 0x48D#17) ∧ wordBad v 0 0 = false ∧
      differs (.li o 3#5 0x48D#17) 0 v = false ∧ (u.core 0).icorr = []) && after (.li o 3#5 0x48D#17) v fun _ => true) = true ∧
    (let u := tick { la { pc := 16383 } with cur := 1537 }
     let v := asks u 0
     decide (u.inputs = [] ∧ due u = none ∧ pick u = some 0 ∧ isTwo .a (imemWord v 0 16383) = false ∧ wordBad v 0 16383 = false ∧
      decode .a (imemWord v 0 16383) 0#32 ≠ none)) = true ∧
    (let u := tick { dir with cur := 0 }
     let v := asks u 1536
     decide (due u = none ∧ pick u = some 1536 ∧ decode .a (imemWord v 1536 0) (word2At v 1536 0) ≠ none ∧ (u.die 0).icorr = []))
       = true ∧
    (let u := tick { la {} with inputs := [(.rollback, {}), (.echo, {})] }
     decide (u.inputs = [(.rollback, {}), (.echo, {})] ∧ ({} : Arg).errs = [])) = true ∧
    (let u := tick { la { loads := [{ rd := 3, val := some 5#64 }] } with cycle := 1 }
     decide (u.inputs = [] ∧ (due u).isSome = true)) = true := by
  decide +kernel

theorem test_hyp_FetchTraps :
    (let v := asks (la { pc := 16384 }) 0
     decide (16383 < (v.ctx 0).pc)) = true ∧
    (let v := asks (sa { pc := 16382 } { ibad := [2 * 16384 + 16382] }) 2
     decide ((v.ctx 2).pc < 16383 ∧ agEng 2 = .sa ∧ (v.core 0).ibad.contains (2 * 16384 + 16382) = true)) = true ∧
    (let v := asks (la {} { imem := [(0, (encode (.sopen o 3#5 1#5 2#5 .glob .ex 9#8 .rne false 0#3)).headD 0#32)], ibad := [1] }) 0
     let w := mget 0#32 (v.core 0).imem 0
     decide (isTwo .a w = true ∧ (v.core 0).ibad.contains 0 = false ∧ (v.core 0).ibad.contains 1 = true)) = true ∧
    (let v := asks (la {} { imem := [(0, 0x0E441000#32)] }) 0
     let w := mget 0#32 (v.core 0).imem 0
     decide (isTwo .a w = false ∧ (w.extractLsb' 22 6).toNat = 0x39)) = true ∧
    (let v := asks (hdl {} { imem := [(3 * 16384, (encode (.csrr o 1#5 0x800#12)).headD 0#32)] }) 3
     let w := mget 0#32 (v.core 0).imem (3 * 16384)
     decide (agEng 3 = .hdl ∧ isTwo .a w = false ∧ (w.extractLsb' 22 6).toNat = 0x0E ∧ 0x800 ≤ (w.extractLsb' 0 12).toNat)) = true ∧
    (let v := asks (la {} { imem := [(0, 0x08800000#32)] }) 0
     let w := mget 0#32 (v.core 0).imem 0
     decide ((w.extractLsb' 22 6).toNat ∉ [0x38, 0x39, 0x3A, 0x3B, 0x3C, 0x3D, 0x0E, 0x0F] ∧
      decode .a w (mget 0#32 (v.core 0).imem 1) = none)) = true := by decide +kernel

theorem test_hyp_EncodingChecksTrap :
    csrPriv (agEng (la).cur) (.csrr ⟨true, false, false, false⟩ 1#5 0x800#12) = true ∧ 0x800 ≤ (0x800#12 : BitVec 12).toNat ∧
    csrPriv (agEng (la).cur) (.cmp o 1#7 1#5 2#5 .un) = false ∧
    (Instr.adjourn 1#5 2#5).form = some (o, .dir) ∧ (la).me.run = .run ∧ agEng (la).cur = .la ∧
    Cls.okFor .noDir (agEng (dir).cur) = false ∧ (Instr.cmp o 1#7 1#5 2#5 .un).wf = false ∧ Cls.okFor .any .la = true ∧
    (Instr.bara o 16#5 0#5).regsOk (agEng (ex).cur).isa = false ∧
    (Instr.add ⟨true, false, false, false⟩ 1#5 2#5 3#5).form = some (⟨true, false, false, false⟩, .any) ∧ agEng (hdl).cur = .hdl ∧
    guardBanned (.rdv o) = true ∧ 0 < (la { gRem := 1 }).me.gRem := by decide +kernel

theorem test_hyp_PredicatedOffOnlyRings :
    guardedOffB (.add ⟨true, false, false, false⟩ 1#5 2#5 3#5) ⟨true, false, false, false⟩ .any
      (la { gRem := 1 } { tok := [(2, 1)] }) = true ∧
    guardedOffB (.vadd o 1#6 2#6 3#6 .f32) o .ex (ex { gRem := 8 }) = true := by decide +kernel

theorem test_hyp_EmptyTokenQueueHoldsIssue :
    allowedB (.add ⟨true, false, false, false⟩ 1#5 2#5 3#5) ⟨true, false, false, false⟩ .any la = true ∧
    (∃ q ∈ ringWaits .la ⟨true, false, false, false⟩, (la).myCore.toks q = 0) := by decide +kernel

theorem test_hyp_TrapsOfEnginesAndHandlers : ∃ t : State, takeTrap la 0 false 5 0 8#64 = t ∧ (t.ctx 0).run = .trapped :=
  ⟨_, rfl, by decide +kernel⟩

theorem test_hyp_TrapOfADirector : readyB (.jr o 1#5) o .any dir = true ∧ (getR dir 1).toNat ≤ 16383 := by decide +kernel

theorem test_hyp_ScalarResults :
    (∀ f ∈ [Spec.Fn.add, .sub, .mul, .mulh, .mulhu, .div, .divu, .rem, .remu, .min, .minu, .max, .maxu, .shl, .shr, .sar, .and, .or, .xor],
      readyB (f.opr o 0#5 31#5 31#5) o .any la = true ∧ readyB (f.xalu o 15#4 0#4 15#4) o .ex ex = true) ∧
    readyB (.clz o 1#5 2#5) o .any sa = true ∧ readyB (.popc o 1#5 2#5) o .any hdl = true ∧ readyB (.xclz o 1#4 2#4) o .ex ex = true ∧
    readyB (.xpopc o 1#4 2#4) o .ex ex = true := by decide +kernel

theorem test_hyp_ImmediateResults :
    (∀ f ∈ [Spec.ImmFn.addi 0x800#12, .andi 0xFFF#12, .ori 0x7FF#12, .xori 0#12, .shli 63#6, .shri 63#6, .sari 0#6],
      readyB (f.instr o 1#5 1#5) o .any la = true) ∧
    readyB (.li o 1#5 0x10000#17) o .any dir = true ∧ readyB (.lui o 1#5 0x1FFFF#17) o .any la = true ∧
    readyB (.xaddi o 1#4 1#4 0x2000#14) o .ex ex = true ∧ readyB (.xmovi o 1#4 0x20000#18) o .ex ex = true := by decide +kernel

theorem test_hyp_CompareResults :
    (∀ c ∈ [Cond.eq, .ne, .lt, .ge, .ltu, .geu, .le, .gt, .leu, .gtu], readyB (.cmp o 0#7 1#5 1#5 c) o .any la = true ∧
      readyB (.cmpi o 127#7 1#5 c 0x20#6) o .any la = true ∧ readyB (.xcmp o 127#7 1#4 0#4 c) o .ex ex = true) ∧
    readyB (.sel o 1#5 2#5 3#5 127#7) o .any la = true := by decide +kernel

theorem test_hyp_PredicateLogic :
    readyB (.pand o 0#5 1#5 2#5) o .any la = true ∧ readyB (.por o 31#5 1#5 2#5) o .any la = true ∧
    readyB (.pxor o 3#5 3#5 3#5) o .any la = true ∧ readyB (.pnot o 3#5 3#5) o .any la = true ∧
    (0x0306048D#32 : Word).extractLsb' 22 6 = 0x0C#6 := by decide +kernel

theorem test_hyp_BranchesJumpsAndGuards :
    readyB (.b o 5#7 false 0x3FFD#14) o .any (la { pc := 3, q := 33#128 }) = true ∧ (la { pc := 3, q := 33#128 }).me.pred 5 ≠ false ∧
    ((3 : Int) + (0x3FFD#14).toInt = 0) ∧ ((2 : Int) + (0x3FFD#14).toInt < 0) ∧ ((16383 : Int) + (1#14).toInt > 16383) ∧
    readyB (.xb o 5#7 true 0x1FFF#14) o .ex (ex) = true ∧ (ex).me.pred 5 ≠ true ∧
    readyB (.j o 0x3FFF#14) o .any la = true ∧ readyB (.jal o 1#5 0#14) o .any la = true ∧
    readyB (.jr o 1#5) o .any (la (rg [(1, 16383#64)])) = true ∧ 16383 < (getR (la (rg [(1, 16384#64)])) 1).toNat ∧
    readyB (.xj o 1#4) o .ex (ex (rg [(1, 16384#64)])) = true ∧
    readyB (.guard o 5#7 true 7#3) o .any la = true ∧ readyB (.guardX o 5#7 true 0#3) o .ex ex = true := by decide +kernel

/-- A hardware-loop level l over the words from start to fin. -/
def lvl (l start fin : Nat) : Level := { l := l, start := start, fin := fin, act := true, sp := none, lo := start, hi := fin }

theorem test_hyp_TakenTransferEndsLevels :
    readyB (.j o 6#14) o .any (la { pc := 7, levels := [lvl 1 7 8, lvl 0 5 9] }) = true ∧
    (∀ v ∈ [lvl 1 7 8, lvl 0 5 9], v.sp = none) ∧
    after (.j o 6#14) (la { pc := 7, levels := [lvl 1 7 8, lvl 0 5 9] }) (fun t => decide ((t.ctx 0).levels = [lvl 0 5 9])) = true := by
  decide +kernel

theorem test_hyp_LoopStartsLevel :
    readyB (.loop o 1#2 2#5 9#14) o .any (la { levels := [lvl 1 0 9] }) = true ∧
    readyB (.loop o 1#2 2#5 9#14) o .any (la { rg [(2, 0x100000000#64)] with levels := [lvl 0 0 9] }) = true ∧
    readyB (.loop o 1#2 2#5 9#14) o .any (la { rg [(2, 1#64)] with levels := [lvl 0 0 8] }) = true ∧
    readyB (.loop o 1#2 2#5 9#14) o .any (la { rg [(2, 1#64)] with levels := [lvl 0 0 9] }) = true ∧
    readyB (.loopX o 3#2 2#4 9#14) o .ex (ex { levels := [{ lvl 3 4 8 with sp := some 5 }] }) = true ∧
    readyB (.loopX o 3#2 2#4 0x3FFF#14) o .ex (ex (rg [(2, 0xFFFFFFFF#64)])) = true := by decide +kernel

theorem test_hyp_BackEdgeAtEnd :
    guardedOffB (.add o 1#5 2#5 3#5) o .any (la { pc := 9, gRem := 1, levels := [lvl 1 5 9, lvl 0 3 12], lc := [(1, 2#32)] }) = true ∧
    guardedOffB (.vfma o 1#6 2#6 3#6 .f32 4#6 none none) o .ex (ex { pc := 9, gRem := 2, levels := [lvl 1 5 9], lc := [(1, 1#32)] })
      = true ∧ (∀ u ∈ [lvl 0 3 12], u.sp = none ∧ (u.act = true → u.fin ≠ 9)) := by decide +kernel

theorem test_hyp_LoopspStartsPipelinedLoop :
    readyB (.loopsp o 6#6) o .ring (withImage la) = true ∧ loopRec (withImage la) 6 = none ∧
    readyB (.loopsp o 5#6) o .ring (withImage (la (rg [(2, 3#64)]))) = true ∧
    (loopRec (withImage la) 5).map (fun k => (k.kind, k.reg, k.pro, k.eend)) = some (1, 2, 4, 10) ∧
    readyB (.loopsp o 5#6) o .ring (withImage (la { levels := [lvl 3 0 9] })) = true ∧
    readyB (.loopspX o 5#6) o .ex (withImage (ex (rg [(2, 0x100000000#64)]))) = true ∧
    (loopRec (withImage ex) 5).map (fun k => k.eng) = some 1 := by decide +kernel

theorem test_hyp_SafePointStopsMarkedJob :
    readyB (.safe o) o .ring la = true ∧ readyB (.safeX o) o .ex ex = true ∧ (la).me.stopAfter = false ∧ (la).me.levels = [] ∧
    (la).myCore.job = some placedJob ∧ placedJob.mark = none ∧
    readyB (.safe o) o .ring ((la).setCore 0 { job := some { placedJob with mark := some 0 } }) = true := by decide +kernel

theorem test_hyp_RdvEndsTheEnginesPart :
    readyB (.rdv o) o .ring la = true ∧ pubBusy la = false ∧ readyB (.rdvX o) o .ex ex = true ∧ fpDelivers (ex).myCore = false ∧
    (la).myCore.strq = [] ∧ placedJob.mark = none ∧
    (let s := { la with ctxs := [(0, { run := .run }), (1, { run := .rdv }), (2, { run := .absent })] }
     readyB (.rdv o) o .ring s && decide ((s.ctx 1).run = .rdv ∧ (s.ctx 2).run = .absent)) = true := by decide +kernel

theorem test_hyp_TrapRaisesSoftwareTrap :
    readyB (.trap o 1#5) o .any la = true ∧ guardedOffB (.trap o 1#5) o .any (la { gRem := 1 }) = true ∧
    (0x05C01003#32 : Word).extractLsb' 22 6 = 0x17#6 ∧ (0x05C01003#32 : Word).extractLsb' 0 7 = 3#7 := by decide +kernel

theorem test_hyp_QueueInstructions :
    readyB (.tkw o false 16#5) o .ring (la {} { tok := [(2, 16)] }) = true ∧ (la {} { tok := [(2, 16)] }).myCore.toks 2 = 16 ∧
    (ringQ .la).1 = 2 ∧ (la {} { tok := [(2, 15)] }).myCore.toks 2 < 16 ∧
    readyB (.tks o true 1#5) o .ring (la {} { tok := [(0, 15)] }) = true ∧ (ringQ .la).2.2.2 = 0 ∧
    readyB (.stw o 1#5) o .ring (la {} { steerL := [(16383#16, 5#16)] }) = true ∧ (16383#16 : BitVec 16).toNat ≤ 16383 ∧
    readyB (.stw o 1#5) o .ring (sa {} { steerS := [(0#16, 5#16)] }) = true ∧ readyB (.stw o 1#5) o .ring la = true ∧
    readyB (.stw o 1#5) o .ring sa = true ∧ (sa).myCore.steerS = [] ∧
    readyB (.steer o 1#4 2#4 true) o .ex (ex {} { steerS := [(0#16, 0#16)], steerP := [(0, true, 0#16, 0#16)] }) = true ∧
    readyB (.poprpl o 1#5 false 7#16) o .noDir (la {} { rpl := [1#64, 0x0007000000000000#64] }) = true ∧
    (1#64 : DWord).extractLsb' 48 16 ≠ 7#16 ∧ (0x0007000000000000#64 : DWord).extractLsb' 48 16 = 7#16 ∧
    readyB (.poprpl o 1#5 true 0#16) o .noDir (la {} { resv := [9] }) = true ∧
    readyB (.poprpl o 1#5 false 7#16) o .noDir (la {} { resv := [9], rpl := [1#64] }) = true ∧
    readyB (.sqpush o 1#5 8#5) o .noDir (la {} { scq := List.replicate 248 0#8 }) = true ∧
    readyB (.sqpush o 1#5 1#5) o .noDir (la {} { scq := List.replicate 256 0#8 }) = true ∧
    readyB (.sqpush o 1#5 1#5) o .noDir (la {} { sqBind := some 3 }) = true ∧
    readyB (.sqbind o true 0#5) o .noDir la = true ∧ readyB (.sqbind o false 3#5) o .noDir la = true ∧
    (let c := { ports := [(3, { st := .run, dst := .scale })] : Core }
     readyB (.sqbind o false 3#5) o .noDir (la {} c) && !pendingOn c 3 && isOpen c 3) = true := by decide +kernel

theorem test_hyp_SpecialRegistersOfEx :
    readyB (.vshape o 63#6 63#6) o .ex ex = true ∧ readyB (.xset o 1#4 .vshape) o .ex ex = true ∧
    readyB (.xset o 1#4 .fmt8) o .ex (ex (rg [(1, 0x2E#64)])) = true ∧ isB8Code 0x2E = true ∧ isB8Code 0x17 = false ∧
    readyB (.xset o 1#4 .fpctl) o .ex (ex (rg [(1, 0x1F4#64)])) = true ∧ (0x1F4 % 8 < 5) ∧ readyB (.xset o 1#4 .fpacc) o .ex ex = true ∧
    readyB (.xget o 1#4 .fpctl) o .ex ex = true := by decide +kernel

theorem test_hyp_SystemRegisters :
    (∀ n ∈ [0x010#12, 0x014#12, 0x015#12, 0x017#12, 0x018#12, 0x020#12, 0x021#12, 0x022#12], readyB (.csrr o 1#5 n) o .any la = true) ∧
    readyB (.csrr o 1#5 0x802#12) o .any dir = true ∧ readyB (.csrw o 1#5 0x802#12) o .any dir = true ∧
    csrBadValue 0 0x802 5#64 = false ∧ readyB (.csrw o 1#5 0x017#12) o .any la = true ∧ csrBadValue 0 0x017 0#64 = false ∧
    csrReadOnly 0x015 = true ∧ (la).me.run = .run ∧ agEng (sa).cur = .sa := by decide +kernel

theorem test_hyp_LoadsReadTheContextsOwnView :
    readyB (.ld o 1#5 2#5 .d true false 8#8) o .any (la (rg [(2, 0x1FFFF8#64)]) mapped) = true ∧
    xlateN (la {} mapped) 0 0x1FFFF8 8 false false = .ok (spread 0x1FFFF8 8 0x200000 0x2FFFF8 0) ∧
    poisonAt (la {} mapped) (spread 0x1FFFF8 8 0x200000 0x2FFFF8 0) = none ∧
    (let s := { la (rg [(2, 0x1FFFF8#64)]) mapped with poison := [0x200003] }
     readyB (.ld o 1#5 2#5 .d true false 8#8) o .any s && (poisonAt s (spread 0x1FFFF8 8 0x200000 0x2FFFF8 0)).isNone
       && (poisonAt s [0x2FFFF8, 0x200003]).isSome && s.poison.contains (0x200003 % 2 ^ 40)) = true ∧
    readyB (.ld o 1#5 2#5 .h false true 0xFF#8) o .any (la (rg [(2, 2#64)]) mapped) = true ∧
    (xlateN (la {} mapped) 0 0xFFFF000000000001 8 false false = .fail 8 0xFFFF000000000001) ∧
    xlateN la 0 0xFFF 2 false false = .miss [0xFFF, 0x1000] := by decide +kernel

theorem test_hyp_StoresAreHeld :
    readyB (.st o 1#5 2#5 .b true 1#8) o .any (la (rg [(1, 7#64), (2, 0x1FFFFF#64)]) mapped) = true ∧
    xlateN (la {} mapped) 0 0x1FFFFF 1 true false = .ok [0x2FFFFF] ∧
    xlateN (la {} { tlb := [{ tlb0 with w := false }] }) 0 0 8 true false = .fail 4 0 ∧
    xlateN la 0 0 8 true false = .miss [0] := by decide +kernel

theorem test_hyp_PadAccesses :
    readyB (.ldp o 1#5 2#5 .d false 0#8) o .noDir (la (rg [(2, 0x1FFFF8#64)])) = true ∧ padPoison {} 0x1FFFF8 8 = none ∧
    readyB (.ldp o 1#5 2#5 .d false 0#8) o .noDir (la (rg [(2, 0x1FFFF8#64)]) { poison := [0x1FFFFF] }) = true ∧
    readyB (.ldp o 1#5 2#5 .d false 0#8) o .noDir (la (rg [(2, 0x1FFFF9#64)])) = true ∧
    readyB (.stp o 1#5 2#5 .b true 1#8) o .noDir (la (rg [(2, 0x1FFFFF#64)])) = true ∧
    readyB (.ldpF o 1#5 2#5 .w 0#8) o .noDir (la (rg [(2, 0x3C#64)])) = true ∧ inOpenBuffer {} 0 = false ∧
    inOpenBuffer { ports := [(3, { st := .set, fbank := 0, banks := 1 })] } 8191 = true ∧
    readyB (.ldpF o 1#5 2#5 .w 0#8) o .noDir (la (rg [(2, 0x3C#64)]) { fe := [(0, true)] }) = true ∧
    readyB (.stpE o 1#5 2#5 .w 0#8) o .noDir (la (rg [(2, 0x3D#64)])) = true ∧
    readyB (.stpE o 1#5 2#5 .d 0#8) o .noDir (la (rg [(2, 0x38#64)])) = true ∧
    readyB (.stpE o 1#5 2#5 .d 0#8) o .noDir (la (rg [(2, 0x200000#64)])) = true := by decide +kernel

/-- A state of LA with a store held, every byte mapped, and an operand in a5. -/
def strongSt (ea : DWord) : State :=
  { la { rg [(3, ea), (5, 9#64), (6, 5#64)] with stores := [{ tag := 0, bytes := [(0x100000, 5#8)] }] } mapped with mem := [] }

theorem test_hyp_StrongAccesses :
    (∀ i ∈ [Instr.lda o 6#5 3#5 .acq .sys true, .stl o 3#5 5#5 .rel .dev true, .amoAdd o 6#5 3#5 5#5 .rlx .dev true,
        .amoAnd o 6#5 3#5 5#5 .acq .dev false, .amoOr o 6#5 3#5 5#5 .rel .cl true, .amoXor o 6#5 3#5 5#5 .ar .die true,
        .amoMin o 6#5 3#5 5#5 .ar .core true, .amoMax o 6#5 3#5 5#5 .ar .dev true, .amoMinU o 6#5 3#5 5#5 .ar .dev false,
        .amoMaxU o 6#5 3#5 5#5 .ar .dev false, .amoSwap o 6#5 3#5 5#5 .ar .dev true, .cas o 6#5 3#5 5#5 .ar .dev true],
      readyB i o .any (strongSt 0#64) = true ∧ (Spec.strongOf (strongSt 0#64) i).isSome = true ∧
        readyB i o .any (strongSt 4#64) = true) ∧
    pubBusy (strongSt 0#64) = false ∧ (strongSt 0#64).me.wait ≠ .remote ∧ (4#64 : DWord).toNat % 8 ≠ 0 ∧
    xlate (strongSt 0#64) 0 0 true false = .ok 0x100000 ∧ 0x100000 / 2 ^ 40 = (strongSt 0#64).record.slot ∧
    xlate (strongSt 0#64) 0 0x1000000000000 true false = .fail 8 ∧
    (let s := { la {} { tlb := [{ tlb0 with pa := 2 ^ 40 }] } with routes := [(1, 0x100#16)] }
     decide (xlate s 0 0 true true = .ok (2 ^ 40)) && readyB (.cas o 6#5 3#5 5#5 .ar .sys true) o .any s) = true ∧
    readyB (.cas o 6#5 3#5 5#5 .ar .sys true) o .any (la { wait := .remote }) = true ∧
    readyB (.cas o 6#5 3#5 5#5 .ar .sys true) o .any (la { wait := .remote, ans := some (.value 7#64) }) = true := by decide +kernel

theorem test_hyp_FencesPublish :
    readyB (.fence o .rlx .sys) o .any (strongSt 0#64) = true ∧ readyB (.phase o .dev) o .any (strongSt 0#64) = true ∧
    readyB (.fence o .acq .dev) o .any (strongSt 0#64) = true ∧ pubBusy (strongSt 0#64) = false ∧
    (let s := la {} { ports := [(3, { st := .run, src := .pad, dst := .glob, owner := 0 })] }
     pubBusy s && readyB (.fence o .ar .sys) o .any s) = true := by decide +kernel

theorem test_hyp_AccessesCompleteInTheDevice :
    (let s := la { loads := [{ rd := 3, val := some 5#64 }, { rd := 4, val := some 6#64 }] }
     decide (loadReady s = some 0)) = true ∧
    storeHeld (strongSt 0#64) = some 0 ∧
    splitWalks [{ ags := [0], va := 0, ctx := 0, gen := 0#16, res := some 1 }, { ags := [0, 2], va := 0, ctx := 0, gen := 0#16 }]
      = some ([{ ags := [0], va := 0, ctx := 0, gen := 0#16, res := some 1 }], { ags := [0, 2], va := 0, ctx := 0, gen := 0#16 }, []) ∧
    (∀ ag ∈ [0, 2], tlbLook la (agCore ag) 0 0#16 0 = none) ∧
    walk la 0 0#16 0 = .inl 1 ∧
    (let s := { la with ctxTab := [(0, { v := true, root := 0x1000 })],
                        mem := [(0x1000, 1#8), (0x1001, 0x20#8), (0x2000, 1#8), (0x2001, 0x30#8), (0x3000, 0x83#8)] }
     decide ((walk s 0 0#16 0x1234).isRight = true)) = true ∧
    (let s := la { strong := some (2 ^ 40, 8, .add, 1#64, 0#64) }
     decide (strongToSend s = some 0 ∧ routeUp s 1 = false)) = true ∧
    (let s := { la { strong := some (2 ^ 40, 8, .add, 1#64, 0#64) } with routes := [(1, 0x100#16)], peers := [(0, { st := 2 })] }
     decide (strongToSend s = some 0 ∧ routeUp s 1 = true)) = true := by decide +kernel

theorem test_hyp_MemoryKeepsItsForm :
    mwf 0#8 (strongSt 0#64).mem = true ∧ after (.cas o 6#5 3#5 5#5 .ar .dev true) (strongSt 0#64) (fun t => decide (t.mem ≠ [])) = true ∧
    after .storePerformed (strongSt 0#64) (fun t => decide (t.mem = [(0x100000, 5#8)])) = true := by decide +kernel


/-- A state in which barrier 5 of cluster 0 is x. -/
def withBar (s : State) (x : Barrier) : State := { s with clusters := [(0, { bars := [(5, x)] })] }

theorem test_hyp_BarrierInstructions :
    (let s := withBar (la (rg [(2, 2#64)])) { free := false, owner := 3 }
     readyB (.bara o 2#5 5#5) o .sync s && readyB (.barinit o 2#5 5#5) o .sync s && readyB (.barinitFree o 5#5) o .sync s
       && decide ((s.bar 0 5).owner ≠ (ctxOf s 0).1)) = true ∧
    (let s := withBar (la (rg [(2, 2#64)])) { free := false, arr := 1, expect := 2 }
     readyB (.bara o 2#5 5#5) o .sync s && readyB (.barw o 2#5 5#5 3#5) o .sync s && !pubBusy s) = true ∧
    (let s := withBar (ex (rg [(2, 255#64)])) {}
     readyB (.bara o 2#5 5#5) o .sync s && readyB (.barinit o 2#5 5#5) o .sync s && !fpDelivers s.myCore
       && decide (waiters s 0 5 = 0 ∧ (s.bar 0 5).arr = 0)) = true ∧
    (let s := withBar (la {}) { free := false, defcnt := 1 }
     readyB (.barw o 0#5 5#5 3#5) o .sync s && readyB (.barinitFree o 5#5) o .sync s) = true ∧
    (let s := withBar (la { pend := true, pnum := 5 }) { free := false, arr := 1, expect := 2 }
     readyB (.barw o 2#5 5#5 3#5) o .sync s && decide ((s.bar 0 5).gen = s.me.pgen)) = true ∧
    (let s := withBar (la { pend := true, pnum := 5 }) { free := false, gen := 1#16 }
     readyB (.barw o 2#5 5#5 3#5) o .sync s && decide ((s.bar 0 5).gen ≠ s.me.pgen)) = true ∧
    (let s := { la (rg [(5, 0x0A#64)]) with clusters := [(0, { bars := [(9, { free := false }), (11, { gen := 1#16, free := false })] })] }
     readyB (.barwa o 5#5 1#2 6#5) o .sync s && decide ((s.bar 0 11).gen ≠ mget 0#16 s.me.seen 11 ∧ (s.bar 0 9).gen = 0#16)) = true ∧
    (let s := { la (rg [(5, 0x0A#64)]) with clusters := [(0, { bars := [(9, { free := false }), (11, { free := false })] })] }
     readyB (.barwa o 5#5 1#2 6#5) o .sync s && decide ((s.bar 0 11).gen = mget 0#16 s.me.seen 11 ∧ (s.bar 0 9).gen = 0#16)) = true := by
  decide +kernel

/-- A state in which physical semaphore 3 of core 0 is x. -/
def withSem (s : State) (x : Sem) : State := s.setCore 0 { s.core 0 with sems := [(3, x)] }

theorem test_hyp_SemaphoreInstructions :
    (let s := { la with ctxTab := [(0, { sem := 0#80 })] }
     readyB (.sems o 1#5 3#4) o .sync s && readyB (.semw o 1#5 3#4) o .sync s && readyB (.semwt o 1#5 3#4 2#5) o .sync s
       && decide (physSem s 0 3 = none ∧ s.me.wait = .none)) = true ∧
    physSem la 0 3 = some 3 ∧
    readyB (.sems o 1#5 3#4) o .sync (withSem (la (rg [(1, 65535#64)])) { count := 1 }) = true ∧ 65535 < 1 + 65535 ∧
    readyB (.sems o 1#5 3#4) o .sync (withSem (la (rg [(1, 0#64)])) { count := 65534 }) = true ∧
    readyB (.semw o 1#5 3#4) o .sync (withSem la { ovf := true }) = true ∧
    readyB (.semw o 1#5 3#4) o .sync (withSem la { count := 1 }) = true ∧
    readyB (.semw o 1#5 3#4) o .sync (withSem la { count := 5, line := [(2, 6)] }) = true ∧
    readyB (.semwt o 1#5 3#4 2#5) o .sync (withSem la { count := 1 }) = true ∧
    readyB (.semwt o 1#5 3#4 2#5) o .sync (withSem (la (rg [(2, 0xFFFFFFFF#64)])) {}) = true ∧
    (getR (withSem (la (rg [(2, 0xFFFFFFFF#64)])) {}) 2).toNat < 2 ^ 32 ∧ getR (withSem la {}) 2 = 0#64 ∧
    readyB (.semw o 1#5 3#4) o .sync (withSem (la { wait := .sem 3, ans := some .granted }) {}) = true ∧
    readyB (.semwt o 1#5 3#4 2#5) o .sync (withSem (la { wait := .semt 3 9, ans := some .granted }) {}) = true ∧
    readyB (.semwt o 1#5 3#4 2#5) o .sync (withSem (la { wait := .semt 3 9, ans := some .timeout }) {}) = true := by decide +kernel

theorem test_hyp_SynchroniserSteps :
    (let s := withBar (la { pend := true, pnum := 5 } { imem := [(0, ((encode (.barw o 2#5 5#5 3#5)).headD 0#32))] })
       { free := false, gen := 1#16 }
     decide (toRelease s = some 0 ∧ fetched s 0 = some (.barw o 2#5 5#5 3#5)) && readyB (.barw o 2#5 5#5 3#5) o .sync { s with cur := 0 })
       = true ∧
    (let s := { la { rg [(5, 0x0A#64)] with wait := .barwa 8 0x0A } { imem := [(0, 0x0C0A8302#32)] } with
                clusters := [(0, { bars := [(9, { free := false, gen := 1#16 }), (11, { free := false })] })] }
     decide (toRelease s = some 0 ∧ fetched s 0 = some (.barwa o 5#5 1#2 6#5))) = true ∧
    (let s := withSem (la { wait := .sem 3 }) { count := 1, line := [(0, 1)] }
     decide (toGrant s = some (0, 3) ∧ (s.sem 0 3).line = (0, 1) :: [])) = true ∧
    (let s := withSem la { count := 1, line := [(4096, 1)] }
     let q : MxCmd := { i := .mxfence o (some 3#4) none, seq := 0, id := 0, epc := 0, ptag := none, ctx := 0, gen := 0#16, inLine := true }
     let t := s.setCore 0 { s.core 0 with mx := { queue := [q] } }
     decide (toGrant t = some (0, 3) ∧ (t.core 0).mx.queue ≠ [])) = true ∧
    (let s := withSem (la { wait := .semt 3 9 }) { line := [(0, 1)] }
     decide (toGrant s = none ∧ lateSemwt { s with cycle := 9 } = some 0)) = true ∧
    (let s := { la with csrq := [(1536, 0x851, 0x0001020304000085#64)] }
     decide (s.csrq.headD (0, 0, 0#64) = (1536, 0x851, 0x0001020304000085#64)) && after .barstateWrite s fun t => decide (t.csrq = []))
       = true ∧
    after .semstateWrite { la with csrq := [(1536, 0x853, 0x10005#64)] } (fun t => decide ((t.sem 0 0).count = 5)) = true := by
  decide +kernel

theorem test_hyp_RegisterWritesThatAreSteps :
    after .lfsrWrite { la with csrq := [(0, 0x017, 0#64)] } (fun t => decide ((t.core 0).lfsr = 1#32 ∧ t.csrq = [])) = true ∧
    after .evheadWrite { dir with csrq := [(1536, 0x841, 3#64)] } (fun t => decide ((t.die 0).evHead = 3#32)) = true ∧
    after .moncfgWrite { dir with csrq := [(1536, 0xA01, 0xFFFFFFFFFFFFFFFF#64)] }
      (fun t => decide ((mget ({} : Mon) (t.die 0).mons 0).cfg = 0xFFF0FF03#64)) = true ∧
    after .monedgeWrite { dir with csrq := [(1536, 0xA02, 0x500000000#64)] }
      (fun t => decide ((mget ({} : Mon) (t.die 0).mons 0).edge = 0x500000001#64)) = true := by decide +kernel

/-- An open message queue port: queue 1 in port 4, buffer of bank 12. -/
def queue4 : Port := { st := .run, src := .msgq, dst := .hdl, qn := 1, fbank := 12, banks := 1 }

/-- The request of a message of 4 lines for queue 1 of core 0, from LA of core 1. -/
def req4 : MsgReq :=
  { ag := some 4, sport := none, qn := 1, lines := 4, he := true, hpc := 64, src := 1, ctx := 0, gen := 0#16, off := 0, here := true }

theorem test_hyp_MessagesBetweenCores :
    (let i := Instr.msend o 1#5 2#5 127#7 true 1#3 64#14
     readyB i o .noDir (la (rg [(1, 384#64)])) && readyB i o .noDir (la (rg [(1, 383#64), (2, 1#64)]))
       && readyB i o .noDir (la (rg [(2, 0x1FE040#64)])) && readyB i o .noDir (la (rg [(2, 0x1FE000#64)]))
       && readyB i o .noDir (la { wait := .msg, ans := some .accepted }) && readyB i o .noDir (la { wait := .msg, ans := some .refused })
       && readyB i o .noDir (la { wait := .msg }) && !pubBusy la) = true ∧
    readyB (.hret o) o .hdl hdl = true ∧ pubBusy hdl = false ∧
    (let s := la {} { ports := [(4, queue4)], msgs := [{ req4 with here := false }] }
     decide (mfind (fun _ c => (splitReq c c.msgs).isSome) s.cores = some 0 ∧ splitReq (s.core 0) (s.core 0).msgs
       = some ([], { req4 with here := false }, []) ∧ queuePort (s.core 0) 1 = some 4)) = true ∧
    (let s := la {} { msgs := [req4] }
     decide (splitReq (s.core 0) (s.core 0).msgs = some ([], req4, []) ∧ queuePort (s.core 0) 1 = none)) = true ∧
    (let s := la {} { ports := [(4, queue4)], msgs := [req4] }
     decide (mfind (fun _ c => (acceptable c).isSome) s.cores = some 0 ∧ acceptable (s.core 0) = some 0
       ∧ (reserve ((s.core 0).port 4) (fmtOf (s.core 0) 4) 4).map (fun x => x.2) = some 0)) = true ∧
    (let m : Msg := { first := 0, skip := 0, lines := 1, he := true, hpc := 64, src := 1, ctx := 0, gen := 0#16, data := List.replicate 64 1#8 }
     let s := la {} { ports := [(4, { queue4 with msgs := [m], tail := 1 })] }
     decide (findPort s (fun _ => 0) (fun c n => (arriving_ (c.port n)).isSome) = some (0, 4) ∧ arriving_ ((s.core 0).port 4) = some m))
       = true ∧
    (let s := la {} { hstart := [{ port := 4, first := 0, hpc := 64, src := 1, qn := 1, off := 98304, len := 64, ctx := 0, gen := 0#16 }] }
     decide (toStart s = some 0 ∧ (s.core 0).hstart ≠ [])) = true ∧
    (let s := la {} { ports := [(3, { st := .run, src := .ex, dst := .remote, hasRem := true, remote := 0x20005#64, fbank := 10, banks := 2,
                                      fw := 64, wr := 64 })] }
     decide (findPort s (fun c => c.drainAt) remoteReady = some (0, 3) ∧ remoteTargets 0 ((s.core 0).port 3) = [5])) = true := by
  decide +kernel

/-- LA's core with port 3 as given. -/
def port3 (p : Port) (x : Ctx := {}) : State := withImage (la x { ports := [(3, p)] })

/-- Port 3 opened as the listing of spec/06_streams.md opens it. -/
def set3 : Port := { st := .set, mfmt := 9, fbank := 10, banks := 2, base := 0x400000, len := 8 }

theorem test_hyp_StreamInstructionsQueueCommands :
    (let i := Instr.sopen o 3#5 1#5 2#5 .glob .ex 9#8 .rne false 0#3
     let s := withImage (la (rg [(1, 0x400000#64), (2, 0xFFFFFFFF#64)]))
     readyB i o .noDir s && readyB i o .noDir (port3 set3)
       && decide (bufRec (imageOf s 0) 3 = some (10, 2) ∧ badKinds .glob .ex = false ∧ isBankCode 9 = true)
       && !meetsOpen (projected s.myCore) (10 * 8192, 12 * 8192) && !mixedBanks (projected s.myCore) (10 * 8192, 12 * 8192)
       && !badEncode .glob .ex 9 ((projected s.myCore).bankFmt 10)
       && readyB (.sopen o 3#5 1#5 2#5 .pad .glob 9#8 .rne false 0#3) o .noDir s && !badKinds .pad .glob) = true ∧
    (∀ st ∈ [PState.closed, .set, .run, .done], readyB (.sgo o 3#5) o .noDir (port3 { set3 with st := st }) = true ∧
      readyB (.slev o 3#5 1#5 0#5 3#2 true 1#27) o .noDir (port3 { set3 with st := st }) = true ∧
      readyB (.sfork o 3#5 6#5 .mxb) o .noDir (port3 { set3 with st := st }) = true ∧
      ((projected (port3 { set3 with st := st }).myCore).port 3).st = st) ∧
    readyB (.ssrc o 3#5 1#5) o .noDir (port3 { set3 with st := .run, fork := true }) = true ∧
    readyB (.slev o 3#5 1#5 2#5 0#2 false 0#27) o .noDir (port3 set3 (rg [(2, 0xFFFFFFFF#64)])) = true ∧
    (let c : Core := { bfmt := [(12, 6#8)], ports := [(3, set3), (4, { st := .run, dst := .index, fbank := 12, banks := 1 })] }
     readyB (.sind o 3#5 4#5 2#5) o .noDir (withImage (la {} c)) && decide (fmtOf c 4 = 6)) = true ∧
    readyB (.ssrc o 3#5 1#5) o .noDir (port3 { set3 with src := .dcmp } (rg [(1, 1#64)])) = true ∧
    readyB (.ssrc o 3#5 1#5) o .noDir (port3 { set3 with src := .pad, dst := .glob } (rg [(1, 0x1FFFC0#64)])) = true ∧
    readyB (.sremote o 3#5 1#5 0#5 true 7#3 64#14 false 7#3) o .noDir (port3 { set3 with dst := .remote } (rg [(1, 383#64)])) = true ∧
    readyB (.sremote o 3#5 0#5 2#5 false 0#3 0#14 true 0#3) o .noDir (port3 { set3 with dst := .remote } (rg [(2, 255#64)])) = true ∧
    misItem set3 = none ∧
    (let s := port3 { set3 with src := .pad, dst := .glob, param := 0x10000#64, fbank := 0, banks := 0 }
     let c := projected s.myCore
     let p := c.port 3
     readyB (.sgo o 3#5) o .noDir s && decide (regionOf c p = (0x10000, 0x10008) ∨ regionOf c p = (0x10000, 0x10020))
       && !mixedBanks c (clipRange (regionOf c p)) && !meetsOpen { c with ports := c.ports.filter fun x => !isDirect x.2 } (regionOf c p)
       && !badEncode p.src p.dst p.mfmt (c.bankFmt ((regionOf c p).1 / 8192)) && decide ((regionOf c p).2 ≤ 0x200000)) = true ∧
    (let s := port3 { set3 with st := .run, marks := [(0, 0)] }
     readyB (.sfork o 3#5 6#5 .mxb) o .noDir s && decide (forkOf (projected s.myCore) 3 = none) && !badKinds .glob .mxb
       && readyB (.smark o 3#5 false true 3#2) o .noDir s && readyB (.srew o 3#5 0#2) o .noDir s
       && (rewindMark (projected s.myCore) 3 0).isSome && readyB (.sclose o 3#5) o .noDir s) = true ∧
    readyB (.sbfmt o 1#5 0x41#8) o .noDir (la (rg [(1, 255#64)])) = true ∧ isBankCode 0x41 = true ∧ isBankCode 0x42 = false ∧
    bankHolder {} 255 = none := by decide +kernel

theorem test_hyp_StreamInstructionsThatActThemselves :
    (let s := port3 { set3 with st := .run } (rg [(2, 0x1FFF40#64)])
     readyB (.ssave o 3#5 2#5 true) o .noDir s && decide (s.me.wait ≠ .rec_ 3 ∧ s.myCore.strq.length < 16)
       && decide (((projected s.myCore).port 3).st ≠ .closed ∧ setsMeet [(0x1FFF40, 0x200000)] [bufRange ((projected s.myCore).port 3)] = false)
       && readyB (.ssave o 3#5 2#5 true) o .noDir (port3 { set3 with st := .run } { wait := .rec_ 3 })
       && readyB (.ssave o 3#5 2#5 true) o .noDir (port3 { set3 with st := .run } { wait := .rec_ 3, ans := some .accepted })) = true ∧
    (let r := saveRec (port3 { set3 with st := .run }).myCore 3 false
     let s (r : List Byte) (x : Ctx) := withImage (la x { pad := mputN 0#8 [] 0 r })
     let t := s r (rg [(2, 0#64)])
     readyB (.srest o 3#5 2#5) o .noDir t && decide (r.length = 192 ∧ mgetN 0#8 t.myCore.pad 0 192 = r)
       && !recQueueUsed (projected t.myCore) r && !recBad (imageOf t 0) 3 r && (restoreRec (projected t.myCore) 3 r 0 0 0#16 0).isSome
       && recBad (imageOf t 0) 3 (List.replicate 192 0xFF#8)
       && readyB (.srest o 3#5 2#5) o .noDir (s r { rg [(2, 0x1FFF80#64)] with wait := .none })
       && readyB (.srest o 3#5 2#5) o .noDir (s r { rg [(2, 1#64)] with wait := .none })
       && readyB (.srest o 3#5 2#5) o .noDir (s r { wait := .rec_ 3, ans := some .refused })
       && readyB (.srest o 3#5 2#5) o .noDir (s r { wait := .rec_ 3, ans := some .accepted })) = true ∧
    (let q : Port := { queue4 with st := .set }
     let r := saveRec (withImage (la {} { ports := [(4, q)] })).myCore 4 false
     recQueueUsed { ports := [(6, q)] } r = true) ∧
    readyB (.sstat o 3#5 1#5) o .noDir (port3 set3) = true ∧ pendingFor (port3 set3).myCore 3 = false ∧
    pendingFor (la {} { strq := [(0, .go 3)] }).myCore 3 = true ∧
    (let p : Port := { set3 with st := .run, src := .ex, dst := .glob, flush := some 0 }
     let s := port3 p { wait := .port 3, ans := some .accepted }
     readyB (.sflush o 3#5) o .noDir s && drained s.myCore 3 s.me.fl && !drained (port3 { p with fw := 4, wr := 4 }).myCore 3 (0, 4)
       && readyB (.sflush o 3#5) o .noDir (port3 p) && decide (((projected (port3 p).myCore).port 3).st ≠ .closed)) = true ∧
    (let k (n : Nat) : Port := { st := .run, dst := .merge, fbank := n, banks := 1 }
     let m (n : Nat) : Port := { st := .run, src := .merge, dst := .glob, fbank := n, banks := 1 }
     let c : Core := { ports := [(1, m 11), (2, k 12), (3, k 13), (4, m 14), (5, m 15)], bfmt := [(12, 6#8), (13, 1#8)] }
     let i := Instr.smerge o 1#5 2#5 3#5 4#5 true false 5#5 true true true 9#16
     readyB i o .noDir (la {} c) && decide (c.merge = none ∧ c.strq = []) && decide ((projected c).port 2 = k 12 ∧ fmtOf (projected c) 2 = 6 ∧ fmtOf (projected c) 5 ≤ 6
       ∧ ([2#5, 3#5, 1#5, 4#5, 5#5] : List (BitVec 5)).Nodup) && !pendingOn c 1) = true := by decide +kernel

theorem test_hyp_StepsOfTheStreamEngine :
    (let s := la {} { ports := [(3, set3)], strq := [(0, .go 3)] }
     decide (mfind (fun _ c => strReady c) s.cores = some 0)) = true ∧
    (let s := la {} { mapped with ports := [(3, { set3 with st := .run, base := 0x1FFFFC })], bfmt := [(10, 9#8)] }
     decide (findPort s (fun c => c.fillAt) fillReady = some (0, 3) ∧
       (xlateEngN (s.setCore 0 { s.core 0 with fillAt := 3 }) 0 0 0#16 (patAddr ((s.core 0).port 3) 0x1FFFFC 0) 4 false).1
         = .inr [0x2FFFFC, 0x2FFFFD, 0x2FFFFE, 0x2FFFFF])) = true ∧
    (let s := la {} { ports := [(3, { set3 with st := .run })], bfmt := [(10, 9#8)] }
     decide (findPort s (fun c => c.fillAt) fillReady = some (0, 3) ∧
       (xlateEngN (s.setCore 0 { s.core 0 with fillAt := 3 }) 0 0 0#16 (patAddr ((s.core 0).port 3) 0x400000 0) 4 false).1
         = .inl (1, 0x400000))) = true ∧
    (let s := la {} { ports := [(3, { set3 with st := .run, len := 8, fp := 8 })] }
     decide (findPort s (fun c => c.fillAt) fillReady = some (0, 3))) = true ∧
    (let s := la {} { ports := [(3, { set3 with st := .run, src := .ex, dst := .glob, closing := true })] }
     decide (findPort s (fun c => c.drainAt) drainReady = some (0, 3) ∧ closeReady (s.core 0) 3 = true)) = true ∧
    (let s := la {} { ports := [(3, { set3 with st := .run, dst := .scale, fw := 1, wr := 1 })], sqBind := some 3 }
     decide (findPort s (fun c => c.drainAt) drainReady = some (0, 3) ∧ closeReady (s.core 0) 3 = false ∧ directDrains (s.core 0) 3 = false
       ∧ scaleDrains (s.core 0) 3 = true ∧ globDrains (s.core 0) 3 = false ∧ fmtOf (s.core 0) 3 = 0)) = true ∧
    expand 1 0x0A 4 4 [7#8, 9#8] = [0#8, 7#8, 0#8, 9#8] ∧
    (let s := { la {} { mapped with ports := [(3, { set3 with st := .run, src := .dcmp, base := 0 })] } with mem := [(0x100000, 5#8)] }
     decide (nextBlock s = some (0, 3) ∧ ((xlateEngN s 0 0 0#16 0 8 false).1).isRight = true
       ∧ popFrom 5#64 64 = 2 ∧ ((xlateEngN s 0 0 0#16 8 2 false).1).isRight = true)) = true ∧
    (let k (n : Nat) : Port := { st := .run, dst := .merge, fbank := n, banks := 1, fw := 1, wr := 1 }
     let m : Merge := { ok := 0, ka := 2, kb := 3, oa := 0, ob := 0, eok := false, eoa := false, eob := false, uni := true, strict := false,
                        tag := 9 }
     let s := la {} { ports := [(2, k 12), (3, k 13)], bfmt := [(12, 1#8), (13, 1#8)], pad := [(12 * 8192, 4#8), (13 * 8192, 5#8)],
                      merge := some (0, m) }
     decide (mfind (fun _ c => (mergeStepOf c).isSome) s.cores = some 0 ∧ matched (s.core 0) 0 = true ∧ mergeRoom (s.core 0) m = true
       ∧ mergeHead (s.core 0) 2 false none = .el 4 ∧ mergeHead (s.core 0) 3 false none = .el 5)) = true := by decide +kernel


/-- The 64 bytes of a local table of 4 rows of 4 elements of format 6 at address 0, and its descriptor. -/
def gtab (v ord : Bool) (gen nrows : Nat) : List Byte :=
  List.replicate 8 0#8 ++ leBytes 8 64 ++ leBytes 4 nrows ++ leBytes 2 4 ++ [6#8, BitVec.ofNat 8 ((if ord then 4 else 0) + if v then 8 else 0),
    1#8, 0#8, 0#8, 0#8] ++ leBytes 4 0 ++ leBytes 2 gen ++ leBytes 2 0 ++ List.replicate 28 0#8

def gd (ord : Bool) (gen : Nat) : Desc := descOf (gtab true ord gen 4)

/-- A state with a descriptor at pad offset 64, handle 5 of context 0 as given. -/
def gst (b : List Byte) (h : Handle) (x : Ctx := rg [(1, 64#64), (2, 9#64)]) (c : Core := {}) : State :=
  { la x { c with pad := (List.range 64).map (fun j => (64 + j, b.getD j 0#8)) |>.filter fun e => decide (e.2 ≠ 0#8) } with
      ctxTab := [(0, { handles := [(5, h)] })] }

def gregs (n : DWord) : Ctx := rg [(1, 0x40000#64), (2, n), (3, 0x10000#64), (4, 0x80000#64)]
def gport : Core := { ports := [(7, { st := .run, src := .gath, dst := .ex, fbank := 200, banks := 1 })] }

theorem test_hyp_GatherInstructions :
    (let d := gd false 3
     let b := gtab true false 3 4
     let s := gst b {}
     decide (mgetN 0#8 s.myCore.pad 64 64 = b ∧ (getR s 1).toNat = 64 ∧ d.v = true ∧ curOf s 0 5 = none ∧ d.dist = 0)
       && !descBad s.record.slot b && readyB (.gtbind o 5#5 1#5) o .noDir s && decide (heldCount s < 512)) = true ∧
    (let d : Desc := { gd false 3 with dist := 1, p := 2, tid := 8 }
     tidUsed (gst [] { cur := some d }) 8 && !tidUsed (gst [] { cur := some d }) 9) = true ∧
    (let s := gst (gtab false false 3 4) {}
     readyB (.gtbind o 5#5 1#5) o .noDir s && !(descOf (mgetN 0#8 s.myCore.pad 64 64)).v) = true ∧
    (let s := gst (gtab false false 3 4) { cur := some (gd false 3) }
     readyB (.gtbind o 5#5 1#5) o .noDir s && decide (curOf s 0 5 = some (gd false 3))) = true ∧
    (let c := gd false 3
     let s := gst (gtab true false 4 9) { cur := some c } (rg [(1, 64#64), (2, 65535#64)])
     let b := mgetN 0#8 s.myCore.pad 64 64
     readyB (.gtswap o 5#5 1#5 2#5) o .noDir s && decide (curOf s 0 5 = some c ∧ (descOf b).v = true ∧ heldCount s < 512)
       && !descBad 0 b && !swapDiffers c (descOf b) && decide ((descOf b).gen ≠ c.gen ∧ (handleOf s 0 5).old = none)) = true ∧
    heldCount { la with ghosts := List.replicate 512 { ctx := 1, handle := 0, d := gd false 3, swap := none } } = 512 ∧
    (∀ h ∈ [{}, { cur := some (gd true 3) }, { cur := some (gd false 3) }],
      readyB (.gsync o 5#5 2#5) o .noDir (gst [] h) = true) ∧ (gd true 3).ordered = true ∧ (gd false 3).ordered = false ∧
    (∀ n ∈ [1, 4096], (let s := gst [] { cur := some (gd false 3) } (gregs (BitVec.ofNat 64 n)) gport
        let c := projected s.myCore
        let q := gd false 3
        let fa : Nat × Nat := (0x10000, 0x10000 + 64 * ((n + 511) / 512 + 1))
        let dr := gathDest c q 0x80000 n
        let sr := srcRange (c.bankFmt (0x80000 / 8192)) q 0x80000 (n * q.rlen)
        !meetsOpen c fa && readyB (.gath o 1#5 2#5 3#5 5#5 false 7#5 0#5 false 9#16) o .noDir s && !badGathPort c 7
          && !pendingOn s.myCore 7 && readyB (.gath o 1#5 2#5 3#5 5#5 true 0#5 4#5 true 9#16) o .noDir s
          && decide (dr.2 ≤ 0x200000 ∧ sr.2 ≤ 0x200000) && !mixedBanks c (clipRange dr) && !isEmb (c.bankFmt (0x80000 / 8192))
          && !meetsOpen c dr && !setsMeet [fa] [dr] && readyB (.scat o 1#5 2#5 3#5 5#5 4#5 9#16) o .noDir s
          && readyB (.scata o 1#5 2#5 3#5 5#5 4#5 9#16) o .noDir s && !isEmb q.rcode && decide (q.rcode ≠ 0)
          && !meetsOpen c sr && !mixedBanks c (clipRange sr)) = true) ∧
    (let s := gst [] { cur := some (gd false 3) } (gregs 0x20004#64) gport
     decide ((getR s 2).toNat = 2 * 65536 + 4) && readyB (.gathp o 1#5 2#5 3#5 5#5 true 7#5 4#5 false 9#16) o .noDir s
       && !badGathPort (projected s.myCore) 7) = true := by decide +kernel

/-- A state of handle 5 of context 0 with a gather command of core 0. -/
def gcm (h : Handle) (g : GCmd) (c : Core := mapped) : State :=
  { la {} { c with gcmds := [g], resv := [9] } with ctxTab := [(0, { handles := [(5, h)] })], dies := [(0, { tlb := [tlb0] })] }

def g0 (op : GOp) : GCmd :=
  { op := op, ag := 0, id := 0, core := 0, ctx := 0, gen := 0#16, handle := 5, tag := 9, n := 2, ri := 0, rf := 0x10000,
    arr := some 1 }

/-- A table of two members, this device being the first, and a route to the second. -/
def far : Desc := { gd false 3 with dist := 1, p := 2, tid := 8 }
def routed (s : State) : State := { s with routes := [(1, 0x0100#16), (2, 0x0100#16)], peers := [(0, { st := 2 })] }

theorem test_hyp_StepsOfTheGatherEngine :
    (let d := gd false 3
     let h : Handle := { cur := some d }
     decide (nextAccept (gcm {} (g0 (.bind (some d)))) = some (0, g0 (.bind (some d))) ∧
       nextAccept (gcm h (g0 (.bind none))) = some (0, g0 (.bind none)) ∧
       nextAccept (gcm h (g0 (.swap (gd false 4)))) = some (0, g0 (.swap (gd false 4))) ∧
       nextAccept (gcm h (g0 .sync)) = some (0, g0 .sync) ∧
       nextAccept (gcm h (g0 (.gath true false 0x8000))) = some (0, g0 (.gath true false 0x8000)) ∧
       nextAccept (gcm h (g0 (.scata 0x8000))) = some (0, g0 (.scata 0x8000)) ∧
       handleOf (gcm h (g0 .sync)) 0 5 = h)) = true ∧
    (∀ i ∈ [0, 3, 4], (let d := gd false 3
        let g := { g0 (.gath true false 0x8000) with acc := some (d, 1, 0), idx := [i, 0], rdy := true }
        let s := gcm { cur := some d } g
        !canLoad (s.core 0) g && canLoad (s.core 0) { g with rdy := false } && decide (s.gathRet = [] ∧ gathGo s = some (0, g)) && !canDeliver (s.core 0) g && decide (g.idx.getD g.next 0 = i)
          && isHere s d (ownerOf d i).1 && (decide (i = 4) || (readRow s 0 d (ownerOf d i).2).1.isRight)
          && decide (d.nrows = 4)) = true) ∧
    (let d := far
     let s (t : Nat) : State := routed { gcm { cur := some d } (g0 .sync) with gathIn := [(1, [77, 1, 8, t, 2])] }
     routeUp (s 4) 1 && decide (peerWants (s 4) 1 = some (1, 77 :: 1 :: 8 :: 4 :: 2 :: []) ∧ findBinding (s 4) 8 4 = .inl 3
       ∧ findBinding (s 3) 9 3 = .inl 4 ∧ findBinding (s 3) 8 3 = .inr (0, 5, d))
       && (readRow { s 3 with gathIn := (s 3).gathIn.erase (1, [77, 1, 8, 3, 2]) } 0 d (ownerOf d 2).2).1.isRight) = true ∧
    (let g := { g0 (.gath true false 0x8000) with acc := some (far, 1, 0), idx := [1, 0], rdy := true, next := 1, ship := [(0, 0)] }
     let q : PeerReq := { id := 4, slot := 1, at_ := 0, ag := none, gath := some (0, 0, 0) }
     let s : State := { gcm { cur := some far } g with preqs := [q] }
     decide (deadShip s = some q ∧ (s.core 0).gcmds.find? (fun x => decide (x.id = 0)) = some g)) = true ∧
    (∀ i ∈ [0, 3, 4], (∀ ord ∈ [false, true], (let d := gd ord 3
        let g := { g0 (.scata 0x8000) with acc := some (d, 1, 0), idx := [i, 0], rdy := true }
        let s := gcm { cur := some d } g
        let x := srcRow (s.core 0) g d 0
        let u : OUpd := { ctx := 0, handle := 5, slot := 0, seq := 1, elem := 0, epoch := 0, row := i, add := true, fmt := x.1, data := x.2, core := some 0, d := d }
        !canLoad (s.core 0) g && decide (peerWants s 2 = none ∧ scatGo s = some (0, g) ∧ g.idx.getD g.next 0 = i ∧ (s.ctxEnt 0).gen = g.gen)
          && isHere s d (ownerOf d i).1 && (decide (i = 4) || (updateRow s u (some (g.ag, g.ctx, g.gen, g.tag))).isRight)) = true)) ∧
    (let s : State := { gcm { cur := some far } (g0 .sync) with gathIn := [(1, [77, 3, 8, 0])] }
     decide (peerWants s 3 = some (1, [77, 3, 8, 0]))) = true ∧
    (let g := { g0 .sync with ep := some 0, next := 2 }
     let s := gcm { cur := some (gd true 3) } g
     decide (peerWants s 3 = none ∧ syncGo s = some (0, g) ∧ (handleOf s 0 5).cur = some (gd true 3))) = true ∧
    (let g := { g0 (.gath true false 0x8000) with acc := some (gd false 3, 1, 0), idx := [0, 0], rdy := true, next := 2, out := 2 }
     let q := { g0 .sync with fin := some 7 }
     let s := gcm {} g
     decide (gathDone s = some (0, g) ∧ 9 ∈ (s.core 0).resv ∧ g.fin = none ∧ g.bagBad = false
       ∧ gathDone (gcm {} { g with faults := [(1, { code := 2, mfc := 0, slot := 0, va := 4 })] })
         = some (0, { g with faults := [(1, { code := 2, mfc := 0, slot := 0, va := 4 })] })
       ∧ gathDone (gcm {} q) = some (0, q))) = true ∧
    (let s := gcm { cur := some (gd false 4), old := some (gd false 3) } (g0 .sync)
     decide (s.ghosts.find? (fun g => !pinned s g.d) = none ∧ oldFree s = some (0, 5))) = true ∧
    (let s : State := { la with ghosts := [{ ctx := 1, handle := 0, d := gd false 3, swap := none }] }
     decide ((s.ghosts.find? fun g => !pinned s g.d) = some { ctx := 1, handle := 0, d := gd false 3, swap := none })) = true := by
  decide +kernel

/-- Whether a vector instruction finds its sources and the room for its results. -/
def vecRuns (s : State) (i : Instr) : Bool :=
  match Spec.vec s i with
  | none => true
  | some v => v.legal && v.widths.all (fun b => decide (s.myCore.rows * s.myCore.cols * b ≤ 16384))
      && decide (firstReason (operandReasons (projected s.myCore) v.ins v.outs) = none)
      && srcsReady s.myCore v.ins && dstsRoom s.myCore v.outs && decide (popPoison s.myCore v.ins = none)

/-- EX with port 2 as a source of 512 elements and port 3 as a destination. -/
def exPorts (c : Core := {}) : State :=
  ex {} { c with ports := [(2, { st := .run, src := .glob, dst := .ex, fbank := 10, banks := 1, fw := 512, wr := 512 }),
                           (3, { st := .run, src := .ex, dst := .glob, fbank := 11, banks := 1 })], bfmt := [(10, 9#8), (11, 9#8)] }

theorem test_hyp_VectorInstructionsComplete :
    (∀ i ∈ samples4 ++ samples5, vecRuns ex i = true) ∧
    ((samples4 ++ samples5).filter fun i => (Spec.vec ex i).isSome).length = 52 ∧
    (let s := exPorts
     readyB (.vadd o 35#6 34#6 2#6 .f32) o .ex s && vecRuns s (.vadd o 35#6 34#6 2#6 .f32)
       && decide ((Spec.vec s (.vadd o 35#6 34#6 34#6 .f32)).map (fun v => srcsReady s.myCore v.ins) = some false)) = true ∧
    (let s := exPorts
     decide ((Spec.vec s (.vadd o 34#6 35#6 2#6 .f32)).map
       (fun v => firstReason (operandReasons (projected s.myCore) v.ins v.outs)) = some (some (4, 3)))) = true ∧
    (let s := exPorts { strq := [(0, .mark 2 0 false false)] }
     readyB (.vadd o 1#6 34#6 2#6 .f32) o .ex s && pendingOn s.myCore 2) = true ∧
    (let s := exPorts { poison := [10 * 8192 + 3] }
     readyB (.vmov o 1#6 34#6 .f32) o .ex s && decide ((Spec.vec s (.vmov o 1#6 34#6 .f32)).map (fun v =>
       (srcsReady s.myCore v.ins, dstsRoom s.myCore v.outs, popPoison s.myCore v.ins)) = some (true, true, some 1280))) = true ∧
    (let s := ex {} { vcols := 32#6 }
     readyB (.vmov o 1#6 2#6 .i32) o .ex s && decide (16384 < s.myCore.rows * s.myCore.cols * 32)
       && decide ((Spec.vec s (.vmov o 1#6 2#6 .i16)).map (fun v => v.widths) = some [16])) = true ∧
    (let s := ex {} { fmt8 := 0x20#8 }
     readyB (.vneg o 1#6 2#6 .b8) o .ex s && decide ((Spec.vec s (.vneg o 1#6 2#6 .b8)).map (fun v => v.legal) = some false)) = true := by
  decide +kernel

theorem test_hyp_IntegerElements :
    (∀ t ∈ [ElemT.i4, .n4, .i8, .n8, .i16, .n16, .i32, .n32],
      (∃ w ∈ [4, 8, 16, 32], ∃ sg ∈ [false, true], elemFmt t 0#8 = .int w sg ∧ 16 * 32 * w ≤ 16384 ∧
        (Spec.vecInt w sg (.vadd o 1#6 2#6 3#6 t)).isSome = true ∧ (Spec.vecInt w sg (.vfms o 1#6 1#6 1#6 t 1#6 none none)).isSome = true
        ∧ (Spec.vecInt w sg (.vabs o 31#6 31#6 t)).isSome = true) ∧
      readyB (.vadd o 1#6 2#6 3#6 t) o .ex ex = true ∧ readyB (.vmov o 31#6 31#6 t) o .ex ex = true) ∧
    (∀ t ∈ [ElemT.i8, .n32], readyB (.vdiv o 1#6 2#6 3#6 t) o .ex ex = true ∧ readyB (.vmulh o 1#6 2#6 3#6 t) o .ex ex = true ∧
      readyB (.vfms o 1#6 1#6 1#6 t 1#6 none none) o .ex ex = true ∧ readyB (.vabs o 31#6 31#6 t) o .ex ex = true) := by decide +kernel

theorem test_hyp_MasksSelectionAndLayout :
    (∀ i ∈ [Instr.kand o 0#3 1#3 2#3, .kor o 7#3 7#3 7#3, .kxor o 1#3 2#3 3#3, .knot o 1#3 2#3, .kpop o 1#4 7#3, .kfirst o 0#4 0#3,
        .vtrn o 31#6 31#6 .i4, .vbcr o 1#6 2#6 15#4 .f16, .vbcc o 1#6 2#6 0#4 .b8, .vrot o 1#6 1#6 63#6 .f32, .vslide o 1#6 2#6 0#6 .i32,
        .vsplat o 1#6 2#4 .bf16, .vins o 0#6 1#4 2#4 .f32, .vext o 0#4 2#6 3#4 .f32, .vext o 15#4 2#6 3#4 .i8, .viota o 1#6 .n4,
        .vsel o 1#6 2#6 3#6 .i32 7#3, .vmovm o 1#6 1#6 .i32 3#3 true, .vmovm o 1#6 2#6 .i32 3#3 false, .vcmp o 1#6 2#6 .i16 1#3 .lt,
        .vcmp o 1#6 2#6 .n32 1#3 .geu, .vrsumr o 1#6 2#6 .i8, .vrsumc o 1#6 2#6 .n32],
      readyForm i ex = true) ∧
    ElemT.isSigned .f32 = false ∧ ElemT.isSigned .i8 = true ∧ ElemT.isInt .n4 = true ∧ ElemT.isInt .i8 = true ∧
    (ex).myCore.rows * (ex).myCore.cols * 32 = 16384 := by decide +kernel

/-- Whether a matrix instruction can be pushed. -/
def mxPushes (s : State) (i : Instr) : Bool :=
  Spec.isMx i && readyForm i s && decide (mxReason (projected s.myCore) i = none ∧ s.myCore.mx.queue.length < 16) && !mxPending s.myCore i
    && decide (s.myCore.rngs.length < 64 ∧ s.myCore.resv.length + s.myCore.rpl.length < 32) && !mxNoRoom s.myCore i

/-- EX with matrix ports: 2 feeds B, 3 feeds A, 4 the index port, 5 takes results. -/
def mxPorts : Core :=
  { ports := [(2, { st := .run, src := .glob, dst := .mxb, fbank := 10, banks := 1 }), (3, { st := .run, src := .glob, dst := .mxa, fbank := 11, banks := 1 }),
              (4, { st := .run, src := .glob, dst := .mxa, fbank := 12, banks := 1 }), (5, { st := .run, src := .mx, dst := .glob, fbank := 13, banks := 2 })],
    bfmt := [(12, 5#8)] }

def mxc (i : Instr) (x : MxCmd := { i := i, seq := 3, id := 7, epc := 1, ptag := none, ctx := 0, gen := 0#16 }) : MxCmd := { x with i := i }

def mxq (l : List MxCmd) (sm : Sem := {}) : State := ex {} { mx := { queue := l }, sems := [(3, sm)] }

theorem test_hyp_MatrixCommands :
    (∀ i ∈ [Instr.mxldb o none none .port 2#14 0#3 0#3 0x13#6 63#8 false, .mxldb o none none .pad 0#14 7#3 0#3 1#6 255#8 true,
        .mxldb o none none .glob 0#14 0#3 7#3 0x13#6 63#8 false, .mxldbs o none none true 0x600#14 0#3 2#2 true 0#1 0x13#6 87#10,
        .mxrun o none none false 3#11 0x13#6 0#4 87#7 0#5 1#5, .mxrun o none none true 2#11 0x13#6 15#4 127#7 0#5 31#5,
        .mxrung o none none 1#6 4#5 0x13#6 0#5 63#6 0#5 1#5, .mxst o none none true 0x80#11 0#5 0#3 3#5 7#6 .rne false 0#3,
        .mxst o none none false 5#11 0#5 0#3 3#5 7#6 .rne false 0#3, .mxz o none none 0#5 3#5 0#2, .mxz o none none 0#5 3#5 2#2,
        .mxops o none none 3#4 0x1B#16 0#16, .mxanc o none none (.val 20#9), .mxanc o none none (.deflt 1#6 2#6),
        .mxclrp o none none 0#5 3#5 true 0xFF#8, .mxspill o none none true 0#11 0#5 0#5, .mxspill o none none false 5#11 0#5 0#5,
        .mxfill o none none true 0#11 0#5 0#5, .mxfill o none none false 3#11 0#5 0#5], mxPushes (ex {} mxPorts) i = true) ∧
    mxReason (projected (ex {} mxPorts).myCore) (.mxfill o none none false 5#11 0#5 0#5) = some (4, 5) ∧
    readyForm (.mxfill o none none false 5#11 0#5 0#5) (ex {} mxPorts) = true ∧
    (let s := mxq (List.replicate 16 (mxc (.mxanc o none none (.val 20#9))))
     readyForm (.mxz o none none 0#5 3#5 0#2) s && decide (16 ≤ s.myCore.mx.queue.length)) = true ∧
    (∀ s ∈ [ex, mxq [mxc (.mxanc o none none (.val 20#9))]], readyB (.mxfence o none (some 3#4)) o .ex s = true) ∧
    ((ex).myCore.mx.queue = [] ∧ (ex).myCore.mx.run = []) ∧
    (let q := mxc (.mxanc o (some 3#4) none (.val 20#9))
     decide (mxGo (mxq [q] { count := 1 }) = some 0 ∧ mxBusy (mxq [q] { count := 1 }) 0 = none ∧ mxHead (mxq [q] { count := 1 }) 0 = .take 3
       ∧ mxGo (mxq [q]) = some 0 ∧ mxBusy (mxq [q]) 0 = none ∧ mxHead (mxq [q]) 0 = .join 3)) = true ∧
    (let q := mxc (.mxanc o (some 3#4) none (.val 20#9))
     let s : State := { mxq [q] with ctxTab := [(0, { sem := 0#80 })] }
     decide (mxGo s = some 0 ∧ mxBusy s 0 = none) && (match mxHead s 0 with
       | .bad _ => true
       | _ => false)) = true ∧
    (let q := mxc (.mxrun o none none true 2#11 0x13#6 0#4 31#7 0#5 1#5)
     let s := ex {} { mx := { run := [q] }, scq := [127#8] }
     decide (mxGo s = some 0 ∧ mxHead s 0 = .none ∧ mxBusy s 0 = some q ∧ acc0Of q.i + q.row = 0 ∧ ((s.core 0).mx.rowOf 0).tag = q.ctx)
       && !mxCanFeed (s.core 0) q && (match rowScales s 0 q, nextRow (s.core 0) q with
         | .ok _, .ok _ none => true
         | _, _ => false)) = true ∧
    (∀ i ∈ [Instr.mxldb o none none .pad 0#14 7#3 0#3 0x13#6 63#8 false, .mxst o none none true 0x80#11 0#5 0#3 3#5 1#6 .rne false 0#3,
        .mxspill o none none true 0#11 0#5 0#5, .mxfill o none none true 0#11 0#5 31#5],
      (let s := ex {} { mx := { run := [mxc i] }, resv := [0x4D03] }
       decide (toPerform s = some (0, mxc i) ∧ (s.core 0).poison = [])) = true) ∧
    ((mxFmt 0x13).bits = 8 ∧ (mxFmt 1).bits = 8) ∧
    (∀ i ∈ [Instr.mxanc o none none (.val 20#9), .mxops o none none 3#4 0x1B#16 0#16, .mxz o none none 0#5 31#5 0#2,
        .mxz o none none 31#5 0#5 0#2, .mxfence o none none, .mxclrp o none none 31#5 0#5 true 0xFF#8],
      mxGo (mxq [mxc i]) = some 0 ∧ mxBusy (mxq [mxc i]) 0 = none ∧ mxHead (mxq [mxc i]) 0 = .start) ∧
    (∀ x ∈ [({ count := 65535 } : Sem), {}],
      (let q := { mxc (.mxrun o none (some 3#4) true 2#11 0x13#6 0#4 31#7 0#5 1#5) with row := 2 }
       let s := ex {} { mx := { run := [q] }, sems := [(3, x)], rngs := [{ id := 7, rd := [], wr := [] }] }
       decide (toPerform s = some (0, q) ∧ isRun q.i = true ∧ q.gone = false ∧ mxSig q.i = some 3#4 ∧ physSem s 0 3 = some 3)) = true) ∧
    (let f : MxFault := { addr := 0, cause := 5, detail := 7, seq := 0, ctx := 0, core := 0, epc := 0, group := 0, col := 0, jobid := 0#64, time := 0 }
     let s := ex {} { mx := { held := [f] } }
     let t : State := { s with clusters := [(0, { heldq := [0] })] }
     decide (heldFault t = some 0 ∧ (t.core 0).mx.held = f :: [] ∧ (t.clus 0).heldq = [0])) = true := by decide +kernel

/-- EX with ports 2 and 3 that Gambit fills, in format 6, and port 4 with 64 elements to read. -/
def gamSt (l : List (Nat × DWord)) (g : Gambit := {}) : State :=
  ex (rg l) { gam := g, bfmt := [(10, 6#8), (74, 6#8), (80, 7#8)], resv := [9],
              ports := [(2, { st := .run, src := .ex, dst := .glob, fbank := 10, banks := 64 }),
                        (3, { st := .run, src := .ex, dst := .glob, fbank := 74, banks := 1 }),
                        (4, { st := .run, src := .glob, dst := .ex, fbank := 80, banks := 1, fw := 64, wr := 64 })] }

theorem test_hyp_GambitCommands :
    (∀ a ∈ [8, 0x200000, 0x1FFFC0, 0], readyB (.gbld o 1#4) o .ex (gamSt [(1, BitVec.ofNat 64 a)]) = true) ∧
    (let q : GbCmd := .ld 0 0 none
     let s := gamSt [] { queue := [q, q, q, q] }
     readyB (.gbld o 1#4) o .ex s && readyB (.gbth o 1#4 2#4 3#4 4#4) o .ex s && decide (4 ≤ s.myCore.gam.queue.length)) = true ∧
    readyB (.gbth o 1#4 2#4 3#4 4#4) o .ex (gamSt []) = true ∧
    (∀ n ∈ [0, 1, 1024, 8193], readyB (.gbpred o 0#6 34#6 35#6 false 9#16 1#4 2#4) o .ex (gamSt [(1, BitVec.ofNat 64 n), (2, 16#64)]) = true) ∧
    (let s := gamSt [(1, 64#64), (2, 16#64)]
     let v (f : Nat) : VIn := { f := f, fmt := elemFmt .bf16 0#8, n := 64 }
     readyB (.gbpred o 36#6 34#6 35#6 true 9#16 1#4 2#4) o .ex s && readyB (.gbpred o 31#6 35#6 34#6 true 9#16 1#4 2#4) o .ex s
       && decide (gamReason (projected s.myCore) 2 = none ∧ gamReason (projected s.myCore) 3 = none ∧ srcReason (projected s.myCore) 4 = none) && !pendingOn s.myCore 4
       && !pendingOn s.myCore 2 && !gamPushes s.myCore 2 && !gamPushes s.myCore 3 && srcsReady s.myCore [v 36] && srcsReady s.myCore [v 31]
       && roomFor s.myCore 2 16 && roomFor s.myCore 3 16 && decide (popPoison s.myCore [v 36] = none ∧ popPoison s.myCore [v 31] = none)) = true ∧
    (let s := gamSt [(2, 8193#64)]
     let t := gamSt [(2, 64#64)]
     let v (f : Nat) : VIn := { f := f, fmt := elemFmt .f32 0#8, n := 64 }
     readyB (.gbchk o 5#6 34#6 .f32 2#4 9#16) o .ex s && readyB (.gbchk o 5#6 34#6 .f32 2#4 9#16) o .ex t
       && readyB (.gbchk o 36#6 34#6 .f32 2#4 9#16) o .ex t && srcsReady t.myCore [v 5] && srcsReady t.myCore [v 36]
       && decide (popPoison t.myCore [v 5] = none ∧ popPoison t.myCore [v 36] = none)) = true ∧
    (∀ q ∈ [GbCmd.th 1#64 2#64 3#64 4#32 0 none, .ld 0 0 none, .ld 64 0 (some 3), .pred [0] false 2 3 16 9 0 none],
      (let s := gamSt [] { queue := [q] }
       decide (gamGo s = some 0 ∧ (s.core 0).gam.out = [] ∧ (s.core 0).gam.reply = none) && matched (s.core 0) 0) = true) ∧
    (let s := gamSt [] { queue := [.pred [0] false 2 3 16 9 0 none], reply := some (9, 2, 4, 0) }
     decide (gamGo s = some 0 ∧ (s.core 0).gam.out = [] ∧ 9 ∈ (s.core 0).resv)) = true := by decide +kernel

/-- An instance of a nest of image0, with NIX 9. -/
def inst9 : Inst :=
  { nix := 9, img := 1, reg := 7, nest := 0, ctx := 0, gen := 0#16, prio := 4, die := 0, arg := 77#64, deps := [], ready := true, share := [(0, 2)] }

/-- A deque entry of that instance. -/
def ent9 (n count : Nat) : DqEnt := { nix := 9, tile := n, count := count, range := decide (1 < count), b := 4, c0 := 0, gang := false, held := false, area := none }

/-- The walker's state: that instance, its image, core 0 as given, no engine running. -/
def wst (c : Core) : State := { phase := .run, images := [image0], insts := [inst9], cores := [(0, c)] }

theorem test_hyp_StepsOfTheNestWalker :
    (let x : Item := { nix := 9, b := 4, c0 := 0, next := 0, back := [], gang := false, starved := false }
     let s (a b : Item) : State := { wst {} with dies := [(0, { items := [a, b] })] }
     decide (((List.range 2).find? fun d => (dealTo (s x { x with b := 5 }) d).isSome) = some 0
       ∧ (dealTo (s x { x with b := 5 }) 0).map (fun y => (y.1, y.2.2.1)) = some (1, [(0, { ent9 0 1 with b := 5 })])
       ∧ (dealTo (s x { x with next := 1 }) 0).map (fun y => (y.1, y.2.2.1, y.2.2.2)) = some (0, [(0, ent9 0 1)], some { x with next := 1 }))
       ) = true ∧
    (let u : Deal := { ents := [(0, ent9 0 1)] }
     let j (r : Nat) : Core := { job := some { placedJob with run := r } }
     let s (r : Nat) : State := { wst (j r) with dies := [(0, { deals := [u] })] }
     decide (((s 0).die 0).deals = u :: [] ∧ 0 + ((s 0).die 0).delta ≤ effPrio (s 0) 0 4 0 ∧ effPrio (s 1) 0 4 0 < 1 + ((s 1).die 0).delta
       ∧ ((s 0).core 0).online = true)) = true ∧
    (let s := wst { deque := [{ ent9 0 1 with held := true }, ent9 3 1, ent9 0 3] }
     decide (toPop s = some 0 ∧ popEnt s 0 = some (2, ent9 0 3))) = true ∧
    (let s := wst { deque := [ent9 3 1] }
     decide (toPop s = some 0 ∧ popEnt s 0 = some (0, ent9 3 1))) = true ∧
    ([1, 2, 3].all fun n => (let s := wst { job := some placedJob, deque := [ent9 3 n] }
       decide (toSteal s = some 1 ∧ victimOf s 1 = some 0 ∧ stealEnt s 0 = some (0, ent9 3 n)))) = true ∧
    (let s : State := { wst { job := some placedJob, deque := [ent9 3 1] } with cycle := 18000000 }
     decide (starvingEnt s = some (0, 0) ∧ (s.core 0).deque[0]? = some (ent9 3 1))) = true ∧
    (let x : Item := { nix := 9, b := 4, c0 := 0, next := 0, back := [], gang := false, starved := false }
     let s : State := { wst {} with cycle := 18000000, dies := [(1, { items := [x] })] }
     decide (starvingEnt s = none ∧ starvingItem s = some (1, 0) ∧ (s.die 1).items[0]? = some x)) = true := by decide +kernel

theorem test_hyp_JobsStartAndEnd :
    (let s := withImage (la (rg [(1, 2#64)]))
     decide (s.myCore.job = some placedJob ∧ imageOf s 0 = some image0 ∧ image0.nests[(2 : Nat)]? = none) && readyB (.spawn o 1#5 2#5) o .ring s)
       = true ∧
    (let s := withImage (la (rg [(1, 1#64)]))
     readyB (.spawn o 1#5 2#5) o .ring s && ((image0.nests[(1 : Nat)]?).map Nest.hasD == some true)) = true ∧
    (let s := withImage (la (rg [(1, 0#64)]))
     readyB (.spawn o 1#5 2#5) o .ring s && ((image0.nests[(0 : Nat)]?).map (fun n => (n.hasD, n.gang)) == some (false, false))
       && decide (tableFull s = false ∧ s.phase = .run ∧ instOf s (nextNix s).1 = none ∧ dequeRoom s 0 = true)
       && readyB (.spawn o 1#5 2#5) o .ring { s with phase := .adjourning }) = true ∧
    (let s := wst { next := some (ent9 0 1, 0) }
     decide (mfind (fun k _ => copying s k) s.cores = some 0 ∧ entImage s (ent9 0 1) = some (1, 7)
       ∧ (s.images.find? fun i => decide (i.img = 1 ∧ i.reg = 7)) = some image0) && (List.range 4).all fun g =>
         decide ((image0.text.getD g []).length ≤ 65536)) = true ∧
    (let s := wst { next := some (ent9 1 1, 0), img := some (1, 7) }
     decide (mfind (fun k _ => startable s k) s.cores = some 0 ∧ (ent9 1 1).area = none ∧ instOf s 9 = some inst9 ∧ (instNest s inst9).isSome = true)) = true ∧
    (let j : Job := { placedJob with nix := 9, drain := true }
     let s : State := { wst { job := some j } with ctxs := [(0, { run := .rdv }), (1, { run := .absent }), (2, { run := .rdv })] }
     decide (mfind (fun k _ => jobOver s k) s.cores = some 0 ∧ (s.core 0).job = some j ∧ instOf s 9 = some inst9)) = true ∧
    (let j : Job := { placedJob with nix := 9, stopped := true, mark := some 0 }
     let t (c : Core) (e : CtxEnt) : State := { wst { c with job := some j } with
                              ctxTab := [(0, e)], ctxs := [(0, { run := .held }), (1, { run := .absent }), (2, { run := .held })] }
     let e : CtxEnt := { pool := 0x100000, nslot := 1, slotsz := 1024 }
     decide (toSave (t {} {}) = some 0 ∧ savePlace (t {} {}) 0 j = none ∧ toSave (t {} e) = some 0 ∧ portsQuiet ((t {} e).core 0) = true
       ∧ savePlace (t {} e) 0 j = some (0x100000, some 0) ∧ toSave (t { ports := [(4, queue4)] } e) = some 0
       ∧ portsQuiet ((t { ports := [(4, queue4)] } e).core 0) = false)) = true ∧
    (let s : State := { wst { job := some placedJob } with cycle := 0x100001, ctxs := [(1, { run := .run })] }
     decide (mfind (fun ag _ => overdue s ag) s.ctxs = some 1 ∧ overdueOf s 0 = [1])) = true ∧
    (let i : Inst := { inst9 with cl := [(3, { done := 2, closed := true })] }
     let s : State := { wst {} with insts := [i] }
     decide (toReport s = some (9, 3) ∧ instOf s 9 = some i)) = true ∧
    (let i : Inst := { inst9 with got := [(0, 2)], notify := some 1 }
     let k : Inst := { inst9 with ready := false, deps := [8] }
     let d : Inst := { inst9 with nix := 8, done := true, outcome := 1 }
     decide (instDone { wst {} with insts := [i] } = some (9, 0) ∧ instOf { wst {} with insts := [i] } 9 = some i ∧ i.done = false
       ∧ ([i].all fun x => !x.deps.contains 9) = true ∧ instDone { wst {} with insts := [k, d] } = some (9, 3))) = true := by decide +kernel


/-- The record of a Clock entry for nest 0 of image 1: first instance at TIME 1000, one every 100, PRIO 5, ARG 99. -/
def clk1 (flags : Nat) : BitVec 512 :=
  [(6, 4, 1000), (16, 8, 100), (32, 2, 1), (36, 1, 5), (37, 1, flags), (40, 8, 99)].foldl (fun x w => clkSet x w.1 w.2.1 w.2.2) 0#512

/-- The walker's state at TIME 1000 or 1200, with that entry. -/
def cst (t flags : Nat) (x : Clk := {}) : State :=
  { wst {} with timeOfs := t, clocks := [(2, { x with rec_ := clk1 flags })] }

theorem test_hyp_ClockMonitorsAndEventRing :
    (let s := cst 1000 8
     decide (toFire s = some 2 ∧ firing s (s.clk 2) = some (0, 0) ∧ (s.clk 2).last = none ∧ tableFull s = false
       ∧ instOf s (nextNix s).1 = none) && (imageNow s 1 == some image0) && decide (clkNat (clk1 8) 32 2 = 1 ∧ clkNat (clk1 8) 34 2 < image0.nests.length)) = true ∧
    (let s := cst 1000 12 { last := some 9 }
     decide (toFire s = some 2 ∧ firing s (s.clk 2) = some (0, 0) ∧ instOf s 9 = some inst9 ∧ inst9.done = false
       ∧ clkNat (s.clk 2).rec_ 37 1 / 4 % 2 = 1)) = true ∧
    (let s := cst 1200 8
     decide (toFire s = some 2 ∧ firing s (s.clk 2) = some (0, 2))) = true ∧
    (let i : Inst := { inst9 with clk := some (2, 0, 1000, 0) }
     let s (t : Nat) : State := { wst { deque := [ent9 0 1, { ent9 1 1 with held := true }] } with insts := [i], timeOfs := t }
     decide ((mfind (fun _ c => c.deque.any fun e => mayRelease (s 1000) e) (s 1000).cores) = some 0 ∧ instOf (s 1000) 9 = some i
       ∧ 1000 ≤ (s 1000).time)) = true ∧
    ([1, 2, 3].all fun v => (let s (r : BitVec 512) : State := { cst 0 8 with csrq := [(1536, 0x819, BitVec.ofNat 64 v)], clkRec := r, clkIdx := 3 }
       decide ((s 0#512).csrq = (1536, 0x819, BitVec.ofNat 64 v) :: []) && clkBad (s 0#512) 0#512 && !clkBad (s (clk1 8)) (clk1 8))) = true ∧
    (let x : Sample := { src := 3, sub := 2, core := 0, val := -5 }
     let s (m : Mon) : State := { wst {} with dies := [(1, { samples := [x], mons := [(4, m)] })] }
     decide ((mfind (fun _ d => decide (d.samples ≠ [])) (s {}).dies) = some 1 ∧ ((s {}).die 1).samples = [x] ∧ ({} : Mon).takes x = false
       ∧ ({ cfg := 0xFF800000#64 ||| 0x200301#64 } : Mon).takes x = true)) = true ∧
    (let s (c : DWord) (n : Nat) : State := { wst {} with cycle := n, dies := [(1, { mons := [(4, { cfg := c })] })] }
     decide (levelDue (s 0xFF800501#64 1024) = some 1 ∧ levelDue (s 0xFF800601#64 150000) = some 1)) = true ∧
    (let e : Event := { ty := 6, core := 0xFFFF, time := 5, body := [] }
     let s (n : Nat) : State := { wst {} with dies := [(1, { evEn := true, evBase := 0x100000, evTail := BitVec.ofNat 32 n,
                                                             waiting := [(e, false), ({ e with ty := 4 }, false)] })] }
     decide (ringReady (s 256) = some 1 ∧ ringFull ((s 256).die 1) = true ∧ ringReady (s 255) = some 1 ∧ ringFull ((s 255).die 1) = false
       ∧ nextEvent (s 255) 1 = some ({ e with ty := 4 }, .inl 1))) = true := by decide +kernel

/-- The tag of iteration 3 of activation 1, and a checkpoint of an engine under it, at the start of a pipelined loop. -/
def tag3 : Nat := 2 ^ 32 + 3
def lvSp : Level := { l := 0, start := 6, fin := 8, act := true, sp := some 5, lo := 4, hi := 10 }
def ck (e : Nat) (lv : List Level) : Ckpt := { eng := e, k := 3, act := 1, ctx := { pc := 6, levels := lv } }

/-- Core 0 running that instance's job, with a trigger. -/
def rst (t : Trig) (c : Core) (rb : Rollb := {}) : State :=
  wst { c with job := some { placedJob with nix := 9 }, img := some (1, 7), rb := { rb with pending := some t } }

theorem test_hyp_SecondAndRollback :
    (let c : Core := { secq := [4, 5], steerP := [(4, true, 1#16, 2#16), (4, false, 3#16, 4#16), (5, true, 5#16, 6#16)] }
     let s := wst c
     decide (s.arg.val = 0 ∧ toMatch s = some 0 ∧ (s.core 0).secq = 4 :: [5])) = true ∧
    (let c : Core := { secq := [4, 5], outb := [(4, { eng := 1, tag := tag3, bad := true })] }
     let d : Core := { upset := [(2, 0)] }
     decide (toMatch (wst c) = some 0 ∧ disagreement c = some (1, tag3) ∧ toMatch (wst d) = some 0 ∧ disagreement d = some (2, 0)
       ∧ disagreement { secq := [4, 5] } = none)) = true ∧
    ([0, 1, 2, 3].all fun g => (let s (c : Core) : State := { wst { c with ckpts := [ck 1 []] } with arg := { val := (g + 1 : Nat), port := 0 } }
       let x : Outb := { eng := g, tag := tag3, bad := false }
       let f (c : Core) : Option Nat := c.secq.find? fun n => decide ((mget { eng := 5, tag := 0, bad := false } c.outb n).eng = g)
       decide ((s {}).arg.val = (g + 1 : Nat) ∧ (s {}).arg.port = 0 ∧ f ((s {}).core 0) = none
         ∧ f ((s { secq := [3, 4], outb := [(4, x)] }).core 0) = some 4))) = true ∧
    (let t : Trig := { eng := 3, tag := 0, mis := false, unit := 64, own := false }
     decide (toRoll (rst t {}) = some (0, t) ∧ ((rst t {}).core 0).rb.handler = false)) = true ∧
    (let t : Trig := { eng := 1, tag := tag3, mis := false, unit := 64, own := false }
     let s := wst { rb := { pending := some t } }
     decide (toRoll s = some (0, t) ∧ (s.core 0).job = none)) = true ∧
    (let t : Trig := { eng := 1, tag := tag3, mis := true, unit := 0, own := false }
     let s := rst t { ckpts := [ck 1 []] } { last := some t, lastOf := [1] }
     decide (toRoll s = some (0, t) ∧ escalates (s.core 0) t = true)) = true ∧
    ([false, true].all fun m => [false, true].all fun w => (let t : Trig := { eng := 1, tag := 0, mis := m, unit := 64, own := false }
       let s := rst t {} { wrote := w }
       decide (toRoll s = some (0, t) ∧ escalates (s.core 0) t = false ∧ (s.core 0).rb.irrev = false ∧ instOf s 9 = some inst9)
         && (rolledCore (s.core 0) t).isNone && (instNest s inst9).isSome)) = true ∧
    ([[lvSp], []].all fun lv => (let t : Trig := { eng := 1, tag := tag3, mis := false, unit := 64, own := false }
       let q : MxCmd := { mxc (.mxanc o none none (.val 20#9)) with ptag := some tag3 }
       let s (l : List MxCmd) := rst t { ckpts := [ck 1 lv], mx := { queue := l } }
       decide (toRoll (s []) = some (0, t) ∧ toRoll (s [q]) = some (0, t) ∧ escalates ((s []).core 0) t = false
           ∧ restored ((s []).core 0) t = [1] ∧ mxRemoved ((s [q]).core 0) tag3 = [q] ∧ mxRemoved ((s []).core 0) tag3 = []
           ∧ gbRemoved ((s []).core 0) tag3 = [] ∧ ckptOf ((s []).core 0) 1 tag3 = some (ck 1 lv)
           ∧ (rolledCore ((s []).core 0) t).map (fun d => (d.job.map fun x => x.stopped)) = some (some false))
         && (rolledCore ((s [q]).core 0) t).isSome)) = true ∧
    lvSp.sp.isSome = true := by decide +kernel

/-- The Director of die 0 with registers, the table entry of context 3, core 0 as given, and bytes in memory. -/
def dst (l : List (Nat × DWord)) (e : CtxEnt := {}) (c : Core := {}) (m : Map Byte := []) (x : Ctx := {}) : State :=
  { dir { x with regs := l } with ctxTab := [(3, e)], cores := [(0, c)], mem := m, images := [image0], insts := [inst9] }

/-- The bytes of a list that are not zero, from an address on. -/
def putAt (a : Nat) (l : List Byte) : Map Byte := ((List.range l.length).zip l |>.filter fun x => decide (x.2 ≠ 0#8)).map fun x => (a + x.1, x.2)

/-- A descriptor of a context with V, tables at 0x10000 and no save pool. -/
def cdesc (v : Nat) : Map Byte := putAt 0x2000 (leBytes 8 0x10000 ++ leBytes 8 0 ++ leBytes 4 0 ++ leBytes 3 0 ++ leBytes 1 v ++ leBytes 10 0)

/-- A stopped job of context 3's core, whose engines have no entry but LA's. -/
def stopJob : Core := { job := some { placedJob with nix := 9, stopped := true, mark := some 1 }, img := some (1, 7) }

/-- A save area of image 1 and context 0, EX without an entry point, nothing live in it and no row. -/
def area9 : Map Byte :=
  putAt 0x4000 (leBytes 4 0x41535A43 ++ leBytes 2 1 ++ leBytes 4 0x400 ++ leBytes 10 1 ++ leBytes 4 9 ++ leBytes 4 0x2880 ++ leBytes 4 0
    ++ leBytes 4 0x2880 ++ leBytes 4 0x2880 ++ leBytes 4 0x2880) ++ [(0x4881, 0x40#8)]

theorem test_hyp_DirectorInstructionsOnContextsAndJobs :
    (let b := 0x2000#64
     let i := Instr.asidset 1#5 2#5 3#5
     ([[(2, 64#64), (3, b)], [(2, 3#64), (3, b + 1#64)], [(2, 3#64), (3, b)]].all fun l => readyB i o .dir (dst l)
         && decide (64 ≤ (getR (dst l) 2).toNat ∨ ownHbm (dst l) (getR (dst l) 3).toNat 64 64 = false
           ∨ getR (dst l) 3 = b))
       && ([0, 1].all fun v => (let s := dst [(2, 3#64), (3, b)] {} {} (cdesc v)
          readyB i o .dir s && ownHbm s 0x2000 64 64 && !ctxDescBad (publish s) (memN (publish s) 0x2000 64)
            && decide (Spec.le (fun k => viewByte s s.cur (0x2000 + 23 + k)) 1 = v) && !ctxLive (publish s) 3))
       && ctxLive (dst [] {} { job := some { placedJob with ctx := 3 } }) 3
       && ctxDescBad (dst []) (memN (dst [] {} {} (putAt 0x2000 (leBytes 24 1))) 0x2000 64)) = true ∧
    ([([(2, 64#64), (3, 0x1000#64)], false), ([(2, 3#64), (3, 0x1001#64)], false), ([(2, 3#64), (3, 0x1000#64)], false),
      ([(2, 3#64), (3, 0x1000#64)], true)].all fun l => (let s := dst l.1 { v := l.2 }
       readyB (.ptbase 1#5 2#5 3#5) o .dir s && readyB (.semmap 1#5 2#5 3#5) o .dir s && decide ((s.ctxEnt 3).v = l.2))) = true ∧
    (ownHbm (dst []) 0x1001 4096 4096 = false ∧ ownHbm (dst []) 0x1000 4096 4096 = true) ∧
    ([(0x40#64, 0#64), (0#64, 0x10#64), (0#64, 6#64), (0x303#64, 0xFFFFFFFFF00F#64), (3#64, 0x5000#64)].all fun l =>
      readyB (.tlbinv 1#5 2#5 3#5) o .dir (dst [(2, l.1), (3, l.2)])) = true ∧
    (invSize 6 = none ∧ invSize 15 = some 48 ∧ invSize 0 = some 12 ∧ 0x303#64 &&& ~~~0x33F#64 = 0#64 ∧
      0xFFFFFFFFF00F#64 &&& ~~~0xFFFFFFFFF00F#64 = 0#64) ∧
    ([(64#64, false), (3#64, false), (3#64, true)].all fun l => readyB (.killctx 1#5 2#5) o .dir (dst [(2, l.1)] { v := l.2 })) = true ∧
    (let s := dst [(2, 3#64)] { v := true } { gcmds := [{ g0 (.gath true false 0x8000) with ctx := 3, acc := some (gd false 3, 1, 0) }] }
     readyB (.killctx 1#5 2#5) o .dir s && killPending (killCtx (publish s) 3) 3 && !killPending (killCtx (publish (dst [] { v := true })) 3) 3)
       = true ∧
    (let s := dst [(2, 3#64)] { v := true } {} [] { wait := .kill 3 }
     readyB (.killctx 1#5 2#5) o .dir s && !killPending (publish s) 3) = true ∧
    (let s (v : DWord) (c : Core) := dst [(2, v)] {} c
     [.preempt 1#5 2#5, .drain 1#5 2#5 3#5, .ctxsave 1#5 2#5 3#5, .ctxload 1#5 2#5 3#5].all (fun i =>
         readyB i o .dir (s 192#64 {}) && readyB i o .dir (s 0#64 {}) && readyB i o .dir (s 0#64 stopJob))
       && decide (coreOperand (s 192#64 {}) 192#64 true = none ∧ coreOperand (s 0#64 {}) 0#64 true = some 0
         ∧ coreOperand (s 0#64 {}) 0#64 false = some 0 ∧ coreOperand (s 0#64 {}) 0x1000#64 true = some 0
         ∧ coreOperand (s 0#64 {}) 0x1000#64 false = none)
       && dirStopped (publish (s 0#64 stopJob)) 0 && !dirStopped (publish (s 0#64 { job := some placedJob })) 0
       && drainDone (publish (s 0#64 stopJob)) 0 && portsQuiet ((s 0#64 stopJob).core 0) && portsSavable ((s 0#64 stopJob).core 0)
       && (let q : Core := { stopJob with ports := [(4, queue4)] }
           drainDone (publish (s 0#64 q)) 0 && portsSavable q && !portsQuiet q && portsQuiet (quietPorts q))
       && !portsSavable { ports := [(3, { st := .run, dst := .remote, hasRem := true, remote := 0x20005#64, sending := some (1, []) })] }
       && !drainDone (publish (s 0#64 { stopJob with secq := [1] })) 0
       && readyB (.drain 1#5 2#5 3#5) o .dir (dst [(2, 0#64)] {} stopJob [] { ans := some .timeout, wait := .drain 0 5 })) = true ∧
    (let s := (dst [(2, 0x1000#64), (3, 0x4000#64)] { v := true } stopJob).setCtx 1 { run := .absent }
     decide (ownHbm s 0x4000 (max 4096 (areaSize (publish s) 0)) 4096 = true ∧ ownHbm s 0x4001 (max 4096 (areaSize (publish s) 0)) 4096 = false)) = true ∧
    (let u : State := { dst [(2, 0x1000#64), (3, 0x4000#64)] {} { img := some (1, 7) } area9 with ctxTab := [(0, { v := true })] }
     readyB (.ctxload 1#5 2#5 3#5) o .dir u && ownHbm u 0x4000 4096 4096 && areaOk (publish u) 0x4000 && !areaOk (publish u) 0x5000
       && (areaImage (publish u) 0x4000 == some image0) && decide ((u.core 0).img = some (1, 7) ∧ (u.core 0).job = none
         ∧ (u.core 0).next = none ∧ (u.core 0).online = true) && !enginesBusy (u.core 0)
       && readyB (.ctxload 1#5 2#5 3#5) o .dir { u with phase := .adjourning }
       && readyB (.ctxload 1#5 2#5 3#5) o .dir (u.setCore 0 { u.core 0 with online := false })
       && readyB (.ctxload 1#5 2#5 3#5) o .dir (u.setCore 0 stopJob)) = true := by decide +kernel

theorem test_hyp_DirectorInstructionsOnTheDevice :
    (let s (x y : DWord) (c : Core) (h : Ctx) := (dst [(2, x), (3, y)] {} c).setCtx 3 h
     let i := Instr.wake 1#5 2#5 3#5
     ([0, 1, 2, 3, 0x14, 0x1F4, 5, 0x12, 512].all fun y => readyB i o .dir (s 0#64 (BitVec.ofNat 64 y) stopJob {}))
       && ([0, 1].all fun y => readyB i o .dir (s 0#64 (BitVec.ofNat 64 y) {} {}) && readyB i o .dir { s 0#64 (BitVec.ofNat 64 y) stopJob {} with phase := .adjourning })
       && dirStopped (publish (s 0#64 0#64 stopJob {})) 0 && !dirStopped (publish (s 0#64 0#64 {} {})) 0
       && ([2, 3].all fun y => readyB i o .dir (s 0#64 (BitVec.ofNat 64 y) {} { run := .trapped }))
       && ([false, true].all fun f => readyB i o .dir (s 0#64 0x1F4#64 { ports := [(31, { st := .fault, fend := f })] } {}))
       && decide (coreOperand (s 0#64 0#64 {} {}) 0#64 false = some 0 ∧ coreOperand (s 0#64 0#64 {} {}) 192#64 false = none)) = true ∧
    (let p (b : List Byte) := dst [(2, 0x2000#64)] {} {} (putAt 0x2000 b)
     let q (img nest prio fl die : Nat) := leBytes 2 img ++ leBytes 2 nest ++ leBytes 1 prio ++ leBytes 1 fl ++ leBytes 1 die
     let i := Instr.lqpush 1#5 2#5
     readyB i o .dir (dst [(2, 0x2001#64)]) && !ownHbm (dst []) 0x2001 32 8 && ownHbm (dst []) 0x2000 32 8 && (memPoison (dst []) 0x2000 32).isNone
       && (memPoison (publish { dst [] with poison := [0x201F] }) 0x2000 32).isSome
       && ([q 1 0 16 1 0, q 1 0 15 0 0, q 1 2 16 0 0, q 2 0 16 0 0, q 1 0 17 0 0, q 1 0 16 2 0, q 1 0 16 0 5].all fun b =>
         readyB i o .dir (p b) && readyB i o .dir { p b with phase := .adjourned })
       && (imageNow (p []) 1 == some image0) && (imageNow (p []) 2).isNone && !tableFull (p []) && tableFull { p [] with insts := List.replicate 1024 inst9 }
       && readyB i o .dir { p (q 1 0 16 1 0) with insts := List.replicate 1024 inst9 } && (instOf (p []) (nextNix (p [])).1).isNone
       && decide (Spec.le (fun b => viewByte (p (q 1 0 16 1 0)) 1536 (0x2000 + 4 + b)) 1 = 16)) = true ∧
    (let s (x : Nat) (h : Nat) (a : Option Ans) : State :=
       { dst [(2, BitVec.ofNat 64 x)] {} {} [] { ans := a } with dies := [(0, { evTail := BitVec.ofNat 32 h })] }
     ([0, 5].all fun x => readyB (.timerd 1#5 2#5) o .dir (s x 0 none) && readyB (.timerd 1#5 2#5) o .dir (s x 0 (some .timeout)))
       && readyB (.timerd 1#5 2#5) o .dir (s 5 1 none) && ringHolds (s 5 1 none) && !ringHolds (s 5 0 none)) = true ∧
    (let w : Score := { sseq := 7, tacc := 0 }
     let s (x y : Nat) (l : Map Score) : State := { dst [(2, BitVec.ofNat 64 x), (3, BitVec.ofNat 64 y)] with score := l }
     ([(0x2000, 0), (0x2000, 0x701), (0x2001, 0), (0x2000, 2)].all fun x => readyB (.score 1#5 2#5 3#5) o .dir (s x.1 x.2 []))
       && readyB (.score 1#5 2#5 3#5) o .dir (s 0x2000 0x701 [(7, w)]) && decide (scoreOf (s 0 0 []) 7 = none ∧ scoreOf (s 0 0 [(7, w)]) 7 = some w)
       && ownHbm (s 0 0 []) 0x2000 64 64 && !ownHbm (s 0 0 []) 0x2001 64 64) = true ∧
    ([(1, 0x2000), (2 ^ 63, 0x2000), (0, 0x2000), (2 ^ 64 - 1, 0x2000), (1, 0x2001)].all fun x =>
      readyB (.monsnap 1#5 2#5 3#5) o .dir (dst [(2, BitVec.ofNat 64 x.1), (3, BitVec.ofNat 64 x.2)])) = true ∧
    ownHbm (dst []) 0x2000 8192 64 = true ∧
    ([0, 1, 2].all fun x => [Phase.boot, .run, .adjourning, .adjourned].all fun p =>
      readyB (.adjourn 1#5 2#5) o .dir { dst [(2, BitVec.ofNat 64 x)] with phase := p }) = true ∧
    (let s : State := { dst [] {} {} [] { wait := .drain 0 5 } with cycle := 5 }
     lateDrain s = some 1536 ∧ lateDrain { s with cycle := 4 } = none) ∧
    (let s : State := { dst [] {} {} [] { wait := .timer 5 } with timeOfs := 5 }
     lateTimer s = some 1536) := by decide +kernel

/-- A sealed copy of an adjournment with one instance. -/
def sealOf (n : Nat) : Sealed :=
  { counter := n, nixCtr := 10, nixWrap := false, regCtr := 8, insts := [inst9], ctxTab := [(3, { v := true, root := 0x10000 })],
    images := [image0], clocks := [], items := [], score := [], hdls := [], mem := [(0x10000, 1#8)] }

/-- The smallest firmware: its sections are empty but .text.dir, which holds one word. -/
def firm : List Byte :=
  let sect (name off size : Nat) : List Byte := leBytes 4 name ++ leBytes 4 1 ++ leBytes 16 0 ++ leBytes 8 off ++ leBytes 8 size ++ leBytes 24 0
  let names : List Byte := [0#8] ++ firmSects.flatMap fun n => nameBytes n ++ [0#8]
  leBytes 4 0x464C457F ++ leBytes 4 0x00010102 ++ leBytes 8 0 ++ leBytes 2 2 ++ leBytes 2 0xCA3E ++ leBytes 20 0 ++ leBytes 8 64
    ++ leBytes 4 0x100 ++ leBytes 6 0 ++ leBytes 2 64 ++ leBytes 2 5 ++ leBytes 2 4 ++ leBytes 64 0
    ++ sect 1 0x40 4 ++ sect 11 0x40 0 ++ sect 17 0x40 0 ++ sect 25 0x180 33 ++ names

/-- A package whose keys and signatures fit, of a version. -/
def pkg (ver : Nat) (b : List Byte) : Pkg :=
  { edKey := [1#8], mlKey := [2#8], ed := { key := [1#8], ver := ver, digest := sha384 b }, ml := { key := [2#8], ver := ver, digest := sha384 b },
    ver := ver, digest := sha384 b, body := b, names := (sha384 [1#8], sha384 [2#8]) }

theorem test_hyp_PowerAndReset :
    ([Phase.off, .boot, .run, .adjourning, .adjourned].all fun p => decide (({ wst {} with phase := p } : State).phase = p)) = true ∧
    (adjournReady { wst {} with phase := .adjourning } && !adjournReady (wst {})) = true ∧
    (let h : HStart := { port := 4, first := 0, hpc := 64, src := 1, qn := 1, off := 98304, len := 64, ctx := 0, gen := 0#16 }
     let s : State := { wst { hrun := some h } with phase := .adjourning, ctxs := [(3, { run := .run })] }
     let x : HdlRec := { core := 0, run := some h, ctx := { pc := 9 }, starts := [] }
     let t : State := { wst {} with phase := .adjourned, hdls := [x], ctxTab := [(3, { v := true, root := 0x10000 })] }
     adjournReady s && decide ((s.core 0).hrun = some h ∧ t.byCmd = false ∧ t.phase = .adjourned ∧ (∀ y ∈ t.hdls, y.core = x.core → y = x)
       ∧ (3, { v := true, root := 0x10000 }) ∈ t.ctxTab ∧ 0x10000 % 2 ^ 40 + 4096 ≤ 2 ^ 40)) = true ∧
    (let s (b : Bool) (x : Option Sealed) : State := { wst {} with phase := .boot, bootFail := b, sealed := x, sealCtr := 5 }
     decide ((s true none).bootFail = true ∧ (s false (some (sealOf 5))).sealed = some (sealOf 5) ∧ (sealOf 5).counter = 5 ∧ (sealOf 4).counter ≠ 5
       ∧ (s false none).sealed = none)) = true ∧
    (let s (w a : Bool) : State := { wst { job := some { placedJob with ctx := 3 } } with wres := w, arg := { ok := a } }
     resetDue (s true false) && !resetDue (s false false) && decide ((s false true).arg.ok = true ∧ (s false true).phase ≠ .off)
       && ctxBusy (s false true) 3 && !ctxBusy (s false true) 4) = true ∧
    (let p := pkg 3 firm
     let s (a b : Option Pkg) (n : Nat) : State :=
       { wst {} with slotA := a, slotB := b, fwFloor := n, fwPkg := a, romEd := sha384 [1#8], romMl := sha384 [2#8], record := { pkg := pkg 0 [9#8] } }
     decide (fwBoot (s (some p) none 3) = some p ∧ fwBoot (s (some { p with digest := [] }) (some p) 0) = some p ∧ fwBoot (s (some p) none 4) = none
       ∧ fwKept (s (some p) none 3) = some p ∧ fwKept (s none none 0) = none)
       && recordOk (s none none 0) p && !recordOk { s none none 0 with recFloor := 1 } p && decide (firmOf p.body = some ([(0, 0#32)], []))) = true := by
  decide +kernel

/-- A module whose peer port 0 is as given, with routes to slots 1 and 2 through port 1, which is up. -/
def pst (x : Peer) (a : Arg) (m : List (Nat × List (Nat × Nat)) := []) : State :=
  { wst {} with peers := [(0, x), (1, { st := 2 })], routes := [(1, 0x0101#16), (2, 0x0101#16)], arg := a, ctxs := m.map fun p => (p.1, { wait := .remote }) }

/-- A flit from slot 1 to this device with a message, and the message of a flit with those before it. -/
def mflit (type seq : Nat) (l : List Nat) : Flit :=
  sealFlit { type := type, src := 1, seq := seq, data := (payloads 2 (wire l)).headD [] }
def mesg (s : State) (f : Flit) : List Nat :=
  let b := mget [] s.parts (f.type * 64 + f.src % 64) ++ (payloadOf f).1
  unwire b.length b

theorem test_hyp_PeerLinksAndBridge :
    (let f := mflit 1 5 [77, 0, 0x2000, 8, 3, 4, 0]
     let s := pst { st := 2, rxSeq := 4 } { port := 0, flit := f }
     decide (f.nak = false ∧ f.seq = ((s.peer 0).rxSeq + 1) % 4096 ∧ f.type = 1 ∧ f.dst = s.record.slot
       ∧ (payloadOf f).2 = true ∧ mesg s f = [77, 0, 0x2000, 8, 3, 4, 0] ∧ routeUp s f.src = true ∧ (s.peer 0).st = 2
       ∧ routeUp { s with routes := [] } f.src = false ∧ (payloadOf (mflit 1 5 (List.replicate 200 9))).2 = false)) = true ∧
    (let f := mflit 2 0 [9, 0, 55]
     let q : PeerReq := { id := 9, slot := 1, at_ := 0, ag := some 0, gath := none }
     let s : State := { pst { st := 2, rxSeq := 4095 } { port := 0, flit := f } with preqs := [q], ctxs := [(0, { wait := .remote })] }
     decide (f.seq = ((s.peer 0).rxSeq + 1) % 4096 ∧ mesg s f = 9 :: 0 :: [55] ∧ (payloadOf f).2 = true
       ∧ s.preqs.find? (fun w => decide (w.id = 9)) = some q ∧ (s.ctx 0).wait = .remote)) = true ∧
    (let f : Flit := { type := 1, dst := 3, seq := 5 }
     let g : Flit := sealFlit { f with dst := 1, viaV := true }
     let s := pst { st := 2, rxSeq := 4 } { port := 0, flit := f }
     decide (f.dst ≠ s.record.slot ∧ f.viaV = false ∧ g.dst ≠ s.record.slot ∧ g.via = s.record.slot
       ∧ routeUp s g.dst = true ∧ (routeOf s g.dst).getLsbD 9 = false)) = true ∧
    (let l : List Flit := [{ seq := 1 }, { seq := 2 }]
     let s (a n : Nat) := pst { st := 2, replay := l, resends := n } { port := 0, flit := sealFlit { type := 3, ack := a, nak := true } }
     decide (afterAck (s 1 0).arg.flit.ack l = [{ seq := 2 }] ∧ afterAck 0 l = l ∧ afterAck 2 l = []
       ∧ ((s 0 8).peer 0).resends = 8)) = true ∧
    (let s : State := { pst { st := 1 } {} with cycle := 15000000, preqs := [{ id := 9, slot := 1, at_ := 0, ag := some 0, gath := none }] }
     decide (lateRetrain s = some 0 ∧ s.arg.port = 0 ∧ (s.peer 0).st ≠ 2) && (deadReq s).isSome) = true ∧
    (let s (a v : Nat) (b : BrMod) : State := { wst {} with csrq := [(1536, a, BitVec.ofNat 64 v)], bridge := [(0, b)] }
     decide ((s 0x923 0x107 {}).csrq = (1536, 0x923, 0x107#64) :: [] ∧ ((s 0x904 1 {}).brMod 2).st = 0 ∧ ((s 0x904 1 {}).brMod 2).busy = none
       ∧ ((s 0x904 1 {}).die (agDie 1536)).brsel = 0 ∧ ((s 0x904 1 { st := 1 }).brMod 0).st = 1 ∧ ((s 0x904 2 {}).brMod 0).st = 0
       ∧ ((s 0x904 2 { st := 1 }).brMod 0).st = 1 ∧ badMap (0x80#32) 1 = false ∧ badMap (0xA0#32) 1 = true ∧ (0x33 : Nat) / 16 % 4 = 3
       ∧ (0x13 : Nat) / 16 % 4 = 1 ∧ ((s 0x903 0xFFFFFFFF { st := 3 }).brMod 0).st = 3)) = true ∧
    (let s (b : BrMod) : State := { wst {} with cycle := 30000, bridge := [(31, b)], arg := { port := 31 }, brThr := 2 }
     decide ((s {}).arg.ok = false ∧ ({ s {} with arg := { port := 31, ok := true } } : State).arg.ok = true
       ∧ pauseDone (s { busy := some (false, 29600) }) = some 31 ∧ trainDone (s { st := 2, busy := some (true, 0) }) = some 31
       ∧ ((s {}).brMod (31 % 32)).st = 0 ∧ (s {}).brThr ≤ Min.min (({ count := 1 } : BrMod).count + 1) (2 ^ 32 - 1)
       ∧ Min.min (({} : BrMod).count + 1) (2 ^ 32 - 1) < (s {}).brThr ∧ (s {}).brHit.getLsbD 31 = false)) = true := by decide +kernel

/-- A frame to host port 1, whose station address is 2:0:0:0:0:1 and whose address is 10.0.0.1, on an unprotected or a protected port. -/
def hst (x : Pay) (p : Bool := false) (sec : Option SecTag := none) (q : Ptp := {}) : State :=
  { wst {} with
    arg := { frame := { port := 1, dst := [2#8, 0#8, 0#8, 0#8, 0#8, 1#8], src := [2#8, 0#8, 0#8, 0#8, 0#8, 9#8], sec := sec, pay := x } },
    record := { prot := [(1, p)], mac := [(1, [2#8, 0#8, 0#8, 0#8, 0#8, 1#8])], ips := [(1, [[10#8, 0#8, 0#8, 1#8]])] }, ptp := q }

def me4 : List Byte := [10#8, 0#8, 0#8, 1#8]
def it4 : List Byte := [10#8, 0#8, 0#8, 9#8]

/-- A flit with its CRC is good, one with another is not. -/
theorem test_hyp_PeerLinksAndBridge_crc (f : Flit) :
    (sealFlit f).good = true ∧ { f with crc := ~~~(sealFlit f).crc }.good = false := by
  refine ⟨decide_eq_true rfl, decide_eq_false fun h => ?_⟩
  have k : ~~~(sealFlit f).crc = (sealFlit f).crc := h
  exact absurd (congrArg (fun x : BitVec 32 => x.getLsbD 0) k) (by simp)

/-- The check value of the CRC-32 of IEEE 802.3. -/
theorem test_crc32 : crc32 (nameBytes "123456789") = 0xCBF43926#32 := by decide +kernel

theorem test_hyp_HostPortFramesAndTime :
    (let k : Macsec := { key := [7#8], an := 1, rxPn := 4 }
     let s (x : Pay) (t : SecTag) : State := { hst x true (some t) with macsec := [(1, k)] }
     decide (mget false (hst (.echo it4 me4 false [])).record.prot 1 = false ∧ mget false (hst (.echo it4 me4 false []) true).record.prot 1 = true
       ∧ (hst (.echo it4 me4 false []) true).arg.frame.sec = none
       ∧ (s (.echo it4 me4 false []) { an := 1, pn := 5 }).macsec.find? (fun p => decide (p.1 = 1)) = some (1, k)
       ∧ fullPn k 5 = 5 ∧ fullPn k 4 ≤ k.rxPn ∧ k.rxPn < fullPn k 5 ∧ ({ an := 2, pn := 5 } : SecTag).an ≠ k.an
       ∧ exempt (hst (.echo it4 me4 false []) true) (hst (.echo it4 me4 false []) true).arg.frame = false)) = true ∧
    ([(Pay.resolve it4 me4 false [9#8], 1), (.resolve it4 it4 false [9#8], 1), (.resolve it4 me4 true [9#8], 1), (.echo it4 me4 false [5#8], 2),
      (.mka {}, 3), (.ptp {}, 4), (.other [], 5), (.echo it4 it4 false [], 5), (.echo it4 me4 true [], 5)].all fun x =>
        let s := hst x.1
        decide (s.phase ≠ .off ∧ frameKind s s.arg.frame = x.2 ∧ framePasses s s.arg.frame = true ∧ ownIp s 1 me4 = true ∧ ownIp s 1 it4 = false
          ∧ (x.2 = 3 ∨ framePasses (hst x.1 true) s.arg.frame = false))) = true ∧
    (let s (q : Ptp) (m : PtpMsg) := hst (.ptp m) false none q
     let on : Ptp := { en := true, port := 1, ports := [(1, { src := some 77, delay := some 10, req := some (3, 40), pair := some (20, 30) })] }
     decide ((s {} {}).ptp.en = false ∧ (s { on with port := 0 } {}).ptp.port ≠ (s {} {}).arg.frame.port ∧ ({ std := 1 } : PtpMsg).std ≠ on.profile
       ∧ (s on {}).ptp.port = (s on {}).arg.frame.port ∧ (ptpPort (s on {}) 1).src = some 77 ∧ (ptpPort (s on {}) 1).delay = some 10
       ∧ ((s on {}).time : Int) - (5 + 0) - 10 = -15 ∧ (on.stepthr : Int) < (-1000001 : Int).natAbs ∧ ((-99 : Int).natAbs : Int) ≤ on.stepthr
       ∧ (ptpPort (s on {}) 1).req = some (3, 40) ∧ (ptpPort (s on {}) 1).pair = some (20, 30))) = true ∧
    (let on : Ptp := { en := true, port := 1, lock := 2, ports := [(1, { src := some 77, at_ := 0, ivl := 100 })] }
     decide ((ptpPort (hst (.other []) false none on) 1).src ≠ none ∧ (hst (.other []) false none on).cycle < 0 + 3 * 100
       ∧ (ptpPort (hst (.other []) false none { on with ports := [] }) 1).src = none ∧ on.lock = 2)) = true ∧
    ({ wst {} with phase := .off } : State).phase = .off := by decide +kernel

theorem test_hyp_HostPortFramesAndTime_mka (m : Mka) :
    let s : State := hst (.mka { m with icv := Config.mkaIcv (hst (.mka m) true).record.cak (mkaText m) }) true
    ∃ m', s.arg.frame.pay = .mka m' ∧ m'.icv = Config.mkaIcv s.record.cak (mkaText m') ∧ mget false s.record.prot s.arg.frame.port = true :=
  ⟨_, rfl, rfl, rfl⟩

/-- The datagram of a request, from 10.0.0.9 to port 1. -/
def datagram (op sess seq : Nat) (body : List Byte) : Frame :=
  { port := 1, dst := [2#8, 0#8, 0#8, 0#8, 0#8, 1#8], src := [2#8, 0#8, 0#8, 0#8, 0#8, 9#8],
    pay := .udp it4 me4 5000 38120 (leBytes 4 0x01504345 ++ leBytes 4 op ++ leBytes 4 sess ++ leBytes 4 seq ++ leBytes 4 body.length
      ++ List.replicate 12 0#8 ++ body) }

/-- A module with session 1, whose last request was 4, and that request as its next one; context 3 is valid if v, its first GiB is
mapped to the physical addresses from 0 on, handle 5 is as given. -/
def est (op : Nat) (body : List Byte) (v : Bool := true) (h : Handle := {}) : State :=
  { hst (.other []) with
    arg := { frame := datagram op 1 5 body }, sess := [(1, { last := 4 })],
    ctxTab := [(3, { v := v, root := 0x10000, handles := [(5, h)] })], mem := putAt 0x10000 (leBytes 8 0x11001) ++ [(0x11000, 0x83#8)] }

def asksOp (s : State) (op : Nat) : Bool :=
  match reqOf s s.arg.frame with
  | some r => asksB s op r
  | none => false

/-- The smallest kernel image: its sections are empty but .claez.decl, which declares the occupancy of R38, each as 1. -/
def elf : List Byte :=
  let sect (name off size : Nat) : List Byte := leBytes 4 name ++ leBytes 4 1 ++ leBytes 16 0 ++ leBytes 8 off ++ leBytes 8 size ++ leBytes 24 0
  leBytes 4 0x464C457F ++ leBytes 4 0x00010102 ++ leBytes 8 0 ++ leBytes 2 2 ++ leBytes 2 0xCA3E ++ leBytes 20 0 ++ leBytes 8 64
    ++ leBytes 4 0x100 ++ leBytes 6 0 ++ leBytes 2 64 ++ leBytes 2 10 ++ leBytes 2 9 ++ leBytes 64 0
    ++ sect 1 704 0 ++ sect 10 704 0 ++ sect 19 704 0 ++ sect 28 704 0 ++ sect 38 704 0 ++ sect 44 704 176 ++ sect 56 704 0 ++ sect 64 704 0 ++ sect 0 880 72
    ++ ([(1, 0), (1, 1), (1, 2), (1, 3), (1, 4), (1, 5), (2, 0), (2, 1), (5, 0), (6, 0), (7, 0)].flatMap fun x =>
      leBytes 4 8 ++ leBytes 4 16 ++ leBytes 2 x.1 ++ leBytes 2 x.2 ++ leBytes 4 1)
    ++ [0#8] ++ kernelSects.flatMap fun n => nameBytes n ++ [0#8]

theorem test_hyp_EcpRequests :
    (let s : State := { wst {} with arg := { frame := { pay := .other [1#8] } } }
     decide (s.phase ≠ .off ∧ otherKind s s.arg.frame = false ∧ reqOf s s.arg.frame = none ∧ s.arg ≠ {})) = true ∧
    (let s (n q : Nat) (b : List Byte) : State := { hst (.other []) with arg := { frame := datagram 1 n q b }, sess := [(1, {})] }
     let r (s : State) : Option (Nat × Nat × Nat × List Byte) := (reqOf s s.arg.frame).map fun r => (r.op, r.sess, r.seq, r.body)
     decide (r (s 1 0 []) = some (1, 1, 0, []) ∧ r (s 0 0 [7#8]) = some (1, 0, 0, [7#8]) ∧ r (s 0 0 []) = some (1, 0, 0, []))
       && !(s 0 0 []).sess.any (fun p => decide (p.1 = 2)) && (s 0 0 []).sess.any (fun p => decide (p.1 = 1))
       && ((List.range 17).all fun n => ({ wst {} with sess := (List.range 17).map fun n => (n, {}) } : State).sess.any fun p => decide (p.1 = n))) = true ∧
    asksOp (est 2 []) 2 = true ∧
    staleSession { wst {} with sess := [(2, {})], cycle := 2 ^ 40 } = some 2 ∧
    (let s (n q : Nat) (x : Sess) : State := { hst (.other []) with arg := { frame := datagram 0x10 n q [] }, sess := [(1, x)] }
     let r (s : State) : Option (Nat × Nat × Nat) := (reqOf s s.arg.frame).map fun r => (r.op, r.sess, r.seq)
     decide (r (s 2 5 {}) = some (0x10, 2, 5) ∧ r (s 1 7 { last := 4 }) = some (0x10, 1, 7) ∧ r (s 1 4 { last := 4 }) = some (0x10, 1, 4)
       ∧ r (s 1 5 { last := 4, busy := true }) = some (0x10, 1, 5) ∧ notServed { s 1 5 { last := 4 } with phase := .boot } 0x10 = some 0x0E)) = true ∧
    asksOp (est 3 (leBytes 64 7)) 3 = true ∧
    ([(false, 3), (true, 1), (true, 3)].all fun x => asksOp (est 0x10 (leBytes 4 (0x300 + x.2 * 65536) ++ leBytes 4 0 ++ leBytes 8 0x300000 ++ elf) x.1) 0x10)
      = true ∧
    (match loadImage elf 0 3 0x300000 8 with | .ok _ => true | .bad _ _ _ => false) = true ∧
    ([false, true].all fun v => asksOp (est 0x11 (leBytes 8 3 ++ leBytes 8 0x300000 ++ [1#8, 2#8]) v) 0x11
      && asksOp (est 0x12 (leBytes 8 0x20003 ++ leBytes 8 0x300000) v) 0x12) = true ∧
    (ecpAccess (est 0x12 []) 3 0x300000 2 true = .inr [(0x300000, 2)] ∧ ecpAccess (est 0x12 []) 3 0x40000000 2 false = .inl (1, 0x40000000)) ∧
    (let b (v : Bool) (n : Nat) := leBytes 16 0x503 ++ gtab v false n 4
     let c : Handle := { cur := some (gd false 3) }
     asksOp (est 0x13 (b true 3) false) 0x13 && asksOp (est 0x13 (b true 3) true c) 0x13 && asksOp (est 0x13 (b true 3)) 0x13
       && asksOp (est 0x13 (leBytes 16 0x503 ++ (gtab true false 3 0))) 0x13 && descBad 0 (gtab true false 3 0) && !descBad 0 (gtab true false 3 4)
       && asksOp { est 0x13 (b true 3) with ghosts := List.replicate 512 { ctx := 1, handle := 0, d := gd false 3, swap := none } } 0x13
       && decide (heldCount (est 0x13 (b true 3)) < 512 ∧ curOf (est 0x13 (b true 3)) 3 5 = none ∧ curOf (est 0x13 (b true 3) true c) 3 5 ≠ none)
       && asksOp (est 0x13 (b false 3)) 0x13 && asksOp (est 0x13 (b false 3) true c) 0x13 && !toAccept (est 0x13 (b false 3) true c) 3 5
       && toAccept ((est 0x13 (b false 3) true c).setCore 0 { gcmds := [{ g0 .sync with ctx := 3 }] }) 3 5) = true ∧
    (let b (img nest : Nat) := leBytes 2 img ++ leBytes 2 nest ++ leBytes 4 0x00010F ++ leBytes 8 77
     asksOp (est 0x20 (b 2 0)) 0x20 && asksOp (est 0x20 (b 1 2)) 0x20 && asksOp (est 0x20 (b 1 1)) 0x20
       && asksOp { est 0x20 (b 1 1) with ctxTab := [(0, { v := true })] } 0x20 && decide (((est 0x20 (b 1 1)).ctxEnt image0.ctx).v = false)
       && asksOp { est 0x20 (b 1 1) with insts := List.replicate 1024 inst9 } 0x20 && (instOf (est 0x20 []) (nextNix (est 0x20 [])).1).isNone) = true ∧
    ([0#512, clk1 8].all fun c => asksOp (est 0x21 (leBytes 8 63 ++ leBytes 64 c.toNat)) 0x21) = true ∧
    (clkBad (est 0x21 []) 0#512 = true ∧ clkBad (est 0x21 []) (clk1 8) = false) ∧
    ([false, true].all fun v => asksOp (est 0x22 (leBytes 8 3) v) 0x22) = true ∧
    (let w (op : Nat) : EcpWait := { sess := 1, seq := 5, op := op, sseq := 1, port := 1, src := {}, ctx := if op = 0x22 then 3 else 101 }
     let s (op : Nat) : State := { est op [] with arg := {}, ecpq := [w op] }
     decide ((s 0x22).arg = {} ∧ (w 0x22).sess ≠ 0 ∧ toFinishKill (s 0x22) = some (0, w 0x22) ∧ toUnbind (s 0x13) = some (0, w 0x13))) = true ∧
    ([1, 15].all fun b => asksOp (est 0x30 (leBytes 8 7 ++ leBytes 8 b)) 0x30) = true ∧
    asksOp (est 0x31 (leBytes 8 1 ++ leBytes 8 3)) 0x31 = true ∧
    ([[], [1#8]].all fun b => asksOp (est 0x32 b) 0x32 && asksOp (est 0x40 b) 0x40 && asksOp (est 0x41 b) 0x41
      && asksOp { est 0x41 b with phase := .adjourned, byCmd := true } 0x41 && asksOp { est 0x41 b with phase := .boot } 0x41) = true ∧
    asksOp (est 0x50 (leBytes 40 (2 ^ 256))) 0x50 = true := by decide +kernel


end Sys2Proof.Tests
end

section
/-! SUPPORT. The rules that the memory and register statements of the scope share: an update of the issuing context made twice,
what a register reads after each write of a register, and what the operands and bytes of an access are as numbers. -/

namespace Sys2Proof.Machine

/-- The second of two writes of a key stands. -/
@[simp] theorem mset_mset {α : Type} (m : Map α) (k : Nat) (v w : α) : mset (mset m k v) k w = mset m k w := by
  induction m with
  | nil => simp [mset]
  | cons p t ih =>
    obtain ⟨k', v'⟩ := p
    rcases Nat.lt_trichotomy k k' with h | h | h
    · simp [mset, Nat.ne_of_lt h, h]
    · simp [mset, h]
    · simp [mset, Nat.ne_of_gt h, Nat.not_lt_of_gt h, ih]

@[simp] theorem State.setMe_setMe (s : State) (c d : Ctx) : (s.setMe c).setMe d = s.setMe d := by
  simp [State.setMe, State.setCtx]

/-! ### Registers -/

@[simp] theorem Ctx.reg_zero (c : Ctx) : c.reg 0 = 0#64 := rfl

/-- Orphaning the loads of a register leaves none that is to write it, and those of every other register (R138). -/
theorem find?_orphan (n k : Nat) (hk : k ≠ 0) (l : List Load) :
    (orphan n l).find? (fun x => decide (x.rd = k)) = if k = n then none else l.find? fun x => decide (x.rd = k) := by
  induction l with
  | nil => simp [orphan]
  | cons x t ih =>
    simp only [orphan, List.map_cons, List.find?_cons] at ih ⊢
    by_cases hx : x.rd = n
    · simp only [hx, if_true, Ne.symm hk, decide_false, ih]
      by_cases h : k = n
      · simp [h]
      · simp [h, Ne.symm h]
    · rw [if_neg hx, ih]
      by_cases h : k = n
      · simp [h, hx]
      · simp [h]

/-- Register 0 reads zero, the register written the value, every other register what it read. -/
theorem Ctx.reg_setReg (c : Ctx) (n : Nat) (v : DWord) (k : Nat) :
    (c.setReg n v).reg k = if k = 0 then 0#64 else if k = n then v else c.reg k := by
  by_cases hk : k = 0
  · simp [hk]
  by_cases hn : n = 0
  · subst hn; simp [Ctx.setReg, hk]
  · simp only [Ctx.setReg, hn, if_false, Ctx.reg, hk, find?_orphan _ _ hk]
    by_cases h : k = n
    · simp [h]
    · simp [h, mget_mput]

theorem getR_setR (s : State) (n : Nat) (v : DWord) (k : Nat) :
    getR (setR s n v) k = if k = 0 then 0#64 else if k = n then v else getR s k := by
  simp [getR, setR, Ctx.reg_setReg]

/-- Writing a register changes the register table and the loads of the issuing context. -/
theorem setR_rest (s : State) (n : Nat) (v : DWord) :
    setR s n v = s.setMe { s.me with regs := (setR s n v).me.regs, loads := (setR s n v).me.loads } := by
  by_cases hn : n = 0 <;> simp [setR, Ctx.setReg, hn]

/-- The data of a load reads at once in its register (R138). -/
theorem getR_addLoad (s : State) (rd : Nat) (v : DWord) (k : Nat) :
    getR (addLoad s rd v) k = if k = 0 then 0#64 else if k = rd then v else getR s k := by
  by_cases hk : k = 0
  · simp [getR, hk]
  by_cases hr : rd = 0
  · subst hr
    simp [getR, addLoad, Ctx.reg, hk, List.find?_append, Ne.symm hk]
  · simp only [getR, addLoad, State.setMe_me, Ctx.reg, hk, hr, if_false, List.find?_append, find?_orphan _ _ hk]
    by_cases h : k = rd
    · simp [h]
    · simp [h, Ne.symm h]

@[simp] theorem levels_addLoad (s : State) (rd : Nat) (v : DWord) : (addLoad s rd v).me.levels = s.me.levels := by
  simp [addLoad]

/-! ### Addresses (R161) -/

theorem add_simm (x : DWord) (off : BitVec 8) : x + simm off = BitVec.ofInt 64 (x.toInt + off.toInt) := by
  rw [BitVec.ofInt_add, BitVec.ofInt_toInt]; rfl

theorem eaOf_eq (x : DWord) (pi : Bool) (off : BitVec 8) :
    eaOf x pi off = if pi then x else BitVec.ofInt 64 (x.toInt + off.toInt) := by
  rw [eaOf, add_simm]

/-- With PI the base register is advanced by the offset; nothing else changes. -/
theorem getR_postInc (s : State) (rb : BitVec 5) (pi : Bool) (off : BitVec 8) (k : Nat) :
    getR (postInc s rb pi off) k =
      if pi = true ∧ k = rb.toNat ∧ k ≠ 0 then BitVec.ofInt 64 ((getR s rb.toNat).toInt + off.toInt) else getR s k := by
  cases pi with
  | false => simp [postInc]
  | true =>
    rw [postInc, if_pos rfl, getR_setR, add_simm]
    by_cases hk : k = 0
    · simp [hk, getR]
    · simp [hk]

/-- Over a replaced context it changes the register table and the loads of that context. -/
theorem postInc_setMe (s : State) (c : Ctx) (rb : BitVec 5) (pi : Bool) (off : BitVec 8) :
    postInc (s.setMe c) rb pi off = s.setMe { c with
      regs := (postInc (s.setMe c) rb pi off).me.regs, loads := (postInc (s.setMe c) rb pi off).me.loads } := by
  cases pi with
  | false => simp [postInc]
  | true =>
    have h := setR_rest (s.setMe c) rb.toNat (getR (s.setMe c) rb.toNat + simm off)
    rw [State.setMe_setMe, State.setMe_me] at h
    exact h

@[simp] theorem mem_postInc (s : State) (rb : BitVec 5) (pi : Bool) (off : BitVec 8) : (postInc s rb pi off).mem = s.mem := by
  cases pi <;> rfl

@[simp] theorem stores_postInc (s : State) (rb : BitVec 5) (pi : Bool) (off : BitVec 8) :
    (postInc s rb pi off).me.stores = s.me.stores := by
  cases pi with
  | false => rfl
  | true => rw [postInc, if_pos rfl, setR_rest, State.setMe_me]

/-! ### Bytes (R8) -/

theorem leNat_append (l : List Byte) (b : Byte) : leNat (l ++ [b]) = leNat l + b.toNat * 256 ^ l.length := by
  induction l with
  | nil => simp [leNat]
  | cons a t ih =>
    rw [List.cons_append, leNat, leNat, ih, List.length_cons, Nat.pow_succ', Nat.mul_add, Nat.add_assoc, Nat.mul_left_comm]

/-- The bytes of a list, each of its weight, are its number. -/
theorem leNat_map_range (f : Nat → Byte) (n : Nat) : leNat ((List.range n).map f) = Spec.le f n := by
  induction n with
  | zero => rfl
  | succ n ih => simp [List.range_succ, leNat_append, ih, Spec.le]

theorem leBytes_eq_map (n v : Nat) : leBytes n v = (List.range n).map fun k => BitVec.ofNat 8 (v / 256 ^ k) := by
  induction n generalizing v with
  | zero => rfl
  | succ n ih =>
    simp [leBytes, ih, List.range_succ_eq_map, Function.comp_def, Nat.div_div_eq_div_mul, Nat.pow_succ, Nat.mul_comm]

theorem toBytes_eq_map (n : Nat) (v : DWord) : toBytes n v = (List.range n).map (Spec.byteOf v) := leBytes_eq_map _ _

/-- A list as the table of its places. -/
theorem eq_map_getD {l : List Nat} {n : Nat} (h : l.length = n) : l = (List.range n).map fun k => l.getD k 0 := by
  subst h
  apply List.ext_getElem <;> simp +contextual

/-! ### Accesses (R161) -/

/-- A translated access has an address for each of its bytes. -/
theorem length_of_xlateN {s : State} {ag ea n : Nat} {w sys : Bool} {pas : List Nat}
    (h : xlateN s ag ea n w sys = .ok pas) : pas.length = n := by
  simp only [xlateN] at h
  split at h
  · cases h
  · split at h
    · split at h <;> cases h
      simp [spread]
    · split at h <;> cases h
      simp [spread]

theorem withAccess_ok {s : State} {ea n : Nat} {w sys : Bool} {pas : List Nat} (k : List Nat → Res)
    (h : xlateN s s.cur ea n w sys = .ok pas) : withAccess s ea n w sys k = k pas := by
  rw [withAccess, h]

theorem withAccess_fail {s : State} {ea n m va : Nat} {w sys : Bool} (k : List Nat → Res)
    (h : xlateN s s.cur ea n w sys = .fail m va) : withAccess s ea n w sys k = .trap 6 (BitVec.ofNat 64 va) m := by
  rw [withAccess, h]

theorem withAccess_miss {s : State} {ea n : Nat} {w sys : Bool} {vas : List Nat} (k : List Nat → Res)
    (h : xlateN s s.cur ea n w sys = .miss vas) : withAccess s ea n w sys k = .wait (startWalks s vas) := by
  rw [withAccess, h]

/-- An access with a poisoned byte has a poisoned unit (R465). -/
theorem poisonAt_of_mem {s : State} {pas : List Nat} {pa : Nat} (h : pa ∈ pas) (hp : pa % 2 ^ 40 ∈ s.poison) :
    ∃ u, poisonAt s pas = some u := by
  rw [← Option.isSome_iff_exists, poisonAt, Option.isSome_map, List.find?_isSome]
  exact ⟨pa, h, List.contains_iff_mem.mpr hp⟩

/-- The newest of the held stores gives a byte where it has one. -/
theorem heldByte_append (pa : Nat) (l : List Store) (st : Store) :
    heldByte pa (l ++ [st])
      = ((st.bytes.reverse.find? fun p => decide (p.1 % 2 ^ 40 = pa % 2 ^ 40)).map fun p => p.2).or (heldByte pa l) := by
  induction l with
  | nil => simp [heldByte]
  | cons a t ih =>
    simp only [List.cons_append, heldByte, ih]
    cases (st.bytes.reverse.find? fun p => decide (p.1 % 2 ^ 40 = pa % 2 ^ 40)) with
    | none => rfl
    | some p => rfl

/-- What a store of the low bytes of a value gives an address: the byte of the last place that names it. -/
theorem find?_stored {pas : List Nat} {n : Nat} (h : pas.length = n) (v : DWord) (pa : Nat) :
    ((pas.zip (toBytes n v)).reverse.find? fun p => decide (p.1 % 2 ^ 40 = pa % 2 ^ 40)).map (fun p => p.2)
      = ((List.range n).reverse.find? fun k => decide (pas.getD k 0 % 2 ^ 40 = pa % 2 ^ 40)).map (Spec.byteOf v) := by
  have hz : pas.zip (toBytes n v) = (List.range n).map fun k => (pas.getD k 0, Spec.byteOf v k) := by
    conv => lhs; rw [eq_map_getD h, toBytes_eq_map, List.zip_map']
  rw [hz, ← List.map_reverse, List.find?_map, Option.map_map]
  rfl

end Sys2Proof.Machine

namespace Sys2Proof

open Machine

/-! ### `issue` with an effect that does not complete -/

theorem waits_of {i : Instr} {r : Ring} {c : Cls} {s e : State} {body : State → Res} (h : Ready i r c s)
    (hx : exec i s = issue i r c body s) (hb : body s = .wait e) : exec i s = .next e := by
  rw [hx, issue_ready h, hb]; rfl

theorem triggers_of {i : Instr} {r : Ring} {c : Cls} {s : State} {body : State → Res} {u : Nat} {own : Bool}
    (h : Ready i r c s) (hx : exec i s = issue i r c body s) (hb : body s = .poison u own) :
    exec i s = .next (triggerPoison s s.cur u own) := by
  rw [hx, issue_ready h, hb]; rfl

@[simp] theorem levels_postInc (s : State) (rb : BitVec 5) (pi : Bool) (off : BitVec 8) :
    (postInc s rb pi off).me.levels = s.me.levels := by
  cases pi with
  | false => rfl
  | true => exact levels_setR _ _ _

end Sys2Proof
end
section
/-! PROOF. CSRR and CSRW (R147): what a write of a system register leaves to the issuing context, and the checks before predication. -/

namespace Sys2Proof

open Machine

theorem me_brThresholds (s : State) : (brThresholds s).me = s.me := by
  have step : ∀ (u : State) (m : Nat), (brThreshold u m).me = u.me := by
    intro u m
    unfold brThreshold
    split <;> rfl
  suffices h : ∀ (l : List Nat) (u : State), (l.foldl brThreshold u).me = u.me from h _ s
  intro l
  induction l with
  | nil => exact fun _ => rfl
  | cons m t ih => exact fun u => (ih _).trans (step u m)

/-- A written system register is none of the issuing context's own: only the thresholds of the bridge, 0x905, are more than an
update of one record. -/
theorem me_csrStore (s : State) (die n : Nat) (v : DWord) : (csrStore s die n v).me = s.me := by
  unfold csrStore
  dsimp only
  split
  case h_13 => exact me_brThresholds _
  case h_19 => split <;> rfl
  all_goals rfl

theorem me_csrWrite (s : State) (n : Nat) (v : DWord) : (csrWrite s n v).me = s.me := by
  unfold csrWrite
  split
  · rfl
  · split
    · rfl
    · exact me_csrStore _ _ _ _

/-- DTVEC takes the 14 bits of an instruction address (R435). -/
theorem csrWrite_dtvec (s : State) (v : DWord) :
    csrWrite s 0x802 v = s.setDie (agDie s.cur) { s.die (agDie s.cur) with dtvec := v.toNat % 2 ^ 14 } := by
  simp [csrWrite, csrQueued, csrStore]

/-- AGE_QUANTUM takes 32 bits, and 1 for zero (R383). -/
theorem csrWrite_ageQ (s : State) (v : DWord) :
    csrWrite s 0x800 v = s.setDie (agDie s.cur) { s.die (agDie s.cur) with ageQ := max 1 (v.toNat % 2 ^ 32) } := by
  have hmax : (if v.toNat % 2 ^ 32 = 0 then 1 else v.toNat % 2 ^ 32) = max 1 (v.toNat % 2 ^ 32) := by split <;> omega
  rw [← hmax]
  simp [csrWrite, csrQueued, csrStore]

theorem exec_csrw (r : Ring) (rs : BitVec 5) (n : BitVec 12) (s : State) :
    exec (.csrw r rs n) s = issue (.csrw r rs n) r .any (fun s =>
      if csrBadValue (agDie s.cur) n.toNat (getR s rs.toNat) then .trap 1 (word1 (.csrw r rs n)) 0
      else .ok (csrWrite s n.toNat (getR s rs.toNat))) s := rfl

theorem csrr_completes {r : Ring} {rd : BitVec 5} {n : BitVec 12} {s : State} (h : Ready (.csrr r rd n) r .any s) :
    Completes (.csrr r rd n) r s (setR s rd.toNat (csrRead s s.cur n.toNat)) :=
  completes_of (body := fun s => .ok (setR s rd.toNat (csrRead s s.cur n.toNat))) h rfl rfl (levels_setR _ _ _)

theorem csrw_completes {r : Ring} {rs : BitVec 5} {n : BitVec 12} {s : State} (h : Ready (.csrw r rs n) r .any s)
    (hv : csrBadValue (agDie s.cur) n.toNat (getR s rs.toNat) = false) :
    Completes (.csrw r rs n) r s (csrWrite s n.toNat (getR s rs.toNat)) :=
  completes_of h (exec_csrw r rs n s) (by rw [hv]; rfl) (by rw [me_csrWrite])

/-- Outside a Director a CSRW to a read-only register below 0x800 is Illegal Instruction (R9). -/
theorem illegalCode_csrw_readOnly {e : Eng} (r r' : Ring) (rs : BitVec 5) {n : BitVec 12} (die pc : Nat) (w : Bool)
    (hro : csrReadOnly n.toNat = true) (hn : n.toNat < 0x800) :
    illegalCode (.csrw r rs n) r' .any e die pc w = some 1 := by
  have hp : csrPriv e (.csrw r rs n) = false := decide_eq_false fun h => Nat.not_le_of_lt hn h.2.2
  have hs : staticCause e die pc (.csrw r rs n) = some 1 := by
    simp [staticCause, csrCode, hro, Nat.not_le_of_lt hn]
  rw [illegalCode, if_neg (by simp), if_neg (by simp [hp]), hs, ite_self]

/-- A number above 0x7FF is Privileged Instruction outside a Director (R99). -/
theorem illegalCode_csrw_priv {e : Eng} (he : e ≠ .dir) (hx : e ≠ .ex) (r r' : Ring) (rs : BitVec 5) {n : BitVec 12} (die pc : Nat)
    (w : Bool) (hn : 0x800 ≤ n.toNat) : illegalCode (.csrw r rs n) r' .any e die pc w = some 2 := by
  have hp : csrPriv e (.csrw r rs n) = true := decide_eq_true ⟨he, hx, hn⟩
  rw [illegalCode, if_neg (by simp), if_pos hp]

/-- Settles O28: reads and writes are the effects of `issue`; the traps are its checks before predication. -/
theorem systemRegisters : Obligations.SystemRegisters := by
  refine ⟨fun _ _ _ _ h => csrr_completes h, fun s => ⟨rfl, rfl, rfl, rfl, rfl, rfl, rfl, rfl, rfl⟩,
    fun _ _ _ _ h hv => csrw_completes h hv, fun s v => ⟨csrWrite_dtvec s v, csrWrite_ageQ s v, rfl⟩, fun r rs n s hrun he => ?_⟩
  · have hd : agEng s.cur ≠ .dir := by rcases he with h | h | ⟨h, -⟩ <;> simp [h]
    have hx : agEng s.cur ≠ .ex := by rcases he with h | h | ⟨h, -⟩ <;> simp [h]
    refine ⟨fun hro hn => ?_, fun hn => ?_⟩
    · rw [Traps, exec_csrw]
      exact issue_illegal hrun (illegalCode_csrw_readOnly _ _ _ _ _ _ hro hn) _
    · rw [Traps, exec_csrw]
      exact issue_illegal hrun (illegalCode_csrw_priv hd hx _ _ _ _ _ _ hn) _

end Sys2Proof
end

section
/-! PROOF. LD and ST (R161): the value that a load delivers, and what a held store shows to its own context. -/

namespace Sys2Proof

open Machine

/-- The value that a load delivers from n bytes, the lowest first. -/
def loadValue (sx : Bool) (n v : Nat) : DWord :=
  if sx then BitVec.ofInt 64 (BitVec.ofNat (8 * n) v).toInt else BitVec.ofNat 64 v

/-- The effect of LD. -/
def ldEffect (rd rb : BitVec 5) (sz : Size) (pi sx : Bool) (off : BitVec 8) (s : State) : Res :=
  if 16 ≤ s.me.loads.length then .wait s
  else withAccess s (eaOf (getR s rb.toNat) pi off).toNat (szN sz) false false fun pas =>
    match poisonAt s pas with
    | some u => .poison u false
    | none =>
      let bs := pas.map (viewByte s s.cur)
      .ok (postInc (addLoad s rd.toNat (if sx then ofBytesS bs else ofBytes bs)) rb pi off)

theorem exec_ld (r : Ring) (rd rb : BitVec 5) (sz : Size) (pi sx : Bool) (off : BitVec 8) (s : State) :
    exec (.ld r rd rb sz pi sx off) s = issue (.ld r rd rb sz pi sx off) r .any (ldEffect rd rb sz pi sx off) s := rfl

/-- The issuing context holds one more store back (R79). -/
def holdStore (s : State) (st : Store) : State := s.setMe { s.me with stores := s.me.stores ++ [st] }

@[simp] theorem mem_holdStore (s : State) (st : Store) : (holdStore s st).mem = s.mem := rfl
@[simp] theorem levels_holdStore (s : State) (st : Store) : (holdStore s st).me.levels = s.me.levels := by simp [holdStore]
@[simp] theorem stores_holdStore (s : State) (st : Store) : (holdStore s st).me.stores = s.me.stores ++ [st] := by simp [holdStore]
@[simp] theorem getR_holdStore (s : State) (st : Store) (k : Nat) : getR (holdStore s st) k = getR s k := by
  simp [getR, holdStore, Ctx.reg]

/-- The store that ST holds back: the low bytes of its register, the lowest first, under the tag of the context (R161, R463). -/
def storeOf (s : State) (sz : Size) (rs : BitVec 5) (pas : List Nat) : Store :=
  { tag := myTag s, bytes := pas.zip (toBytes (szN sz) (getR s rs.toNat)) }

/-- The effect of ST. -/
def stEffect (rs rb : BitVec 5) (sz : Size) (pi : Bool) (off : BitVec 8) (s : State) : Res :=
  if 32 ≤ s.me.stores.length then .wait s
  else withAccess s (eaOf (getR s rb.toNat) pi off).toNat (szN sz) true false fun pas =>
    .ok (postInc (holdStore s (storeOf s sz rs pas)) rb pi off)

theorem exec_st (r : Ring) (rs rb : BitVec 5) (sz : Size) (pi : Bool) (off : BitVec 8) (s : State) :
    exec (.st r rs rb sz pi off) s = issue (.st r rs rb sz pi off) r .any (stEffect rs rb sz pi off) s := rfl

/-! ### Loads -/

theorem ofBytesS_eq {l : List Byte} {n : Nat} (h : l.length = n) :
    ofBytesS l = BitVec.ofInt 64 (BitVec.ofNat (8 * n) (leNat l)).toInt := by
  subst h; rfl

/-- The bytes of an access, read in order, give the number of its places. -/
theorem loadValue_map {pas : List Nat} {n : Nat} (h : pas.length = n) (f : Nat → Byte) (sx : Bool) :
    (if sx then ofBytesS (pas.map f) else ofBytes (pas.map f)) = loadValue sx n (Spec.le (fun k => f (pas.getD k 0)) n) := by
  have hv : leNat (pas.map f) = Spec.le (fun k => f (pas.getD k 0)) n := by
    conv => lhs; rw [eq_map_getD h, List.map_map, leNat_map_range]
    rfl
  rw [ofBytesS_eq ((List.length_map f).trans h), ofBytes, hv, loadValue]

/-- LD with PI names two registers, or the base a0 (R161). -/
theorem ld_wf_base {r : Ring} {rd rb : BitVec 5} {sz : Size} {sx : Bool} {off : BitVec 8}
    (h : Instr.wf (.ld r rd rb sz true sx off) = true) : rb.toNat = rd.toNat → rb.toNat = 0 := by
  simp only [Instr.wf, Bool.not_true, Bool.false_or, Bool.and_eq_true, Bool.or_eq_true, decide_eq_true_eq] at h
  intro he
  rcases h.2 with hne | h0
  · exact absurd (BitVec.eq_of_toNat_eq he.symm) hne
  · rw [h0]; rfl

/-- What the registers read after a load and its post-increment. -/
theorem getR_load {rd rb : BitVec 5} {pi : Bool} (hb : pi = true → rb.toNat = rd.toNat → rb.toNat = 0) (off : BitVec 8)
    (s : State) (v : DWord) (k : Nat) :
    getR (postInc (addLoad s rd.toNat v) rb pi off) k =
      if k = 0 then 0#64
      else if k = rd.toNat then v
      else if pi = true ∧ k = rb.toNat then BitVec.ofInt 64 ((getR s rb.toNat).toInt + off.toInt)
      else getR s k := by
  rw [getR_postInc, getR_addLoad, getR_addLoad]
  by_cases hk : k = 0
  · simp [hk]
  by_cases hp : pi = true ∧ k = rb.toNat
  · obtain ⟨hpi, rfl⟩ := hp
    have hne : rb.toNat ≠ rd.toNat := fun h => hk (hb hpi h)
    simp [hk, hpi, hne]
  · have hp' : ¬(pi = true ∧ k = rb.toNat ∧ k ≠ 0) := fun h => hp ⟨h.1, h.2.1⟩
    simp only [hk, hp, hp', if_false]

section
variable {rd rb : BitVec 5} {sz : Size} {pi sx : Bool} {off : BitVec 8} {s : State} (hroom : s.me.loads.length < 16)
include hroom

theorem ldEffect_ok {pas : List Nat} (hp : poisonAt s pas = none)
    (hx : xlateN s s.cur (eaOf (getR s rb.toNat) pi off).toNat (szN sz) false false = .ok pas) :
    ldEffect rd rb sz pi sx off s = .ok (postInc (addLoad s rd.toNat
      (loadValue sx (szN sz) (Spec.le (fun k => viewByte s s.cur (pas.getD k 0)) (szN sz)))) rb pi off) := by
  rw [ldEffect, if_neg (Nat.not_le_of_lt hroom), withAccess_ok _ hx, ← loadValue_map (length_of_xlateN hx)]
  simp only [hp]

theorem ldEffect_poison {pas : List Nat} {u : Nat} (hp : poisonAt s pas = some u)
    (hx : xlateN s s.cur (eaOf (getR s rb.toNat) pi off).toNat (szN sz) false false = .ok pas) :
    ldEffect rd rb sz pi sx off s = .poison u false := by
  rw [ldEffect, if_neg (Nat.not_le_of_lt hroom), withAccess_ok _ hx]
  simp only [hp]

theorem ldEffect_fail {m va : Nat}
    (hx : xlateN s s.cur (eaOf (getR s rb.toNat) pi off).toNat (szN sz) false false = .fail m va) :
    ldEffect rd rb sz pi sx off s = .trap 6 (BitVec.ofNat 64 va) m := by
  rw [ldEffect, if_neg (Nat.not_le_of_lt hroom), withAccess_fail _ hx]

theorem ldEffect_miss {vas : List Nat}
    (hx : xlateN s s.cur (eaOf (getR s rb.toNat) pi off).toNat (szN sz) false false = .miss vas) :
    ldEffect rd rb sz pi sx off s = .wait (startWalks s vas) := by
  rw [ldEffect, if_neg (Nat.not_le_of_lt hroom), withAccess_miss _ hx]

end

/-- Settles O29: the load completes with `ldEffect_ok`, whose registers `getR_load` reads; the other answers of the access are the
other clauses. -/
theorem loadsReadTheContextsOwnView : Obligations.LoadsReadTheContextsOwnView := by
  rintro r rd rb sz pi sx off s i ea rfl hR hroom hea
  rw [← eaOf_eq] at hea
  subst hea
  refine ⟨?_, fun pas pa hx hmem hpoison => ?_,
    fun m va hx => traps_of hR (exec_ld ..) (ldEffect_fail hroom hx),
    fun vas hx => waits_of hR (exec_ld ..) (ldEffect_miss hroom hx)⟩
  · rintro pas v hx hp rfl
    refine ⟨_, completes_of hR (exec_ld ..) (ldEffect_ok hroom hp hx) ?_, fun k => ?_, postInc_setMe _ _ _ _ _⟩
    · rw [levels_postInc, levels_addLoad]
    · have hb : pi = true → rb.toNat = rd.toNat → rb.toNat = 0 := by
        rintro rfl
        exact ld_wf_base hR.wf
      exact getR_load hb off s _ k
  · obtain ⟨u, hu⟩ := poisonAt_of_mem hmem hpoison
    exact ⟨u, triggers_of hR (exec_ld ..) (ldEffect_poison hroom hu hx)⟩

/-! ### Stores -/

section
variable {rs rb : BitVec 5} {sz : Size} {pi : Bool} {off : BitVec 8} {s : State} (hroom : s.me.stores.length < 32)
include hroom

theorem stEffect_ok {pas : List Nat}
    (hx : xlateN s s.cur (eaOf (getR s rb.toNat) pi off).toNat (szN sz) true false = .ok pas) :
    stEffect rs rb sz pi off s = .ok (postInc (holdStore s (storeOf s sz rs pas)) rb pi off) := by
  rw [stEffect, if_neg (Nat.not_le_of_lt hroom), withAccess_ok _ hx]

theorem stEffect_fail {m va : Nat}
    (hx : xlateN s s.cur (eaOf (getR s rb.toNat) pi off).toNat (szN sz) true false = .fail m va) :
    stEffect rs rb sz pi off s = .trap 6 (BitVec.ofNat 64 va) m := by
  rw [stEffect, if_neg (Nat.not_le_of_lt hroom), withAccess_fail _ hx]

theorem stEffect_miss {vas : List Nat}
    (hx : xlateN s s.cur (eaOf (getR s rb.toNat) pi off).toNat (szN sz) true false = .miss vas) :
    stEffect rs rb sz pi off s = .wait (startWalks s vas) := by
  rw [stEffect, if_neg (Nat.not_le_of_lt hroom), withAccess_miss _ hx]

end

/-- The post-increment changes nothing that the context sees of memory. -/
theorem viewByte_postInc (s : State) (rb : BitVec 5) (pi : Bool) (off : BitVec 8) (pa : Nat) :
    viewByte (postInc s rb pi off) s.cur pa = viewByte s s.cur pa := by
  cases pi with
  | false => rfl
  | true =>
    rw [postInc, if_pos rfl, setR_rest]
    simp only [viewByte, veiled, State.setMe, State.ctx_setCtx_self]
    rfl

/-- The context sees the bytes of its newest held store, and elsewhere what it saw before (R81). -/
theorem viewByte_holdStore (s : State) (st : Store) (pa : Nat) :
    viewByte (holdStore s st) s.cur pa =
      ((st.bytes.reverse.find? fun p => decide (p.1 % 2 ^ 40 = pa % 2 ^ 40)).map fun p => p.2).getD (viewByte s s.cur pa) := by
  simp only [viewByte, holdStore, State.setMe, State.ctx_setCtx_self, State.me, heldByte_append, Option.getD_or]
  rfl

theorem viewByte_storeOf {s : State} {sz : Size} {pas : List Nat} (h : pas.length = szN sz) (rs : BitVec 5) (pa : Nat) :
    viewByte (holdStore s (storeOf s sz rs pas)) s.cur pa =
      match (List.range (szN sz)).reverse.find? (fun k => decide (pas.getD k 0 % 2 ^ 40 = pa % 2 ^ 40)) with
      | some k => Spec.byteOf (getR s rs.toNat) k
      | none => viewByte s s.cur pa := by
  rw [viewByte_holdStore, storeOf, find?_stored h]
  cases (List.range (szN sz)).reverse.find? _ <;> rfl

theorem getR_postInc_holdStore (s : State) (st : Store) (rb : BitVec 5) (pi : Bool) (off : BitVec 8) (k : Nat) :
    getR (postInc (holdStore s st) rb pi off) k =
      if pi = true ∧ k = rb.toNat ∧ k ≠ 0 then BitVec.ofInt 64 ((getR s rb.toNat).toInt + off.toInt) else getR s k := by
  rw [getR_postInc, getR_holdStore, getR_holdStore]

/-- Holding a store and the post-increment change the registers, the loads and the held stores of the context. -/
theorem postInc_holdStore (s : State) (st : Store) (rb : BitVec 5) (pi : Bool) (off : BitVec 8) :
    postInc (holdStore s st) rb pi off = s.setMe { s.me with
      regs := (postInc (holdStore s st) rb pi off).me.regs, loads := (postInc (holdStore s st) rb pi off).me.loads,
      stores := (postInc (holdStore s st) rb pi off).me.stores } := by
  rw [stores_postInc, stores_holdStore]
  exact postInc_setMe s { s.me with stores := s.me.stores ++ [st] } rb pi off

/-- Settles O30: the effect is a store held back (`viewByte_holdStore`) and the post-increment. -/
theorem storesAreHeld : Obligations.StoresAreHeld := by
  rintro r rs rb sz pi off s i ea rfl hR hroom hea
  rw [← eaOf_eq] at hea
  subst hea
  refine ⟨fun pas hx => ?_, fun m va hx => traps_of hR (exec_st ..) (stEffect_fail hroom hx),
    fun vas hx => waits_of hR (exec_st ..) (stEffect_miss hroom hx)⟩
  refine ⟨_, completes_of hR (exec_st ..) (stEffect_ok hroom hx) ?_, ?_, fun pa => ?_,
    getR_postInc_holdStore _ _ _ _ _, postInc_holdStore _ _ _ _ _⟩
  · rw [levels_postInc, levels_holdStore]
  · rw [mem_postInc, mem_holdStore]
  · exact (viewByte_postInc _ _ _ _ _).trans (viewByte_storeOf (length_of_xlateN hx) rs pa)

end Sys2Proof
end

section
/-! PROOF. LFSR_WRITE, EVHEAD_WRITE, MONCFG_WRITE and MONEDGE_WRITE (R435): each takes the write at the front of the queue and
replaces one core or one die. -/

namespace Sys2Proof.Machine

/-- The number that 32 bits hold of a value, 1 for zero (R55). -/
theorem setWidth_orOne (v : DWord) :
    (if v.setWidth 32 = 0#32 then 1#32 else v.setWidth 32) = BitVec.ofNat 32 (max 1 (v.toNat % 2 ^ 32)) := by
  have hz : v.setWidth 32 = 0#32 ↔ v.toNat % 2 ^ 32 = 0 := by simp [← BitVec.toNat_inj]
  by_cases h : v.toNat % 2 ^ 32 = 0
  · rw [if_pos (hz.mpr h), h]; rfl
  · rw [if_neg (mt hz.mp h), Nat.max_eq_right (by omega)]
    apply BitVec.eq_of_toNat_eq
    simp

theorem extractLsb'_low_eq_zero (v : DWord) : v.extractLsb' 0 32 = 0#32 ↔ v.toNat % 2 ^ 32 = 0 := by
  simp [← BitVec.toNat_inj]

variable {s : State} {ag : Nat} {v : DWord} {t : List (Nat × Nat × DWord)}

theorem exec_lfsrWrite (h : s.csrq = (ag, 0x017, v) :: t) :
    exec .lfsrWrite s = .next (({ s with csrq := t }).setCore (agCore ag)
      { s.core (agCore ag) with lfsr := BitVec.ofNat 32 (max 1 (v.toNat % 2 ^ 32)) }) := by
  show execLfsrWrite s = _
  rw [execLfsrWrite, h, ← setWidth_orOne]
  rfl

theorem exec_evheadWrite (h : s.csrq = (ag, 0x841, v) :: t) :
    exec .evheadWrite s = .next (({ s with csrq := t }).setDie (agDie ag)
      { s.die (agDie ag) with evHead := BitVec.ofNat 32 v.toNat }) := by
  show execEvheadWrite s = _
  rw [execEvheadWrite, h]
  rfl

/-- A die with its selected monitor given a configuration and edges, and its data cleared. -/
def monSet (d : Die) (cfg edge : DWord) (tick : Nat) : Die :=
  { d with mons := mset d.mons d.monsel { cfg := cfg, edge := edge }, tick := tick }

theorem mget_monSet_self (d : Die) (cfg edge : DWord) (tick : Nat) :
    mget {} (monSet d cfg edge tick).mons d.monsel = { cfg := cfg, edge := edge } := mget_mset_self _ _ _ _

theorem mget_monSet_ne (d : Die) (cfg edge : DWord) (tick : Nat) {k : Nat} (h : k ≠ d.monsel) :
    mget {} (monSet d cfg edge tick).mons k = mget {} d.mons k := mget_mset_ne _ _ _ h

theorem exec_moncfgWrite (h : s.csrq = (ag, 0xA01, v) :: t) :
    ∃ tick, exec .moncfgWrite s = .next (({ s with csrq := t }).setDie (agDie ag)
      (monSet (s.die (agDie ag)) (v &&& 0xFFF0FF03#64)
        (mget ({} : Mon) (s.die (agDie ag)).mons (s.die (agDie ag)).monsel).edge tick)) := by
  show ∃ _, execMoncfgWrite s = _
  rw [execMoncfgWrite, h]
  exact ⟨_, rfl⟩

theorem exec_monedgeWrite (h : s.csrq = (ag, 0xA02, v) :: t) :
    exec .monedgeWrite s = .next (({ s with csrq := t }).setDie (agDie ag)
      (monSet (s.die (agDie ag)) (mget ({} : Mon) (s.die (agDie ag)).mons (s.die (agDie ag)).monsel).cfg
        (if v.toNat % 2 ^ 32 = 0 then v + 1#64 else v) (s.die (agDie ag)).tick)) := by
  show execMonedgeWrite s = _
  rw [execMonedgeWrite, h]
  simp only [extractLsb'_low_eq_zero]
  rfl

end Sys2Proof.Machine

namespace Sys2Proof

open Machine

/-- Settles O39: each step replaces the one core or die that `exec_lfsrWrite` to `exec_monedgeWrite` name. -/
theorem registerWritesThatAreSteps : Obligations.RegisterWritesThatAreSteps := by
  rintro s ag v t d m rfl rfl
  refine ⟨fun h => ⟨_, exec_lfsrWrite h, rfl, ?_, fun n hn => ?_, rfl, rfl⟩,
    fun h => ⟨_, exec_evheadWrite h, rfl, State.die_setDie_self .., fun n hn => ?_, rfl, rfl⟩, fun h => ?_,
    fun h => ⟨_, exec_monedgeWrite h, rfl, ?_, fun k hk => ?_, rfl, rfl⟩⟩
  · rw [State.core_setCore_self]
  · exact (State.core_setCore ..).trans (if_neg hn)
  · exact (State.die_setDie ..).trans (if_neg hn)
  · obtain ⟨tick, hx⟩ := exec_moncfgWrite h
    refine ⟨_, hx, rfl, ?_, fun k hk => ?_, rfl, rfl⟩
    · rw [State.die_setDie_self, mget_monSet_self]
    · rw [State.die_setDie_self, mget_monSet_ne _ _ _ _ hk]
  · rw [State.die_setDie_self, mget_monSet_self]
  · rw [State.die_setDie_self, mget_monSet_ne _ _ _ _ hk]

end Sys2Proof
end

section
/-! SUPPORT. Tile registers as tables of elements (R43, R261): an element after a write of one element and of many. -/

namespace Sys2Proof.Machine

/-- The widths of the element types (R41): four bits, or whole bytes. -/
def ElWidth (w : Nat) : Prop := w = 4 ∨ ∃ b, 0 < b ∧ w = 8 * b

theorem ElWidth.pos {w : Nat} (h : ElWidth w) : 0 < w := by
  rcases h with rfl | ⟨b, hb, rfl⟩ <;> omega

theorem b8Fmt_ne_int (code w : Nat) (sg : Bool) : b8Fmt code ≠ .int w sg := by
  unfold b8Fmt
  repeat' split
  all_goals nofun

/-- An integer type has a width that a tile register holds. -/
theorem elWidth_of_elemFmt {t : ElemT} {m : Byte} {w : Nat} {sg : Bool} (h : elemFmt t m = .int w sg) : ElWidth w := by
  cases t
  case b8 => exact absurd h (b8Fmt_ne_int _ _ _)
  case i4 | n4 => cases h; exact .inl rfl
  case i8 | n8 => cases h; exact .inr ⟨1, by decide, rfl⟩
  case i16 | n16 => cases h; exact .inr ⟨2, by decide, rfl⟩
  case i32 | n32 => cases h; exact .inr ⟨4, by decide, rfl⟩
  case f16 | bf16 | f32 => cases h

theorem leNat_lt (l : List Byte) : leNat l < 256 ^ l.length := by
  induction l with
  | nil => simp [leNat]
  | cons b t ih =>
    have hb := b.isLt
    simp only [leNat, List.length_cons, Nat.pow_succ]
    omega

theorem leNat_leBytes (n v : Nat) : leNat (leBytes n v) = v % 256 ^ n := by
  induction n generalizing v with
  | zero => simp [leNat, leBytes, Nat.mod_one]
  | succ n ih =>
    rw [leBytes, leNat, ih, BitVec.toNat_ofNat]
    exact Nat.mod_mul.symm.trans (congrArg (v % ·) (Nat.pow_succ' (m := 256)).symm)

theorem length_leBytes (n v : Nat) : (leBytes n v).length = n := by simp [leBytes_eq_map]

/-- Keys apart from those written read what they read. -/
theorem mgetN_mputN_apart {α : Type} [DecidableEq α] (d : α) (m : Map α) (k j n : Nat) (bs : List α)
    (h : j + n ≤ k ∨ k + bs.length ≤ j) : mgetN d (mputN d m k bs) j n = mgetN d m j n := by
  induction n generalizing j with
  | zero => rfl
  | succ n ih =>
    rw [mgetN, mgetN, ih (j + 1) (by omega)]
    congr 1
    rcases h with h | h
    · exact mget_mputN_before _ _ _ _ _ (by omega)
    · exact mget_mputN_after _ _ _ _ _ (by omega)

theorem tileEl_nibble (c : Core) (v j : Nat) :
    tileEl c v 4 j = (mget 0#8 c.tiles (v * 2048 + j / 2)).toNat / 2 ^ (4 * (j % 2)) % 16 := if_pos rfl

theorem tileEl_bytes (c : Core) (v b j : Nat) : tileEl c v (8 * b) j = leNat (mgetN 0#8 c.tiles (v * 2048 + j * b) b) := by
  rw [tileEl, if_neg (by omega), Nat.mul_div_cancel_left b (by omega)]

theorem tileEl_lt {w : Nat} (hw : ElWidth w) (c : Core) (v j : Nat) : tileEl c v w j < 2 ^ w := by
  rcases hw with rfl | ⟨b, -, rfl⟩
  · rw [tileEl_nibble]; omega
  · have h := leNat_lt (mgetN 0#8 c.tiles (v * 2048 + j * b) b)
    rwa [mgetN_length, ← tileEl_bytes, show 256 = 2 ^ 8 from rfl, ← Nat.pow_mul] at h

/-- A byte holds two codes: writing one leaves the other. -/
theorem nibble_write {b p q : Nat} (x : Nat) (hp : p < 2) (hq : q < 2) :
    (if p = 0 then b / 16 * 16 + x % 16 else x % 16 * 16 + b % 16) % 256 / 2 ^ (4 * q) % 16
      = if q = p then x % 16 else b / 2 ^ (4 * q) % 16 := by
  obtain rfl | rfl : p = 0 ∨ p = 1 := by omega
  all_goals obtain rfl | rfl : q = 0 ∨ q = 1 := by omega
  all_goals simp only [if_true, if_false, Nat.one_ne_zero, Nat.zero_ne_one, Nat.mul_zero, Nat.mul_one, Nat.pow_zero, Nat.div_one]
  all_goals omega

theorem tileEl_putTileEl_nibble (c : Core) (v i x j : Nat) :
    tileEl (putTileEl c v 4 i x) v 4 j = if j = i then x % 16 else tileEl c v 4 j := by
  rw [tileEl_nibble, tileEl_nibble, putTileEl, if_pos rfl, mget_mput]
  by_cases hk : v * 2048 + j / 2 = v * 2048 + i / 2
  · have hij : j % 2 = i % 2 ↔ j = i := by omega
    rw [if_pos hk, hk, BitVec.toNat_ofNat,
      nibble_write x (Nat.mod_lt i Nat.two_pos) (Nat.mod_lt j Nat.two_pos)]
    simp only [hij]
  · rw [if_neg hk, if_neg (fun h => hk (by rw [h]))]

theorem tileEl_putTileEl_bytes (c : Core) (v b i x j : Nat) :
    tileEl (putTileEl c v (8 * b) i x) v (8 * b) j = if j = i then x % 2 ^ (8 * b) else tileEl c v (8 * b) j := by
  have ht : (putTileEl c v (8 * b) i x).tiles = mputN 0#8 c.tiles (v * 2048 + i * b) (leBytes b x) := by
    rw [putTileEl, if_neg (by omega), Nat.mul_div_cancel_left b (by omega)]
  rw [tileEl_bytes, tileEl_bytes, ht]
  by_cases hj : j = i
  · have h := mgetN_mputN 0#8 (leBytes b x) c.tiles (v * 2048 + i * b)
    rw [length_leBytes] at h
    rw [if_pos hj, hj, h, leNat_leBytes, show 256 = 2 ^ 8 from rfl, ← Nat.pow_mul]
  · rw [if_neg hj, mgetN_mputN_apart]
    rw [length_leBytes]
    rcases Nat.lt_or_gt_of_ne hj with h | h
    · have := Nat.mul_le_mul_right b (Nat.succ_le_of_lt h)
      rw [Nat.succ_mul] at this
      omega
    · have := Nat.mul_le_mul_right b (Nat.succ_le_of_lt h)
      rw [Nat.succ_mul] at this
      omega

/-- Writing an element changes that element alone of its register. -/
theorem tileEl_putTileEl {w : Nat} (hw : ElWidth w) (c : Core) (v i x j : Nat) :
    tileEl (putTileEl c v w i x) v w j = if j = i then x % 2 ^ w else tileEl c v w j := by
  rcases hw with rfl | ⟨b, -, rfl⟩
  · exact tileEl_putTileEl_nibble c v i x j
  · exact tileEl_putTileEl_bytes c v b i x j

theorem tileEl_putTile {w : Nat} (hw : ElWidth w) (c : Core) (v i : Nat) (l : List Nat) (j : Nat) :
    tileEl (putTile c v w i (l.map some)) v w j =
      if i ≤ j ∧ j < i + l.length then l.getD (j - i) 0 % 2 ^ w else tileEl c v w j := by
  induction l generalizing c i with
  | nil => rw [if_neg (by simp)]; rfl
  | cons x t ih =>
    rw [List.map_cons, putTile, ih, tileEl_putTileEl hw, List.length_cons]
    rcases Nat.lt_trichotomy j i with h | h | h
    · rw [if_neg (by omega), if_neg (by omega), if_neg (by omega)]
    · subst h
      rw [if_neg (by omega), if_pos rfl, if_pos (by omega), Nat.sub_self, List.getD_cons_zero]
    · obtain ⟨k, rfl⟩ : ∃ k, j = i + k + 1 := ⟨j - i - 1, by omega⟩
      simp only [show i + k + 1 - i = k + 1 by omega, show i + k + 1 - (i + 1) = k by omega, List.getD_cons_succ]
      by_cases hk : k < t.length
      · rw [if_pos (by omega), if_pos (by omega)]
      · rw [if_neg (by omega), if_neg (by omega), if_neg (by omega)]

/-- Writing elements where nothing is poisoned changes the tile registers alone. -/
theorem putTileEl_rest {c : Core} (hp : c.tpois = []) (v w i x : Nat) :
    putTileEl c v w i x = { c with tiles := (putTileEl c v w i x).tiles } := by
  unfold putTileEl
  split <;> simp only [hp, cleanse, List.filter_nil]

theorem putTile_rest {c : Core} (hp : c.tpois = []) (v w i : Nat) (l : List (Option Nat)) :
    putTile c v w i l = { c with tiles := (putTile c v w i l).tiles } := by
  induction l generalizing c i with
  | nil => rfl
  | cons x t ih =>
    cases x with
    | none => exact ih hp _
    | some x =>
      have h := putTileEl_rest hp v w i x
      have h2 : (putTileEl c v w i x).tpois = [] := by rw [h]; exact hp
      have h3 := ih h2 (i + 1)
      rw [h] at h3
      rw [putTile, h]
      exact h3

end Sys2Proof.Machine
end

section
/-! SUPPORT. A vector instruction whose operands are all tile registers (R261): its checks and waits pass, its sources are the elements
of their registers, and its results go to the destination without conversion. -/

namespace Sys2Proof.Machine

@[simp] theorem State.setMyCore_setMyCore (s : State) (c d : Core) : (s.setMyCore c).setMyCore d = s.setMyCore d := by
  simp [State.setMyCore, State.setCore]

@[simp] theorem Core.addFlags_zero (c : Core) : c.addFlags 0#5 = c := by simp [Core.addFlags]

@[simp] theorem myCore_addSample (s : State) (d a b c : Nat) (v : Int) : (addSample s d a b c v).myCore = s.myCore := by
  unfold addSample
  split <;> rfl

/-- The end of a wait changes no core (R484). -/
@[simp] theorem myCore_endStall (s : State) : (endStall s).myCore = s.myCore := by
  unfold endStall
  split
  · rfl
  · rw [myCore_addSample, State.setMe_myCore]

@[simp] theorem levels_endStall (s : State) : (endStall s).me.levels = s.me.levels := by
  unfold endStall
  split
  · rfl
  · rw [me_addSample, State.setMe_me]

/-! ### Operands -/

section
variable {c : Core} {ins : List VIn} {outs : List VDst} (hin : ∀ x ∈ ins, x.f < 32) (hout : ∀ x ∈ outs, x.f < 32)
include hin

theorem srcsReady_tiles : srcsReady c ins = true := by
  simp only [srcsReady, List.all_eq_true]
  intro x hx
  simp [hin x hx]

/-- Registers without poison trigger nothing (R465). -/
theorem popPoison_tiles (hp : c.tpois = []) : popPoison c ins = none := by
  rw [popPoison, List.head?_eq_none_iff, List.filterMap_eq_nil_iff]
  intro x hx
  simp [hin x hx, tilePoison, hp]

/-- The sources are the codes of the elements of their registers; nothing is popped. -/
theorem readSrcs_tiles : readSrcs c ins = (ins.map fun x => (List.range x.n).map (tileEl c x.f x.fmt.bits), c) := by
  induction ins with
  | nil => rfl
  | cons x t ih =>
    simp only [readSrcs, readSrc, hin x List.mem_cons_self, if_true, ih fun y hy => hin y (List.mem_cons_of_mem _ hy)]
    rfl

include hout

theorem operandReasons_tiles (p : Core) : operandReasons p ins outs = [] := by
  simp only [operandReasons, List.append_eq_nil_iff, List.map_eq_nil_iff, List.filter_eq_nil_iff, decide_eq_true_eq, Nat.not_le]
  exact ⟨hin, hout⟩

theorem noPortPending_tiles :
    ((ins.map (fun x => x.f) ++ outs.map fun x => x.f).any fun p => decide (32 ≤ p) && pendingOn c (p - 32)) = false := by
  simp only [List.any_eq_false, List.mem_append, List.mem_map]
  rintro p (⟨x, hx, rfl⟩ | ⟨x, hx, rfl⟩)
  · simp [Nat.not_le.mpr (hin x hx)]
  · simp [Nat.not_le.mpr (hout x hx)]

end

section
variable {c : Core} {outs : List VDst} (hout : ∀ x ∈ outs, x.f < 32)
include hout

theorem dstsRoom_tiles : dstsRoom c outs = true := by
  simp only [dstsRoom, List.all_eq_true]
  intro x hx
  simp [hout x hx]

theorem noGambitPush_tiles : (outs.any fun x => decide (32 ≤ x.f) && gamPushes c (x.f - 32)) = false := by
  simp only [List.any_eq_false]
  intro x hx
  simp [Nat.not_le.mpr (hout x hx)]

end

/-! ### Results -/

theorem emitTo_tile {x : VDst} (h : x.f < 32) (c : Core) (v : Nat) : emitTo x c v = (v, c) := if_pos (.inl h)

theorem emitAll_tile {x : VDst} (h : x.f < 32) (c : Core) (l : List Nat) :
    emitAll (emitTo x) c (l.map some) = (l.map some, c) := by
  induction l with
  | nil => rfl
  | cons v t ih => simp [emitAll, emitTo_tile h, ih]

theorem writeDsts_tile {x : VDst} (h : x.f < 32) (c : Core) (vs : List (Option Nat)) :
    writeDsts c [x] [vs] = putTile c x.f x.fmt.bits 0 vs := if_pos h

/-- Unmasked, without draws and flags, every element is its code by g. -/
theorem elements_tile {x : VDst} (h : x.f < 32) (c : Core) (rm : Rm) (g : List Nat → Nat) (i : Nat) (l : List (List Nat)) :
    elements (emitTo x) c none rm false (fun a _ => (g a, 0#5)) i l = ((l.map g).map some, c) := by
  induction l generalizing i with
  | nil => rfl
  | cons a t ih => simp [elements, maskOn, emitTo_tile h, ih]

/-- The codes of all sources for each element. -/
theorem zipAll_map {α : Type} (h : α → Nat → Nat) (n : Nat) {l : List α} (hl : l ≠ []) :
    zipAll (l.map fun a => (List.range n).map (h a)) = (List.range n).map fun j => l.map fun a => h a j := by
  induction l with
  | nil => exact absurd rfl hl
  | cons a t ih =>
    cases t with
    | nil => simp [zipAll, Function.comp_def]
    | cons b u =>
      have h2 := ih (by simp)
      rw [List.map_cons] at h2
      rw [List.map_cons, List.map_cons, zipAll, h2]
      · simp [List.zipWith_map, List.zipWith_self]
      · simp

/-! ### The run -/

/-- The state with the effect of a vector instruction with one tile register for destination. -/
def vecResult (ins : State → List VIn) (x : VDst) (f : VFun) (s : State) : State :=
  let rd := readSrcs s.myCore (ins s)
  let res := f (emitTo x) ((endStall s).setMyCore rd.2) rd.1
  res.2.setMyCore (writeDsts res.2.myCore [x] res.1)

/-- EX after the codes that g makes of the elements of the sources l went to the elements of register d. -/
def tileResult (w : Nat) (d : BitVec 6) (l : List (BitVec 6)) (g : List Nat → Nat) (s : State) : State :=
  (endStall s).setMyCore (putTile s.myCore d.toNat w 0
    (((List.range s.myCore.nel).map fun j => g (l.map fun a => tileEl s.myCore a.toNat w j)).map some))

theorem tileEl_tileResult {w : Nat} (hw : ElWidth w) (d : BitVec 6) (l : List (BitVec 6)) (g : List Nat → Nat) (s : State)
    {j : Nat} (hj : j < s.myCore.nel) :
    tileEl (tileResult w d l g s).myCore d.toNat w j = g (l.map fun a => tileEl s.myCore a.toNat w j) % 2 ^ w := by
  rw [tileResult, State.setMyCore_myCore, tileEl_putTile hw, if_pos (by simpa using hj)]
  simp [List.getD_eq_getElem?_getD, hj]

theorem myCore_tileResult {w : Nat} (d : BitVec 6) (l : List (BitVec 6)) (g : List Nat → Nat) {s : State}
    (hp : s.myCore.tpois = []) :
    (tileResult w d l g s).myCore = { s.myCore with tiles := (tileResult w d l g s).myCore.tiles } := by
  rw [tileResult, State.setMyCore_myCore]
  exact putTile_rest hp _ _ _ _

@[simp] theorem levels_tileResult (w : Nat) (d : BitVec 6) (l : List (BitVec 6)) (g : List Nat → Nat) (s : State) :
    (tileResult w d l g s).me.levels = s.me.levels := levels_endStall s

end Sys2Proof.Machine

namespace Sys2Proof

open Machine

/-- A vector instruction on unpoisoned tile registers that hold the shape completes with its results. -/
theorem completes_vexec {i : Instr} {r : Ring} {bits : Core → List Nat} {ok : Core → Bool} {ins : State → List VIn}
    {outs : State → List VDst} {x : VDst} {f : VFun} {s : State} (h : Ready i r .ex s)
    (hx : exec i s = vexec i r bits ok ins outs f s) (ho : outs s = [x])
    (hbits : ∀ b ∈ bits s.myCore, s.myCore.nel * b ≤ 16384) (hok : ok s.myCore = true)
    (hin : ∀ y ∈ ins s, y.f < 32) (hout : x.f < 32) (hp : s.myCore.tpois = [])
    (hl : (vecResult ins x f s).me.levels = s.me.levels) : Completes i r s (vecResult ins x f s) := by
  have hout' : ∀ y ∈ outs s, y.f < 32 := by rw [ho]; simpa using hout
  have hsize : ((bits s.myCore).any fun b => decide (16384 < s.myCore.nel * b)) = false := by
    simp only [List.any_eq_false, decide_eq_true_eq, Nat.not_lt]
    exact hbits
  refine completes_of h hx ?_ hl
  dsimp only
  rw [hsize, hok, operandReasons_tiles hin hout', noPortPending_tiles hin hout', noGambitPush_tiles hout', srcsReady_tiles hin,
    dstsRoom_tiles hout', popPoison_tiles hin hp, ho, myCore_endStall]
  rfl

/-- The sources of an elementwise instruction. -/
def elSrcs (t : ElemT) (l : List (BitVec 6)) (s : State) : List VIn :=
  l.map fun a => { f := a.toNat, fmt := elemFmt t s.myCore.fmt8, n := s.myCore.nel }

/-- The destination of an elementwise instruction. -/
def elDst (t : ElemT) (d : BitVec 6) (s : State) : VDst := { f := d.toNat, fmt := elemFmt t s.myCore.fmt8, n := s.myCore.nel }

section
variable {i : Instr} {r : Ring} {s : State} {w : Nat} {sg : Bool} {d : BitVec 6} {l : List (BitVec 6)} {t : ElemT}
  (h : Ready i r .ex s) (ht : elemFmt t s.myCore.fmt8 = .int w sg) (hd : d.toNat < 32) (hl : l ≠ []) (ha : ∀ a ∈ l, a.toNat < 32)
  (hn : s.myCore.nel * w ≤ 16384) (hp : s.myCore.tpois = [])
include ht hd hl ha

theorem vecResult_elements {f : VFun} {g : List Nat → Nat}
    (hf : ∀ a, f (emitTo (elDst t d s)) ((endStall s).setMyCore s.myCore) a
      = ([((zipAll a).map g).map some], (endStall s).setMyCore s.myCore)) :
    vecResult (elSrcs t l) (elDst t d s) f s = tileResult w d l g s := by
  have hin : ∀ y ∈ elSrcs t l s, y.f < 32 := by simpa [elSrcs] using ha
  have hz : zipAll ((elSrcs t l s).map fun x => (List.range x.n).map (tileEl s.myCore x.f x.fmt.bits))
      = (List.range s.myCore.nel).map fun j => l.map fun a => tileEl s.myCore a.toNat w j := by
    rw [← zipAll_map (fun a => tileEl s.myCore (BitVec.toNat a) w) _ hl]
    simp [elSrcs, ht, Function.comp_def, Fmt.bits]
  rw [vecResult, readSrcs_tiles hin]
  dsimp only
  rw [hf, State.setMyCore_setMyCore, State.setMyCore_myCore, writeDsts_tile hd, hz, tileResult, List.map_map]
  simp only [elDst, ht, List.map_map]
  rfl

include h hn hp

theorem completes_elements {ok : Core → Bool} {f : VFun} {g : List Nat → Nat} (hok : ok s.myCore = true)
    (hx : exec i s = vexec i r (fun c => [(elemFmt t c.fmt8).bits]) ok (elSrcs t l) (fun s => [elDst t d s]) f s)
    (hf : ∀ a, f (emitTo (elDst t d s)) ((endStall s).setMyCore s.myCore) a
      = ([((zipAll a).map g).map some], (endStall s).setMyCore s.myCore)) :
    Completes i r s (tileResult w d l g s) := by
  have hr := vecResult_elements ht hd hl ha hf
  rw [← hr]
  refine completes_vexec h hx rfl ?_ hok (by simpa [elSrcs] using ha) hd hp (by rw [hr, levels_tileResult])
  simpa [ht, Fmt.bits] using hn

/-- An unmasked elementwise instruction on an integer type. -/
theorem completes_elementwise {o : RmOv} {fi : Nat → Bool → List Nat → Nat}
    {ff : Bool → Fmt → List Nat → Machine.Num × FpFlags}
    (hx : exec i s = elementwise i r d l t none o noCheck fi ff s) : Completes i r s (tileResult w d l (fi w sg) s) := by
  refine completes_elements h ht hd hl ha hn hp rfl hx fun a => ?_
  simp only [State.setMyCore_myCore, ht, Fmt.isInt, Bool.not_true]
  rw [elements_tile hd, State.setMyCore_setMyCore]

/-- An instruction on the codes of an integer type. -/
theorem completes_bitwise {ok : Core → Bool} {g : Fmt → List Nat → Nat} (hok : ok s.myCore = true)
    (hx : exec i s = bitwise i r d l t ok g s) : Completes i r s (tileResult w d l (g (.int w sg)) s) := by
  refine completes_elements h ht hd hl ha hn hp hok hx fun a => ?_
  have he := emitAll_tile (x := elDst t d s) hd s.myCore ((zipAll a).map (g (.int w sg)))
  rw [List.map_map] at he ⊢
  simp only [quiet, State.setMyCore_myCore, ht, ← Function.comp_def some, he, State.setMyCore_setMyCore]

end

end Sys2Proof
end

section
/-! PROOF. The integer elements of the vector instructions (R264, R267, R268, R272): the codes that the machine computes are those of
the rules' numbers, and the one place where the statement asks for more than the machine does. -/

namespace Sys2Proof

open Machine

/-! ### Codes and numbers -/

/-- The number of a code (R43). -/
theorem codeInt_eq_val {w : Nat} (hw : 0 < w) (sg : Bool) (x : BitVec w) : codeInt w sg x.toNat = Spec.val sg x := by
  obtain ⟨n, rfl⟩ : ∃ n, w = n + 1 := ⟨w - 1, by omega⟩
  cases sg with
  | false => simp [codeInt, Spec.val]
  | true =>
    have hpow : 2 ^ (n + 1) = 2 ^ n * 2 := Nat.pow_succ ..
    simp only [codeInt, Spec.val, BitVec.toInt_eq_toNat_cond, true_and, if_true, Nat.add_sub_cancel]
    by_cases h : 2 ^ n ≤ x.toNat
    · rw [if_pos h, if_neg (by omega), hpow]
    · rw [if_neg h, if_pos (by omega)]

theorem intCode_mod (w : Nat) (v : Int) : intCode w v % 2 ^ w = (BitVec.ofInt w v).toNat := by
  have hp : (0 : Int) < (2 ^ w : Nat) := Int.natCast_pos.mpr (Nat.two_pow_pos w)
  have hlt := Int.emod_lt_of_pos v hp
  have hnn := Int.emod_nonneg v (Int.ne_of_gt hp)
  rw [BitVec.toNat_ofInt, intCode]
  exact Nat.mod_eq_of_lt (by omega)

theorem satCode_mod (w : Nat) (sg : Bool) (v : Int) : satCode w sg v % 2 ^ w = (Spec.sat w sg v).toNat := by
  rw [satCode, intCode_mod, Spec.sat]
  cases sg <;> simp

theorem val_eq_zero {w : Nat} (sg : Bool) (x : BitVec w) : Spec.val sg x = 0 ↔ x = 0#w := by
  cases sg with
  | false => simp [Spec.val, ← BitVec.toNat_inj]
  | true => simp [Spec.val, ← BitVec.toInt_inj]

theorem elQuot_mod {w : Nat} (sg : Bool) (x y : BitVec w) :
    elQuot w (Spec.val sg x) (Spec.val sg y) % 2 ^ w
      = (if y = 0#w then BitVec.allOnes w else BitVec.ofInt w ((Spec.val sg x).tdiv (Spec.val sg y))).toNat := by
  simp only [elQuot, val_eq_zero]
  split
  · rw [BitVec.toNat_allOnes, Nat.mod_eq_of_lt (Nat.sub_lt (Nat.two_pow_pos w) Nat.one_pos)]
  · exact intCode_mod _ _

theorem sarCode_mod {w : Nat} (hw : 0 < w) (x : BitVec w) (n : Nat) :
    intCode w (codeInt w true x.toNat / ((2 ^ n : Nat) : Int)) % 2 ^ w = (BitVec.ofInt w (x.toInt / 2 ^ n)).toNat := by
  rw [codeInt_eq_val hw, intCode_mod]
  simp [Spec.val]

theorem absCode_mod {w : Nat} (hw : 0 < w) (sg : Bool) (x : BitVec w) :
    absCode (.int w sg) x.toNat % 2 ^ w = (Spec.sat w sg ((Spec.val sg x).natAbs : Int)).toNat := by
  rw [absCode, codeInt_eq_val hw, satCode_mod]

theorem negCode_mod {w : Nat} (hw : 0 < w) (sg : Bool) (x : BitVec w) :
    negCode (.int w sg) x.toNat % 2 ^ w = (Spec.sat w sg (-Spec.val sg x)).toNat := by
  rw [negCode, codeInt_eq_val hw, satCode_mod]

theorem notCode_mod {w : Nat} (x : BitVec w) : (2 ^ w - 1 - x.toNat) % 2 ^ w = (~~~x).toNat := by
  rw [← BitVec.toNat_not, BitVec.toNat_mod_cancel]

/-! ### The instructions -/

/-- From the codes of n sources g makes the code that f makes of their elements. -/
def OnCodes (w n : Nat) (g : List Nat → Nat) (f : BitVec w → BitVec w → BitVec w → BitVec w) : Prop :=
  ∀ x : Nat → BitVec w, g ((List.range n).map fun k => (x k).toNat) % 2 ^ w = (f (x 0) (x 1) (x 2)).toNat

theorem iopd_codes {w : Nat} (hw : 0 < w) (sg : Bool) {n k : Nat} (x : Nat → BitVec w) (h : k < n) :
    iopd w sg ((List.range n).map fun k => (x k).toNat) k = Spec.val sg (x k) := by
  simp [iopd, List.getD_eq_getElem?_getD, h, codeInt_eq_val hw]

section
variable {w : Nat} {sg : Bool} {i : Instr} {r : Ring} {s : State} {d : BitVec 6} {l : List (BitVec 6)} {t : ElemT}
  {f : BitVec w → BitVec w → BitVec w → BitVec w} (hi : Spec.vecInt w sg i = some (d, l, t, f)) (hr : i.form = some (r, .ex))
  (h : Ready i r .ex s) (ht : elemFmt t s.myCore.fmt8 = .int w sg) (hd : d.toNat < 32) (ha : ∀ a ∈ l, a.toNat < 32)
  (hn : s.myCore.rows * s.myCore.cols * w ≤ 16384) (hp : s.myCore.tpois = [])
include hi hr h ht hd ha hn hp

/-- Each of the instructions completes with codes that are those of its rule, in the order of `Spec.vecInt`. -/
theorem vecInt_completes : ∃ g, Completes i r s (tileResult w d l g s) ∧ OnCodes w l.length g f := by
  have hw := (elWidth_of_elemFmt ht).pos
  unfold Spec.vecInt at hi
  split at hi <;> cases hi <;> cases hr
  · exact ⟨_, completes_elementwise h ht hd (by simp) ha hn hp (execVadd.eq_1 ..), fun x => by simp [iopd_codes hw, intCode_mod]⟩
  · exact ⟨_, completes_elementwise h ht hd (by simp) ha hn hp (execVsub.eq_1 ..), fun x => by simp [iopd_codes hw, intCode_mod]⟩
  · exact ⟨_, completes_elementwise h ht hd (by simp) ha hn hp (execVmul.eq_1 ..), fun x => by simp [iopd_codes hw, intCode_mod]⟩
  · exact ⟨_, completes_elementwise h ht hd (by simp) ha hn hp (execVmin.eq_1 ..), fun x => by simp [iopd_codes hw, intCode_mod]⟩
  · exact ⟨_, completes_elementwise h ht hd (by simp) ha hn hp (execVmax.eq_1 ..), fun x => by simp [iopd_codes hw, intCode_mod]⟩
  · exact ⟨_, completes_elementwise h ht hd (by simp) ha hn hp (execVabd.eq_1 ..),
      fun x => by simp [iopd_codes hw, absDiff, satCode_mod]⟩
  · exact ⟨_, completes_elementwise h ht hd (by simp) ha hn hp (execVadds.eq_1 ..), fun x => by simp [iopd_codes hw, satCode_mod]⟩
  · exact ⟨_, completes_elementwise h ht hd (by simp) ha hn hp (execVsubs.eq_1 ..), fun x => by simp [iopd_codes hw, satCode_mod]⟩
  · exact ⟨_, completes_elementwise h ht hd (by simp) ha hn hp (execVmulh.eq_1 ..), fun x => by simp [iopd_codes hw, intCode_mod]⟩
  · exact ⟨_, completes_elementwise h ht hd (by simp) ha hn hp (execVdiv.eq_1 ..), fun x => by simp [iopd_codes hw, elQuot_mod]⟩
  · exact ⟨_, completes_bitwise h ht hd (by simp) ha hn hp rfl (execVand.eq_1 ..), fun x => Nat.mod_eq_of_lt (x 0 &&& x 1).isLt⟩
  · exact ⟨_, completes_bitwise h ht hd (by simp) ha hn hp rfl (execVor.eq_1 ..), fun x => Nat.mod_eq_of_lt (x 0 ||| x 1).isLt⟩
  · exact ⟨_, completes_bitwise h ht hd (by simp) ha hn hp rfl (execVxor.eq_1 ..), fun x => Nat.mod_eq_of_lt (x 0 ^^^ x 1).isLt⟩
  · exact ⟨_, completes_bitwise h ht hd (by simp) ha hn hp rfl (execVshl.eq_1 ..),
      fun x => Nat.mod_mod ((x 0).toNat * 2 ^ ((x 1).toNat % w)) (2 ^ w)⟩
  · exact ⟨_, completes_bitwise h ht hd (by simp) ha hn hp rfl (execVshr.eq_1 ..), fun x => rfl⟩
  · exact ⟨_, completes_bitwise h ht hd (by simp) ha hn hp rfl (execVsar.eq_1 ..),
      fun x => sarCode_mod hw (x 0) ((x 1).toNat % w)⟩
  · exact ⟨_, completes_elementwise h ht hd (by simp) ha hn hp (execVfma.eq_1 ..), fun x => by simp [iopd_codes hw, intCode_mod]⟩
  · exact ⟨_, completes_elementwise h ht hd (by simp) ha hn hp (execVfms.eq_1 ..), fun x => by simp [iopd_codes hw, intCode_mod]⟩
  · exact ⟨_, completes_bitwise h ht hd (by simp) ha hn hp rfl (execVabs.eq_1 ..), fun x => absCode_mod hw sg (x 0)⟩
  · exact ⟨_, completes_bitwise h ht hd (by simp) ha hn hp (by simp [negOk, ht]) (execVneg.eq_1 ..),
      fun x => negCode_mod hw sg (x 0)⟩
  · exact ⟨_, completes_bitwise h ht hd (by simp) ha hn hp rfl (execVnot.eq_1 ..), fun x => notCode_mod (x 0)⟩
  · exact ⟨_, completes_bitwise h ht hd (by simp) ha hn hp rfl (execVmov.eq_1 ..), fun x => Nat.mod_eq_of_lt (x 0).isLt⟩

/-- The elements that O47 describes, for an instruction with the RING nibble r itself: with this hypothesis, which its statement
leaves out, its claim holds. -/
theorem integerElements_of_form : ∃ e, Completes i r s e ∧
    (∀ j < s.myCore.rows * s.myCore.cols, ∀ x : Nat → BitVec w,
      (∀ k, x k = BitVec.ofNat w (tileEl s.myCore (l.getD k 0#6).toNat w j)) →
      tileEl e.myCore d.toNat w j = (f (x 0) (x 1) (x 2)).toNat) ∧
    e.myCore = { s.myCore with tiles := e.myCore.tiles } := by
  obtain ⟨g, hg, hc⟩ := vecInt_completes hi hr h ht hd ha hn hp
  have hw := elWidth_of_elemFmt ht
  refine ⟨_, hg, fun j hj x hx => ?_, myCore_tileResult d l g hp⟩
  have hcodes : (l.map fun a => tileEl s.myCore a.toNat w j) = (List.range l.length).map fun k => (x k).toNat := by
    refine List.ext_getElem (by simp) fun k h1 _ => ?_
    have hk : k < l.length := by simpa using h1
    simp [hx, hk, List.getD_eq_getElem?_getD, Nat.mod_eq_of_lt (tileEl_lt hw _ _ _)]
  rw [tileEl_tileResult hw d l g s hj, hcodes, hc x]

end

/-! ### A RING nibble that is not the instruction's -/

/-- A VMOV whose word waits for a token of EX's first queue. -/
def waitingVmov : Instr := .vmov { wp := true, wn := false, sp := false, sn := false } 1#6 2#6 .i8

/-- EX of core 0 runs, and no queue holds a token. -/
def tokenlessEx : State := { cur := 1, ctxs := [(1, { run := .run })] }

/-- `Ready` under another nibble than the word's own asks for no token. -/
theorem ready_waitingVmov : Ready waitingVmov noRing .ex tokenlessEx where
  engine := by decide
  wf := rfl
  regs := rfl
  ring _ := rfl
  window _ := rfl
  fixed := rfl
  run := rfl
  sigs := rfl
  tokens q hq := absurd hq List.not_mem_nil
  guard := .inl rfl
  loads _ l hl := absurd hl List.not_mem_nil

/-- Without its token the instruction does not issue (R17). -/
theorem exec_waitingVmov : exec waitingVmov tokenlessEx = .next tokenlessEx := rfl

/-- So its pc stays, where an instruction that completes goes past its word (R105). -/
theorem not_completes_waitingVmov (r : Ring) (e : State) : ¬ Completes waitingVmov r tokenlessEx e := by
  rintro ⟨t, hx, -, hadv⟩
  rw [exec_waitingVmov] at hx
  cases hx
  have hpc : tokenlessEx.me.pc = tokenlessEx.me.pc + words waitingVmov := hadv fun v hv => absurd hv List.not_mem_nil
  have hwords : words waitingVmov = 1 := rfl
  omega

/-- Refutes O47: it takes every r for which `Ready` holds, where it means the RING nibble of i. EX without tokens is ready for
`waitingVmov` under `noRing`, but the instruction waits for the token that its own nibble names. With `i.form = some (r, .ex)` the
claim holds: `integerElements_of_form`. -/
theorem not_integerElements : ¬ Obligations.IntegerElements := by
  intro h
  obtain ⟨e, he, -⟩ := h waitingVmov noRing tokenlessEx 8 true 1#6 [2#6] .i8 _ ready_waitingVmov rfl rfl (by decide) (by decide)
    (by decide) rfl
  exact not_completes_waitingVmov noRing e he

end Sys2Proof
end
